-- ==== Sys2Proof/Word.lean ====
section
/-!
DEFINITION. Word.lean: the words, indices and identifiers of the Storvanak S4 (00_scope.md R10, R11; 01_device_overview.md R29, R36).
Only types stand here; every operation on them stands in Sys2Proof/Machine.
-/
namespace Sys2Proof

/-- One byte of memory. -/
abbrev Byte := BitVec 8
/-- A register, a general register or a descriptor word (R11: every register is 64 bits wide). -/
abbrev Word := BitVec 64
/-- A logical tile number (R36). -/
abbrev Tile := Fin 1024
/-- A partition, P0 to P63. -/
abbrev Part := Fin 64
/-- A fabric port (R355: 28 ports). -/
abbrev Port := Fin 28
/-- A compute die, D0 to D3. -/
abbrev Die := Fin 4
/-- A general register number G0 to G31 (R211). -/
abbrev GReg := Fin 32
/-- A vector register number V0 to V31 (R211). -/
abbrev VReg := Fin 32
/-- A mask register number VM0 to VM7 (R211). -/
abbrev MReg := Fin 8
/-- A switched power domain (R492: 30 domains). -/
abbrev Dom := Fin 30
/-- A board-store channel (R306: 12 channels). -/
abbrev Chan := Fin 12
/-- A slot of a cell (R391: 18 slots). -/
abbrev CellSlot := Fin 18
/-- A network station (R329: stations 0 to 1134). -/
abbrev Station := Fin 1135

/-- A table: a sparse map from numbers to values, a list of pairs with rising keys. -/
abbrev Tab (α : Type) := List (Nat × α)

end Sys2Proof
end

