-- ==== Sys2Proof/Syntax.lean ====
section
/-!
DEFINITION. Syntax.lean: the commands of the block, one constructor of `Instr` for each row of the opcode table.
No row of the table has bits or fields; the operands are the model's, read from the rule that each row cites (log entry 1).
-/
namespace Sys2Proof

/-- The element width of a vector instruction (R230). -/
inductive Sew where
  | s8 | s16 | s32 | s64
deriving DecidableEq, Repr, Inhabited

/-- What ends a stream descriptor early: a gather or scatter index out of range (R192), a refused or failed remote access (R193), the gather time limit (R194) or a reset. -/
inductive StreamEnd where
  | gather
  | remoteRefused (code : Byte)
  | quota
  | timeout
  | remoteReset
deriving DecidableEq, Repr

/-- How a packet's header arrives (R351): whole; with uncorrectable words, whose bits are set; or with a reserved opcode or field, which is a header that
`decodeHeader` does not read. -/
inductive HdrState where
  | ok
  | ue (words : Byte)
  | bad
deriving DecidableEq, Repr, Inhabited

/-- What happens to a packet on its way (R351): its header, and the number of single-bit errors corrected. -/
structure Transit where
  hdr : HdrState := .ok
  corrected : Nat := 0
deriving DecidableEq, Repr, Inhabited

/-- How a register is reached: over BAR0 with an access of `size` bytes at `off` (R11), which travels as MRD or MWR (R332), by the MRD or MWR that arrived over port `n` and
waits at family control under an entry of the port (R406), or as system register `n` of tile `t` (R212). -/
inductive RegAccess where
  | bar0 (off size : Nat) (way : Transit := {})
  | link (n : Port) (txid : BitVec 16)
  | sys (t : Tile) (n : Fin 2048)
deriving DecidableEq, Repr

/-- The tile whose oldest post to an engine travels there as a POST (R332). -/
structure Poster where
  tile : Tile
  way : Transit := {}
deriving DecidableEq, Repr

/-- The station that an MCMD comes from, and its way. -/
structure Requester where
  stn : Station
  way : Transit := {}
deriving DecidableEq, Repr

/-- The originator of a packet of a collective (R331, R434): the sender's index in its group, and the packet's station, TXID, tag, epoch and way. -/
structure Sender where
  index : Nat := 0
  stn : BitVec 11 := 1132
  txid : BitVec 16 := 0
  tag : BitVec 7 := 0
  epoch : Byte := 0
  way : Transit := {}
deriving DecidableEq, Repr, Inhabited

/-- The header flit of a network packet (R331), and what happens to the packet on its way (R351). -/
structure Packet where
  vc : BitVec 2 := 1
  opcode : BitVec 6 := 0
  dflits : BitVec 4 := 0
  tag : BitVec 7 := 0x40
  retrySafe : Bool := false
  hint : BitVec 2 := 0
  reqEpoch : Byte := 0
  rspEpoch : Byte := 0
  code : Byte := 0
  txid : BitVec 16 := 0
  srcStn : BitVec 11 := 0
  dstStn : BitVec 11 := 0
  dstUnit : BitVec 32 := 0
  addr : Word := 0
  bytesM1 : BitVec 9 := 0
  poison : Byte := 0
  retryAfter : BitVec 32 := 0
  oparg : List Byte := []
  way : Transit := {}
deriving DecidableEq, Repr, Inhabited

/-- What the packets of a stream descriptor met on their way (R351): the packets with corrected errors or a damaged header, and the elements, by stream and index in it, whose data
arrived with an uncorrectable word. -/
structure StreamNet where
  hurt : List Packet := []
  ue : List (Nat × Nat) := []
deriving DecidableEq, Repr, Inhabited

/-- How a stream descriptor ran (R210, R351): the tclk it waited, and what its packets met. -/
structure StreamRun where
  stall : Nat := 0
  net : StreamNet := {}
deriving DecidableEq, Repr, Inhabited

/-- A place in a stream descriptor (R199): a stream, and an element of the rectangle in row-major order. -/
structure StreamPlace where
  stream : Fin 6
  elem : Nat
deriving DecidableEq, Repr, Inhabited

/-- The command of a sequencer that ends, and those of its packets that met errors (R249, R351). -/
structure SolvDone where
  seq : BitVec 16
  hurt : List Packet
deriving DecidableEq, Repr, Inhabited

/-- Bytes 4 to 7 of LOCATION_ASSIGN (R394): the slot, and the reserved bytes. -/
structure SlotBytes where
  slot : Byte
  rest : List Byte
deriving DecidableEq, Repr, Inhabited

/-- A vendor-defined message of the management port (R578): its command byte, and the bytes after it. -/
structure VdmBytes where
  cmd : Byte
  rest : List Byte
deriving DecidableEq, Repr, Inhabited

/-- A read of BAR2 (R351, R566): its length, what its packet meets, and whether a word of the answer's data arrives uncorrectable. -/
structure Bar2Read where
  len : Nat
  way : Transit
  ue : Bool
deriving DecidableEq, Repr, Inhabited

/-- What a write of BAR2 carries beside its data (R351, R602): the poison flag, and what the packet of its first piece meets. -/
structure Bar2Mark where
  ep : Bool
  way : Transit
deriving DecidableEq, Repr, Inhabited

/-- A flit of a link slot (R331, R360): a header, or 64 bytes of data. -/
inductive Flit where
  | head (p : Packet)
  | body (bytes : List Byte)
deriving DecidableEq, Repr, Inhabited

/-- A slot of a frame that holds a flit, with its VC of SLOTVC (R360). -/
structure Slot where
  vc : BitVec 2 := 1
  flit : Flit
deriving DecidableEq, Repr, Inhabited

/-- A frame of a fabric link as a receiver sees it (R360, R362): the control fields, whether the codewords decode, FCS matches and TAG verifies,
the codewords counted with the frame that FEC could not correct (a codeword may carry parts of two frames and counts once, R390), the symbols that FEC corrected, and the slots that hold a flit, in order. -/
structure Frame where
  seq : BitVec 16 := 0
  ack : BitVec 16 := 0
  nak : Bool := false
  swapReq : Bool := false
  swapAck : Bool := false
  lane : BitVec 4 := 0
  swapSeq : BitVec 16 := 0
  credit : List Byte := []
  fcount : Word := 0
  fecOk : Bool := true
  fecUe : Nat := 0
  fecCorrected : Nat := 0
  fcsOk : Bool := true
  tagOk : Bool := true
  slots : List Slot := []
deriving DecidableEq, Repr, Inhabited

/-- The argument of a READY (R431). -/
structure ReadyRec where
  ctag : BitVec 32 := 0
  hash : Word := 0
  op : Byte := 0
  rfmt : Byte := 0
  vlen : Word := 0
  root : BitVec 16 := 0
  t : BitVec 16 := 0
  index : BitVec 16 := 0
  invar : Bool := false
  count : Word := 0
  via : Sender := {}
deriving DecidableEq, Repr, Inhabited

/-- One CDATA packet (R434): the phase it belongs to, the sender's index, the byte offset and the bytes, with the poisoned flits. -/
structure CollData where
  ctag : BitVec 32 := 0
  sender : Nat := 0
  phase : Nat := 1
  offset : Nat := 0
  data : List Byte := []
  poison : Byte := 0
  via : Sender := {}
deriving DecidableEq, Repr, Inhabited

/-- The counts of R499 of one partition in one quadrant for one control period, indices 0 to 11. -/
structure Activity where
  part : Part
  quad : Fin 16
  counts : List Nat
deriving DecidableEq, Repr

/-- One sample of the five regulators in mW: VIN_CORE_D0 to VIN_CORE_D3 and VIN_AUX (R501); `none`: the regulator does not answer. -/
structure Rails where
  core : List (Option Nat)
  aux : Option Nat
deriving DecidableEq, Repr

/-- One reading of the 16 quadrant sensors and the 4 stacked-memory sensors in degrees (R515). -/
structure Temps where
  quads : List Nat
  mems : List Nat
deriving DecidableEq, Repr

/-- The report of the start-up step that ends (R553, R557): whether it passed, the instances that failed in it (quadrant bits 4d + q, die, channel, bank
or unit bits, by step), the row skips that BOOT_08 maps as 4 * quadrant + row with SKIP (R37), and the FAIL_STEP of each channel that BOOT_11 failed (R308). -/
structure BootReport where
  pass : Bool := true
  mask : BitVec 32 := 0
  solder : List (Nat × Nat) := []
  /-- rows that the memory self-test marks failing: physical tile index, and 2048 * tier + row (R304) -/
  rows : List (Nat × Nat) := []
  chanFail : List (Nat × Nat) := []
deriving DecidableEq, Repr

/-- The two paths of an SPDM responder (R589). -/
inductive SpdmPath where
  | mctp | doe
deriving DecidableEq, Repr, Inhabited

/-- The commands: one constructor for each row of the opcode table, in the table's order. -/
inductive Instr where
  /-- REGISTER_WRITE: A BAR0 or system-register write to a register that has no row of its own applies the access codes of its fields, including W1C and W1S bits. (R12) -/
  | registerWrite (acc : RegAccess) (v : Word) (ep : Bool)
  /-- COUNTER_CLEAR: A write of CLEAR to a saturating counter sets COUNT to 0, keeping any events counted in the same cycle. (R110) -/
  | counterClear (acc : RegAccess) (same : Nat)
  /-- IMG_START: IMG_CTRL.START begins a load, and its verify pass checks the image in the order of the rejection table. (R50) -/
  | imgStart (img : List Byte) (srcErr : Bool)
  /-- IMG_ABORT: IMG_CTRL.ABORT ends a load in its verify pass with ABORTED and has no effect during the apply pass. (R65) -/
  | imgAbort
  /-- VERIFY_END: The verify pass ends, the RUNNING check is made, and the load is either rejected or enters its apply pass. (R66) -/
  | verifyEnd
  /-- APPLY_END: The apply pass of a full or partial load ends, leaving partitions STOPPED or EMPTY and setting DONE_EVT or REJECT_EVT. (R62) -/
  | applyEnd (img : List Byte) (srcErr : Bool)
  /-- PART_RUN: IMG_PART_p.RUN starts the partition program at its entry point on every tile of the partition. (R67) -/
  | partRun (p : Part)
  /-- PART_STOP: IMG_PART_p.STOP makes the dispatcher cease issuing at the next work-item boundary, or ends a suspension. (R68) -/
  | partStop (p : Part)
  /-- PART_STOPPED: A stopping partition becomes STOPPED once no work item, collective or sequencer command of it remains. (R68) -/
  | partStopped (p : Part)
  /-- PART_WDOG_EXPIRE: A tile's partition-watchdog count reaches WDOG_MS, and the partition becomes FAULTED with cause WATCHDOG. (R609) -/
  | partWdogExpire (t : Tile)
  /-- MX_DESC_START: A queued matrix descriptor starts its first block once the descriptor before it ends and the scoreboard releases it. (R127) -/
  | mxDescStart (t : Tile) (parity : Bool)
  /-- MX_CHUNK_END: At the end of a chunk, the engine promotes each block's chunk values into the slot's totals and compensation terms. (R157) -/
  | mxChunkEnd (t : Tile)
  /-- MX_DESC_DONE: A matrix descriptor completes with its code, frees its queue entry and may raise MX_DONE. (R124) -/
  | mxDescDone (t : Tile) (stall : Nat)
  /-- MX_SKIP_DONE: A matrix descriptor that was not executed completes in queue order without making any access. (R634) -/
  | mxSkipDone (t : Tile)
  /-- ACC_SLOT_FREE: A write to ACC_SLOT_FREE places a free of each named slot in that slot's order. (R150) -/
  | accSlotFree (t : Tile) (mask : Word)
  /-- ACC_FREE_EFFECT: A slot free takes effect in the tclk after every earlier operation on the slot has completed, unbinding the slot. (R150) -/
  | accFreeEffect (t : Tile) (slot : Fin 64)
  /-- STRM_DESC_START: A stream descriptor makes its first access after issue, after its predecessor's last access and after any scoreboard or overlap wait. (R206) -/
  | strmDescStart (t : Tile) (parity : Bool)
  /-- STRM_DESC_DONE: A stream descriptor completes 4 tclk plus its stage latencies after its last access. (R206) -/
  | strmDescDone (t : Tile) (run : StreamRun)
  /-- STRM_DESC_FAULT_END: A fault that becomes known during execution ends the descriptor at an element, and only the outputs below that element are written. (R199) -/
  | strmDescFaultEnd (t : Tile) (ending : StreamEnd) (place : StreamPlace) (run : StreamRun)
  /-- STRM_SKIP_DONE: A stream descriptor that was not executed completes at the tclk of its would-be first access without making any access. (R635) -/
  | strmSkipDone (t : Tile)
  /-- INTERRUPT_ENTRY: A pending, enabled interrupt is taken at an instruction boundary while IE is 1 and EXL is 0. (R239) -/
  | interruptEntry (t : Tile)
  /-- ADD: The ALU instruction ADD writes A + B modulo 2^64. (R220) -/
  | add (t : Tile) (d : GReg) (a : GReg) (b : GReg)
  /-- SUB: The ALU instruction SUB writes A − B modulo 2^64. (R220) -/
  | sub (t : Tile) (d : GReg) (a : GReg) (b : GReg)
  /-- AND: The ALU instruction AND writes A AND B. (R220) -/
  | and (t : Tile) (d : GReg) (a : GReg) (b : GReg)
  /-- OR: The ALU instruction OR writes A OR B. (R220) -/
  | or (t : Tile) (d : GReg) (a : GReg) (b : GReg)
  /-- XOR: The ALU instruction XOR writes A XOR B. (R220) -/
  | xor (t : Tile) (d : GReg) (a : GReg) (b : GReg)
  /-- SLL: The ALU instruction SLL shifts A left by B[5:0]. (R220) -/
  | sll (t : Tile) (d : GReg) (a : GReg) (b : GReg)
  /-- SRL: The ALU instruction SRL shifts A right by B[5:0], with zeros entering. (R220) -/
  | srl (t : Tile) (d : GReg) (a : GReg) (b : GReg)
  /-- SRA: The ALU instruction SRA shifts A right arithmetically by B[5:0]. (R220) -/
  | sra (t : Tile) (d : GReg) (a : GReg) (b : GReg)
  /-- SLT: The ALU instruction SLT writes 1 if A < B signed, else 0. (R220) -/
  | slt (t : Tile) (d : GReg) (a : GReg) (b : GReg)
  /-- SLTU: The ALU instruction SLTU writes 1 if A < B unsigned, else 0. (R220) -/
  | sltu (t : Tile) (d : GReg) (a : GReg) (b : GReg)
  /-- MIN: The ALU instruction MIN writes the signed minimum of A and B. (R220) -/
  | min (t : Tile) (d : GReg) (a : GReg) (b : GReg)
  /-- MAX: The ALU instruction MAX writes the signed maximum of A and B. (R220) -/
  | max (t : Tile) (d : GReg) (a : GReg) (b : GReg)
  /-- MINU: The ALU instruction MINU writes the unsigned minimum of A and B. (R220) -/
  | minu (t : Tile) (d : GReg) (a : GReg) (b : GReg)
  /-- MAXU: The ALU instruction MAXU writes the unsigned maximum of A and B. (R220) -/
  | maxu (t : Tile) (d : GReg) (a : GReg) (b : GReg)
  /-- MUL: The multiply instruction MUL writes bits [63:0] of A × B. (R220) -/
  | mul (t : Tile) (d : GReg) (a : GReg) (b : GReg)
  /-- MULHI: The multiply instruction MULHI writes the signed high half of A × B. (R220) -/
  | mulhi (t : Tile) (d : GReg) (a : GReg) (b : GReg)
  /-- MULHIU: The multiply instruction MULHIU writes the unsigned high half of A × B. (R220) -/
  | mulhiu (t : Tile) (d : GReg) (a : GReg) (b : GReg)
  /-- MULHIM: The multiply instruction MULHIM writes the high half of A × B, with A signed and B unsigned. (R220) -/
  | mulhim (t : Tile) (d : GReg) (a : GReg) (b : GReg)
  /-- DIV: The divide instruction DIV writes the signed quotient truncated toward zero, or 0 on division by zero. (R220) -/
  | div (t : Tile) (d : GReg) (a : GReg) (b : GReg)
  /-- DIVU: The divide instruction DIVU writes the unsigned quotient. (R220) -/
  | divu (t : Tile) (d : GReg) (a : GReg) (b : GReg)
  /-- REM: The divide instruction REM writes the signed remainder, which takes the sign of A. (R220) -/
  | rem (t : Tile) (d : GReg) (a : GReg) (b : GReg)
  /-- REMU: The divide instruction REMU writes the unsigned remainder. (R220) -/
  | remu (t : Tile) (d : GReg) (a : GReg) (b : GReg)
  /-- SEXT8: SEXT8 sign-extends A[7:0]. (R220) -/
  | sext8 (t : Tile) (d : GReg) (a : GReg)
  /-- SEXT16: SEXT16 sign-extends A[15:0]. (R220) -/
  | sext16 (t : Tile) (d : GReg) (a : GReg)
  /-- SEXT32: SEXT32 sign-extends A[31:0]. (R220) -/
  | sext32 (t : Tile) (d : GReg) (a : GReg)
  /-- ADDI: ADDI writes A plus the sign-extended immediate. (R219) -/
  | addi (t : Tile) (d : GReg) (a : GReg) (imm : BitVec 16)
  /-- UPPER_IMMEDIATE: The upper-immediate instruction writes imm << 43, sign-extended. (R219) -/
  | upperImmediate (t : Tile) (d : GReg) (imm : BitVec 21)
  /-- ANDI: ANDI writes A AND the sign-extended immediate. (R219) -/
  | andi (t : Tile) (d : GReg) (a : GReg) (imm : BitVec 16)
  /-- ORI: ORI writes A OR the sign-extended immediate. (R219) -/
  | ori (t : Tile) (d : GReg) (a : GReg) (imm : BitVec 16)
  /-- XORI: XORI writes A XOR the sign-extended immediate. (R219) -/
  | xori (t : Tile) (d : GReg) (a : GReg) (imm : BitVec 16)
  /-- SLTI: SLTI writes 1 if A is below the immediate, signed. (R219) -/
  | slti (t : Tile) (d : GReg) (a : GReg) (imm : BitVec 16)
  /-- SLTIU: SLTIU writes 1 if A is below the sign-extended immediate, unsigned. (R219) -/
  | sltiu (t : Tile) (d : GReg) (a : GReg) (imm : BitVec 16)
  /-- SLLI: The shift-immediate instruction with selection SLL shifts A left by imm[5:0]. (R221) -/
  | slli (t : Tile) (d : GReg) (a : GReg) (amt : BitVec 6)
  /-- SRLI: The shift-immediate instruction with selection SRL shifts A right logically by imm[5:0]. (R221) -/
  | srli (t : Tile) (d : GReg) (a : GReg) (amt : BitVec 6)
  /-- SRAI: The shift-immediate instruction with selection SRA shifts A right arithmetically by imm[5:0]. (R221) -/
  | srai (t : Tile) (d : GReg) (a : GReg) (amt : BitVec 6)
  /-- LOAD_64: The 64-bit load reads 8 bytes of working memory, subject to the RANGE, MISALIGN and POISON checks. (R219) -/
  | load64 (t : Tile) (d : GReg) (a : GReg) (imm : BitVec 16)
  /-- LOAD_32: The 32-bit load reads 4 bytes of working memory, zero-extended. (R219) -/
  | load32 (t : Tile) (d : GReg) (a : GReg) (imm : BitVec 16)
  /-- LOAD_16: The 16-bit load reads 2 bytes of working memory, zero-extended. (R219) -/
  | load16 (t : Tile) (d : GReg) (a : GReg) (imm : BitVec 16)
  /-- LOAD_8: The 8-bit load reads 1 byte of working memory, zero-extended. (R219) -/
  | load8 (t : Tile) (d : GReg) (a : GReg) (imm : BitVec 16)
  /-- STORE_64: The 64-bit store writes 8 bytes of working memory with fresh check bits. (R219) -/
  | store64 (t : Tile) (d : GReg) (a : GReg) (imm : BitVec 16)
  /-- STORE_32: The 32-bit store writes 4 bytes of working memory by merging them into their word. (R219) -/
  | store32 (t : Tile) (d : GReg) (a : GReg) (imm : BitVec 16)
  /-- STORE_16: The 16-bit store writes 2 bytes of working memory by merging them into their word. (R219) -/
  | store16 (t : Tile) (d : GReg) (a : GReg) (imm : BitVec 16)
  /-- STORE_8: The 8-bit store writes 1 byte of working memory by merging it into its word. (R219) -/
  | store8 (t : Tile) (d : GReg) (a : GReg) (imm : BitVec 16)
  /-- BEQ: The branch with comparison EQ is taken when A = B. (R221) -/
  | beq (t : Tile) (a : GReg) (b : GReg) (off : BitVec 8)
  /-- BNE: The branch with comparison NE is taken when A ≠ B. (R221) -/
  | bne (t : Tile) (a : GReg) (b : GReg) (off : BitVec 8)
  /-- BLT: The branch with comparison LT is taken when A < B, signed. (R221) -/
  | blt (t : Tile) (a : GReg) (b : GReg) (off : BitVec 8)
  /-- BGE: The branch with comparison GE is taken when A ≥ B, signed. (R221) -/
  | bge (t : Tile) (a : GReg) (b : GReg) (off : BitVec 8)
  /-- BLTU: The branch with comparison LTU is taken when A < B, unsigned. (R221) -/
  | bltu (t : Tile) (a : GReg) (b : GReg) (off : BitVec 8)
  /-- BGEU: The branch with comparison GEU is taken when A ≥ B, unsigned. (R221) -/
  | bgeu (t : Tile) (a : GReg) (b : GReg) (off : BitVec 8)
  /-- JAL: Jump and link writes PC + 4 to D and jumps relative to PC. (R219) -/
  | jal (t : Tile) (d : GReg) (imm : BitVec 21)
  /-- JR: Jump register writes PC + 4 to D and jumps to A + imm, or raises MISALIGN when the target is not a multiple of 4. (R219) -/
  | jr (t : Tile) (d : GReg) (a : GReg) (imm : BitVec 16)
  /-- SYSR: SYSR reads a system register of the core's own tile. (R212) -/
  | sysr (t : Tile) (d : GReg) (a : GReg)
  /-- SYSW: SYSW writes a system register of the core's own tile under its access codes. (R212) -/
  | sysw (t : Tile) (a : GReg) (b : GReg)
  /-- RETX: RETX returns to TILE_EPC, clears EXL and restarts a partly complete vector memory instruction at VX_RESUME.INDEX. (R238) -/
  | retx (t : Tile)
  /-- BREAK: BREAK raises the BREAK exception. (R235) -/
  | brk (t : Tile)
  /-- ISYNC: ISYNC invalidates every line of the instruction cache. (R217) -/
  | isync (t : Tile)
  /-- WNEXT: WNEXT ends the current work item and waits for the dispatcher's next item, or halts the core after STOP. (R228) -/
  | wnext (t : Tile) (d : GReg)
  /-- WAITM: WAITM waits for a matrix descriptor's completion and returns its code, or returns 0xFF at once for an unrecorded sequence number. (R227) -/
  | waitm (t : Tile) (d : GReg) (a : GReg)
  /-- WAITS: WAITS waits for a stream descriptor's completion and returns its code, or returns 0xFF at once for an unrecorded sequence number. (R227) -/
  | waits (t : Tile) (d : GReg) (a : GReg)
  /-- WAITALL: WAITALL waits until neither queue holds a descriptor issued by this core. (R227) -/
  | waitall (t : Tile)
  /-- MXI: MXI issues a matrix descriptor into the queue, stalling while the queue is full, and returns its sequence number. (R225) -/
  | mxi (t : Tile) (d : GReg) (a : GReg) (b : GReg)
  /-- STI: STI issues a stream descriptor and reads its chain block, stalling while the queue is full, and returns its sequence number. (R226) -/
  | sti (t : Tile) (d : GReg) (a : GReg)
  /-- VADD: The VINT instruction ADD adds elements modulo 2^SEW. (R232) -/
  | vadd (t : Tile) (vd : VReg) (va : VReg) (vb : VReg) (m : MReg) (sew : Sew)
  /-- VSUB: The VINT instruction SUB subtracts elements modulo 2^SEW. (R232) -/
  | vsub (t : Tile) (vd : VReg) (va : VReg) (vb : VReg) (m : MReg) (sew : Sew)
  /-- VMUL: The VINT instruction MUL multiplies elements and keeps the low half. (R232) -/
  | vmul (t : Tile) (vd : VReg) (va : VReg) (vb : VReg) (m : MReg) (sew : Sew)
  /-- VMIN: The VINT instruction MIN takes the signed elementwise minimum. (R230) -/
  | vmin (t : Tile) (vd : VReg) (va : VReg) (vb : VReg) (m : MReg) (sew : Sew)
  /-- VMINU: The VINT instruction MINU takes the unsigned elementwise minimum. (R230) -/
  | vminu (t : Tile) (vd : VReg) (va : VReg) (vb : VReg) (m : MReg) (sew : Sew)
  /-- VMAX: The VINT instruction MAX takes the signed elementwise maximum. (R230) -/
  | vmax (t : Tile) (vd : VReg) (va : VReg) (vb : VReg) (m : MReg) (sew : Sew)
  /-- VMAXU: The VINT instruction MAXU takes the unsigned elementwise maximum. (R230) -/
  | vmaxu (t : Tile) (vd : VReg) (va : VReg) (vb : VReg) (m : MReg) (sew : Sew)
  /-- VAND: The VINT instruction AND takes the elementwise AND. (R230) -/
  | vand (t : Tile) (vd : VReg) (va : VReg) (vb : VReg) (m : MReg) (sew : Sew)
  /-- VOR: The VINT instruction OR takes the elementwise OR. (R230) -/
  | vor (t : Tile) (vd : VReg) (va : VReg) (vb : VReg) (m : MReg) (sew : Sew)
  /-- VXOR: The VINT instruction XOR takes the elementwise XOR. (R230) -/
  | vxor (t : Tile) (vd : VReg) (va : VReg) (vb : VReg) (m : MReg) (sew : Sew)
  /-- VSLL: The VINT instruction SLL shifts each element left. (R230) -/
  | vsll (t : Tile) (vd : VReg) (va : VReg) (vb : VReg) (m : MReg) (sew : Sew)
  /-- VSRL: The VINT instruction SRL shifts each element right logically. (R230) -/
  | vsrl (t : Tile) (vd : VReg) (va : VReg) (vb : VReg) (m : MReg) (sew : Sew)
  /-- VSRA: The VINT instruction SRA shifts each element right arithmetically. (R230) -/
  | vsra (t : Tile) (vd : VReg) (va : VReg) (vb : VReg) (m : MReg) (sew : Sew)
  /-- VCMPEQ: The VINT instruction CMPEQ writes a mask of elementwise equality. (R230) -/
  | vcmpeq (t : Tile) (vd : VReg) (va : VReg) (vb : VReg) (m : MReg) (sew : Sew)
  /-- VCMPLT: The VINT instruction CMPLT writes a mask of signed less-than. (R230) -/
  | vcmplt (t : Tile) (vd : VReg) (va : VReg) (vb : VReg) (m : MReg) (sew : Sew)
  /-- VCMPLTU: The VINT instruction CMPLTU writes a mask of unsigned less-than. (R230) -/
  | vcmpltu (t : Tile) (vd : VReg) (va : VReg) (vb : VReg) (m : MReg) (sew : Sew)
  /-- VFADD: The VFP instruction ADD adds elements under IEEE 754. (R233) -/
  | vfadd (t : Tile) (vd : VReg) (va : VReg) (vb : VReg) (m : MReg) (sew : Sew)
  /-- VFSUB: The VFP instruction SUB subtracts elements under IEEE 754. (R233) -/
  | vfsub (t : Tile) (vd : VReg) (va : VReg) (vb : VReg) (m : MReg) (sew : Sew)
  /-- VFMUL: The VFP instruction MUL multiplies elements under IEEE 754. (R233) -/
  | vfmul (t : Tile) (vd : VReg) (va : VReg) (vb : VReg) (m : MReg) (sew : Sew)
  /-- VFFMA: The VFP instruction FMA computes Va × Vb + Vd, fused. (R233) -/
  | vffma (t : Tile) (vd : VReg) (va : VReg) (vb : VReg) (m : MReg) (sew : Sew)
  /-- VFMIN: The VFP instruction MIN takes the floating-point elementwise minimum. (R230) -/
  | vfmin (t : Tile) (vd : VReg) (va : VReg) (vb : VReg) (m : MReg) (sew : Sew)
  /-- VFMAX: The VFP instruction MAX takes the floating-point elementwise maximum. (R230) -/
  | vfmax (t : Tile) (vd : VReg) (va : VReg) (vb : VReg) (m : MReg) (sew : Sew)
  /-- VFCMPEQ: The VFP instruction CMPEQ writes a mask of floating-point equality. (R230) -/
  | vfcmpeq (t : Tile) (vd : VReg) (va : VReg) (vb : VReg) (m : MReg) (sew : Sew)
  /-- VFCMPLT: The VFP instruction CMPLT writes a mask of floating-point less-than. (R230) -/
  | vfcmplt (t : Tile) (vd : VReg) (va : VReg) (vb : VReg) (m : MReg) (sew : Sew)
  /-- VWIDE_MUL: VWIDE in multiply form writes exact widened products into a register pair. (R232) -/
  | vwideMul (t : Tile) (vd : VReg) (va : VReg) (vb : VReg) (m : MReg) (sew : Sew) (sa : Bool) (sb : Bool)
  /-- VWIDE_MULADD: VWIDE in multiply-add form adds exact widened products into a register pair. (R232) -/
  | vwideMuladd (t : Tile) (vd : VReg) (va : VReg) (vb : VReg) (m : MReg) (sew : Sew) (sa : Bool) (sb : Bool)
  /-- VDOT_INT8: VDOT 0x00–0x03 adds 4-way 8-bit dot products into INT32 lanes, clamping and setting ISAT on overflow. (R232) -/
  | vdotInt8 (t : Tile) (vd : VReg) (va : VReg) (vb : VReg) (m : MReg) (sew : Sew) (sa : Bool) (sb : Bool)
  /-- VDOT_BF16: VDOT 0x04 adds 2-way BF16 dot products into FP32 lanes, rounded once. (R232) -/
  | vdotBf16 (t : Tile) (vd : VReg) (va : VReg) (vb : VReg) (m : MReg) (sew : Sew)
  /-- VDOT_FP16: VDOT 0x05 adds 2-way FP16 dot products into FP32 lanes, rounded once. (R232) -/
  | vdotFp16 (t : Tile) (vd : VReg) (va : VReg) (vb : VReg) (m : MReg) (sew : Sew)
  /-- VLD: VLD loads unit-stride elements. (R234) -/
  | vld (t : Tile) (vd : VReg) (a : GReg) (m : MReg) (sew : Sew)
  /-- VLDS: VLDS loads strided elements. (R234) -/
  | vlds (t : Tile) (vd : VReg) (a : GReg) (b : GReg) (m : MReg) (sew : Sew)
  /-- VLDX: VLDX gathers indexed elements. (R234) -/
  | vldx (t : Tile) (vd : VReg) (a : GReg) (vb : VReg) (m : MReg) (sew : Sew)
  /-- VST: VST stores unit-stride elements. (R234) -/
  | vst (t : Tile) (vd : VReg) (a : GReg) (m : MReg) (sew : Sew)
  /-- VSTS: VSTS stores strided elements. (R234) -/
  | vsts (t : Tile) (vd : VReg) (a : GReg) (b : GReg) (m : MReg) (sew : Sew)
  /-- VSTX: VSTX scatters indexed elements, with the higher element winning on a shared address. (R234) -/
  | vstx (t : Tile) (vd : VReg) (a : GReg) (vb : VReg) (m : MReg) (sew : Sew)
  /-- VBCAST: VBCAST copies Ga to every element. (R230) -/
  | vbcast (t : Tile) (vd : VReg) (a : GReg) (m : MReg) (sew : Sew)
  /-- VINS: VINS writes Ga into element Gb[5:0]. (R230) -/
  | vins (t : Tile) (vd : VReg) (a : GReg) (b : GReg) (m : MReg) (sew : Sew)
  /-- VEXT: VEXT writes an element of Va to Gd, zero-extended. (R230) -/
  | vext (t : Tile) (d : GReg) (va : VReg) (b : GReg) (m : MReg) (sew : Sew)
  /-- VSLIDE: VSLIDE moves element i + Gb of Va to element i and fills with 0. (R230) -/
  | vslide (t : Tile) (vd : VReg) (va : VReg) (b : GReg) (m : MReg) (sew : Sew)
  /-- VMAND: VMAND takes the bitwise AND of two masks. (R230) -/
  | vmand (t : Tile) (vd : MReg) (va : MReg) (vb : MReg)
  /-- VMOR: VMOR takes the bitwise OR of two masks. (R230) -/
  | vmor (t : Tile) (vd : MReg) (va : MReg) (vb : MReg)
  /-- VMNOT: VMNOT takes the bitwise NOT of a mask. (R230) -/
  | vmnot (t : Tile) (vd : MReg) (va : MReg)
  /-- VRED_RSUM: VRED RSUM sums the active integer elements into element 0. (R233) -/
  | vredRsum (t : Tile) (vd : VReg) (va : VReg) (m : MReg) (sew : Sew)
  /-- VRED_RSUMF: VRED RSUMF sums the active floating-point elements in order into element 0. (R233) -/
  | vredRsumf (t : Tile) (vd : VReg) (va : VReg) (m : MReg) (sew : Sew)
  /-- VRED_RMAX: VRED RMAX writes the signed maximum of the active elements to element 0. (R233) -/
  | vredRmax (t : Tile) (vd : VReg) (va : VReg) (m : MReg) (sew : Sew)
  /-- VRED_RMIN: VRED RMIN writes the signed minimum of the active elements to element 0. (R233) -/
  | vredRmin (t : Tile) (vd : VReg) (va : VReg) (m : MReg) (sew : Sew)
  /-- SETUP: The solver command SETUP takes slots, checks the descriptor and structure, and distributes the problem. (R248) -/
  | setup (t : Poster)
  /-- DELTA: The solver command DELTA checks a delta packet and applies it whole, incrementing VER. (R261) -/
  | delta (t : Poster)
  /-- SOLVE: The solver command SOLVE runs the forward method, refactoring first when stale, until its stopping rule or deadline. (R264) -/
  | solve (t : Poster)
  /-- ADJOINT: The solver command ADJOINT solves the transposed system and writes λ and value gradients, or is SKIPPED. (R278) -/
  | adjoint (t : Poster)
  /-- SETPREV: The solver command SETPREV copies an FP64 vector into x_prev or λ_prev. (R248) -/
  | setprev (t : Poster)
  /-- RELEASE: The solver command RELEASE frees the problem's slots on every die. (R248) -/
  | release (t : Poster)
  /-- SOLV_CMD_DONE: A solver command ends and its completion record is written, with word 0 written last. (R249) -/
  | solvCmdDone (d : Die) (done : SolvDone)
  /-- SOLV_DEADLINE: A deadline comparison finds DEADLINE reached, and the command stops with the shifted result. (R270) -/
  | solvDeadline (d : Die) (seq : BitVec 16)
  /-- SOLV_TILE_FAIL: A descriptor issued by the sequencer completes with a code other than DONE, and the command ends. (R284) -/
  | solvTileFail (d : Die) (seq : BitVec 16) (t : Tile) (code : Byte) (storage : Bool) (accFault : Bool)
  /-- SCRUB_READ: Patrol scrub reads the next granule in a tclk with no other read grant. (R303) -/
  | scrubRead (t : Tile)
  /-- SCRUB_WRITE: Patrol scrub writes back a corrected word in an idle write tclk, unless another write to the word intervened. (R303) -/
  | scrubWrite (t : Tile)
  /-- REFRESH_WINDOW: A channel's refresh timer opens a refresh window, in which refreshes and EDC retries run. (R311) -/
  | refreshWindow (c : Chan) (hot : Bool) (retryOk : List Bool) (waited : Nat)
  /-- BST_FLUSH: BST_FLUSH.START begins writing back the dirty lines of a partition's region or of the pool. (R324) -/
  | bstFlush (v : Word)
  /-- BST_FLUSH_DONE: A flush ends and FLUSH_DONE is set. (R324) -/
  | bstFlushDone
  /-- RD: A working-memory read request arrives at the target NI and is answered under the unit state and the partition checks. (R332) -/
  | rd (p : Packet)
  /-- WR: A working-memory write request arrives at the target NI and is answered under the unit state and the partition checks. (R332) -/
  | wr (p : Packet) (data : List Byte)
  /-- CRD: A board-store cache read arrives at the set's tile and is served under its hint. (R320) -/
  | crd (p : Packet)
  /-- CWR: A board-store cache write arrives at the set's tile and is served under its hint. (R320) -/
  | cwr (p : Packet) (data : List Byte)
  /-- BRD: A fill or write-around read arrives at a board-store channel. (R332) -/
  | brd (p : Packet) (edcOk : Bool)
  /-- BWR: A write-back or write-around arrives at a board-store channel and is written with EDC checking. (R312) -/
  | bwr (p : Packet) (data : List Byte) (edcOk : Bool)
  /-- RSP: A response arrives at the originator's NI and is matched by TXID, or is dropped as stale or late. (R344) -/
  | rsp (p : Packet) (data : List Byte)
  /-- NI_TIMEOUT: A transaction's timer expires, the request completes with TIMEOUT, and its entry is quarantined. (R342) -/
  | niTimeout (st : Station) (txid : BitVec 16)
  /-- DEFER_RETRY: An originator resends a DEFERred request under the same entry after the retry-after hint. (R341) -/
  | deferRetry (st : Station) (txid : BitVec 16)
  /-- DRAIN_BEGIN: The power manager sets DRAINING in the NIs of a domain that is to be switched off. (R347) -/
  | drainBegin (n : Dom)
  /-- DRAIN_COMPLETE: When no request is unanswered or outstanding, the drained domain is switched off and reads OFF. (R347) -/
  | drainComplete (n : Dom)
  /-- DOMAIN_READY: A powered-up domain reaches its ready time, and its units read ACTIVE. (R492) -/
  | domainReady (n : Dom)
  /-- RAMP_END: A soft-start ramp ends, and a short circuit is detected if the output is below half its target at the current limit. (R532) -/
  | rampEnd (n : Dom) (short : Bool)
  /-- SLOW_RAMP: 200 µs after a failed ramp, the domain ramps once more at a quarter of the slope. (R532) -/
  | slowRamp (n : Dom)
  /-- COLL_IDLE_OFF: After 1 ms without a queued or running collective, the collective-engine domain is switched off. (R492) -/
  | collIdleOff
  /-- DATA_FRAME: A received DATA frame is accepted and its flits are delivered in order, or it is discarded and NAKed. (R362) -/
  | dataFrame (n : Port) (f : Frame)
  /-- EMPTY_FRAME: A received EMPTY frame updates ACK, NAK, credits and the swap fields. (R361) -/
  | emptyFrame (n : Port) (f : Frame)
  /-- TRAIN_FRAME: A received TRAIN frame carries training records, or takes an ACTIVE link's loss with cause PEER. (R374) -/
  | trainFrame (n : Port) (body : List Byte) (keyOk : Bool)
  /-- CLOSE_FRAME: A received CLOSE frame makes the partner take the loss with cause PEER. (R386) -/
  | closeFrame (n : Port) (f : Frame)
  /-- NAK_RESEND: When the expected frame has not arrived 10 µs after a NAK, the receiver sends NAK again. (R362) -/
  | nakResend (n : Port)
  /-- REPLAY_RESEND: On a NAK, or when the oldest frame has gone 10 µs without acknowledgement, unacknowledged frames are resent. (R363) -/
  | replayResend (n : Port)
  /-- REPLAY_TIMEOUT: A DATA frame unacknowledged for 2 ms makes the link lost. (R364) -/
  | replayTimeout (n : Port)
  /-- LANE_RETIRE: A lane that loses lock or exceeds the corrected-symbol limit is retired and a spare is requested, or the link is lost. (R358) -/
  | laneRetire (n : Port) (lane : Fin 10)
  /-- PRESENCE_GAINED: Light on at least 9 lanes for 100 µs makes the port PRESENT and starts a new presence epoch. (R380) -/
  | presenceGained (n : Port)
  /-- PRESENCE_LOST: No light on any lane for 1 µs makes the port ABSENT. (R380) -/
  | presenceLost (n : Port)
  /-- TRAIN_STATE_DONE: A training state finishes its work and the port moves to the next state. (R369) -/
  | trainStateDone (n : Port) (rx : BitVec 10) (tx : BitVec 10)
  /-- TRAIN_STATE_LIMIT: A training state exceeds 4 ms and the attempt fails. (R370) -/
  | trainStateLimit (n : Port)
  /-- TRAIN_ATTEMPT_LIMIT: An attempt exceeds 50 ms and fails. (R370) -/
  | trainAttemptLimit (n : Port)
  /-- BEACON_END: After 1 ms of beacon following a failed attempt, the next attempt begins from LANE_LOCK. (R370) -/
  | beaconEnd (n : Port)
  /-- RETRAIN: LNK_CTRL.RETRAIN loses the link with cause HOST and retrains from LANE_LOCK. (R371) -/
  | retrain (n : Port)
  /-- LINK_CLOSE_DONE: After 10 µs of CLOSE frames, a drained port goes dark. (R386) -/
  | linkCloseDone (n : Port)
  /-- LOCATION_ASSIGN: LOCATION_ASSIGN sets the package's coordinates, or answers UNCHANGED, BUSY or INVALID. (R394) -/
  | locationAssign (flags : Byte) (tier : Byte) (cell : Byte) (slot : SlotBytes)
  /-- LOCATION_QUERY: LOCATION_QUERY returns the current coordinates, rank, manager and cell state. (R393) -/
  | locationQuery (msg : VdmBytes)
  /-- MEMBER_SEND: Every 250 µs, a package with coordinates sends its MEMBER record on each ACTIVE CELL link. (R396) -/
  | memberSend
  /-- MEMBER: A received MEMBER record updates hearing, evidence, routing and the cell version. (R397) -/
  | member (n : Port) (body : List Byte)
  /-- SLOT_LOST: 2 ms without evidence of a slot makes it lost, which may cause a manager takeover and a spare switch. (R397) -/
  | slotLost (slot : CellSlot)
  /-- MAP_FORMATION: When all peers are heard or FORM_WAIT_MS passes, the first manager issues map TERM 1, GEN 1. (R400) -/
  | mapFormation
  /-- RANK_MAP: A received RANK_MAP is adopted if higher, which applies its rank and mode, and is acknowledged. (R399) -/
  | rankMap (body : List Byte)
  /-- MAP_ACK: A MAP_ACK reaches the manager, and when all have acknowledged, a switch completes. (R411) -/
  | mapAck (body : List Byte)
  /-- UPLINK_SWAP: A carrying UPLINK away from ACTIVE for 10 ms in FULL mode is replaced by an UPLINK_SPARE. (R408) -/
  | uplinkSwap (n : Port)
  /-- ALL_REDUCE: The collective ALL_REDUCE is checked and queued, then runs its four phases under its fence. (R437) -/
  | allReduce (t : Poster)
  /-- REDUCE_SCATTER: The collective REDUCE_SCATTER is checked and queued, then runs phases 1 and 2. (R437) -/
  | reduceScatter (t : Poster)
  /-- ALL_GATHER: The collective ALL_GATHER is checked and queued, then exchanges directly. (R437) -/
  | allGather (t : Poster)
  /-- ALL_TO_ALL: The collective ALL_TO_ALL is checked and queued, then exchanges blocks directly. (R437) -/
  | allToAll (t : Poster)
  /-- ALL_TO_ALLV: The collective ALL_TO_ALLV is checked and queued, then exchanges counts and blocks. (R435) -/
  | allToAllv (t : Poster)
  /-- BROADCAST: The collective BROADCAST is checked and queued, then copies the root's source. (R437) -/
  | broadcast (t : Poster)
  /-- BARRIER: The collective BARRIER completes once every member has sent READY. (R437) -/
  | barrier (t : Poster)
  /-- GATHER_DEMAND: GATHER_DEMAND fences only the poster and reads every member's source with RETRY_SAFE reads. (R442) -/
  | gatherDemand (t : Poster)
  /-- FENCE_CLOSE: When every tile waits at WNEXT with empty queues and no sequencer command runs, the fence closes and READYs are sent. (R429) -/
  | fenceClose (p : Part)
  /-- READY: A received READY is checked against the member's own collective, or held in the pending table. (R431) -/
  | ready (p : Part) (r : ReadyRec)
  /-- CDATA: Received collective data are written or staged at the offset given in ADDR. (R434) -/
  | cdata (p : Part) (d : CollData)
  /-- CCTL_DONE: A peer's CCTL DONE ends its data for a phase, which may complete a fold, a phase or the collective. (R434) -/
  | cctlDone (p : Part) (sender : Sender) (ctag : BitVec 32)
  /-- ABORT: A received ABORT ends the collective with the same code and detail PEER. (R445) -/
  | abort (p : Part) (sender : Sender) (ctag : BitVec 32) (code : Byte)
  /-- COLL_TIMEOUT: The collective timer expires after fence close and the collective ends with TIMEOUT. (R444) -/
  | collTimeout (p : Part)
  /-- WORK_POST: A SYSW to TILE_WORK_POST sends a work item record to the dispatcher, which checks it and queues or refuses it. (R459) -/
  | workPost (t : Tile)
  /-- WORK_POST_ACK: The dispatcher's acknowledgement reaches the tile and the posting SYSW completes. (R459) -/
  | workPostAck (t : Tile)
  /-- DISPATCH_ITEM: At an mclk, the dispatcher chooses the next item for a waiting tile by throughput or Invar rules. (R461) -/
  | dispatchItem (t : Tile) (parity : Bool)
  /-- WORK_ITEM_RECEIVE: The item packet reaches the tile, Gd is written, and the item begins. (R228) -/
  | workItemReceive (t : Tile)
  /-- DIGEST: A digest command is checked, queued and run, hashing its regions. (R480) -/
  | digest (t : Poster)
  /-- DIGEST_DONE: A digest command ends and its 256-byte record is written. (R484) -/
  | digestDone
  /-- STEP_ADV: TILE_STEP_ADV.ADV increments the tile's step view, or faults the partition with STEP_EXHAUSTED. (R474) -/
  | stepAdv (t : Tile)
  /-- IMG_STEP_WRITE: A write to IMG_STEP_p sets every tile's view when the partition is STOPPED or FAULTED, else sets STEP_WR_IGN. (R475) -/
  | imgStepWrite (p : Part) (v : Word)
  /-- CONTROL_PERIOD: Every 2 µs, the power manager updates budgets, buckets, admitted classes, OPs, D and domain power. (R491) -/
  | controlPeriod (acts : List Activity) (frames : Nat)
  /-- AVS_SAMPLE: A 50 µs regulator sample updates P_m and the correction factor c. (R504) -/
  | avsSample (rails : Rails)
  /-- CALIBRATION_WINDOW: At the end of each 1 ms window, the coefficients are refit and EST_DEGRADED is judged. (R502) -/
  | calibrationWindow
  /-- POWER_SUSPEND: After 20 ms with P_m above 1.05 × the effective cap, the lowest-priority RUNNING partition is suspended. (R511) -/
  | powerSuspend
  /-- POWER_RESUME: After 100 ms below 0.95 × the cap with its power added, a power-suspended partition resumes. (R511) -/
  | powerResume
  /-- THERMAL_READ: The 100 µs sensor reading updates the thermal cap and THERM_THROTTLE, and trips at 115 °C. (R515) -/
  | thermalRead (temps : Temps)
  /-- COOLANT_FALL: COOLANT_OK low for 1 µs stops all issue and switches every domain off, setting THERM_STOP. (R517) -/
  | coolantFall
  /-- THERM_STOP_CLEAR: A permitted clear of THERM_STOP starts the exit from Dark, or resumes a paused start. (R518) -/
  | thermStopClear
  /-- PWR_CAP_WRITE: A write to PWR_CAP.CAP_W stores the value clamped to 1,500–5,600 W. (R514) -/
  | pwrCapWrite (v : Word)
  /-- OP_MAX_WRITE: A write to PWR_PART_p.OP_MAX above the part's ceiling is stored as the ceiling and sets OP_CLAMP. (R495) -/
  | opMaxWrite (p : Part) (v : Word)
  /-- BUDGET_SHIFT: At each 1 ms boundary, the manager pairs rank holders by WAIT and shifts cap between them. (R520) -/
  | budgetShift
  /-- CAP_SET: A received CAP_SET with the adopted TERM sets the package cap. (R521) -/
  | capSet (body : List Byte)
  /-- QUIET_TIMEOUT: After QUIET_US of quiet, SLEEP_READY is set, and a package outside a map begins entering that state. (R525) -/
  | quietTimeout
  /-- SLEEP_REQ: PWR_SLEEP.REQ asks for a sleep state at once, or is discarded with SLEEP_ABORT. (R525) -/
  | sleepReq (req : BitVec 2)
  /-- SLEEP_ENTRY_DONE: The last step of entry to Pewter or Dark completes and the package reads that state. (R526) -/
  | sleepEntryDone
  /-- RESUME: PWR_SLEEP.RESUME is a HOST wake cause. (R528) -/
  | resume
  /-- TIMER_WAKE: The tick reaching PWR_WAKE_TIME is a TIMER wake cause. (R528) -/
  | timerWake
  /-- WAKE_DONE: The exit from sleep completes, the package reads ACTIVE, and WAKE_DONE is set. (R529) -/
  | wakeDone
  /-- SLEEP_PREPARE: A member receiving SLEEP_PREPARE becomes PREPARED and votes yes, or votes no. (R530) -/
  | sleepPrepare (body : List Byte)
  /-- SLEEP_VOTE: The manager collects a vote, and sends SLEEP_COMMIT when all members have voted yes. (R530) -/
  | sleepVote (body : List Byte)
  /-- SLEEP_COMMIT: A member receiving SLEEP_COMMIT enters the target state. (R530) -/
  | sleepCommit (body : List Byte)
  /-- SLEEP_ABORT: A received SLEEP_ABORT aborts an agreement, at the manager before commit or at a member. (R530) -/
  | sleepAbort (body : List Byte)
  /-- SLEEP_VOTE_LIMIT: Yes votes not all in within 1 ms make the manager send SLEEP_ABORT. (R530) -/
  | sleepVoteLimit
  /-- SLEEP_DECISION_LIMIT: A PREPARED member with no decision 5 ms after its vote takes the agreement as aborted. (R530) -/
  | sleepDecisionLimit
  /-- HALT_ASSERT: HALT_N low for 1 µs suspends every RUNNING partition and sets HALT_EVT. (R625) -/
  | haltAssert
  /-- HALT_DEASSERT: HALT_N high for 1 µs resumes the partitions that HALT_N suspended. (R625) -/
  | haltDeassert
  /-- CLOCK_STOPPED: A clock monitor declares a clock stopped and fails its units, or starts a warm reset. (R535) -/
  | clockStopped (bit : Fin 45)
  /-- TIME_EXCHANGE: Every 1 ms, a member sends TIME_REQ to the manager. (R538) -/
  | timeExchange
  /-- TIME_REQ: The manager stamps a received TIME_REQ and answers with TIME_RSP. (R538) -/
  | timeReq (body : List Byte)
  /-- TIME_RSP: A member computes its offset and starts a catch-up or slew. (R539) -/
  | timeRsp (body : List Byte)
  /-- TICK_SLEW: Every 10,000 ticks, a slewing member adds or withholds one count. (R539) -/
  | tickSlew
  /-- COLD: CLK_RESET.COLD starts a cold reset. (R546) -/
  | cold
  /-- WARM: CLK_RESET.WARM starts a warm reset in the order of its steps. (R547) -/
  | warm
  /-- CLK_UNIT_RESET: A write to CLK_UNIT_RESET resets the named unit at level 0–3. (R549) -/
  | clkUnitReset (unit : BitVec 32)
  /-- MCMD_RESET: An MCMD RESET resets the named unit, or completes with FORMAT_FAULT at level 4 or 5. (R549) -/
  | mcmdReset (unit : BitVec 32) (src : Requester) (txid : BitVec 16)
  /-- UNIT_RESET_DONE: A unit reset ends after its duration and the unit leaves RESETTING. (R549) -/
  | unitResetDone (unit : BitVec 32)
  /-- KICK: CLK_WDOG.KICK restarts the package watchdog. (R552) -/
  | kick
  /-- CLK_WDOG_WRITE: A write to CLK_WDOG sets ENABLE and stores LIMIT_S, with 0 stored as 1. (R552) -/
  | clkWdogWrite (v : Word)
  /-- WDOG_WARN: At half of LIMIT_S without a kick, WARN is set and the package vector is raised. (R552) -/
  | wdogWarn
  /-- WDOG_EXPIRE: At LIMIT_S without a kick, the watchdog logs PKG_WDOG and starts a warm reset. (R552) -/
  | wdogExpire
  /-- BOOT_STEP_DONE: A boot step finishes, its journal entry is written, and the start proceeds or falls to the safe state. (R553) -/
  | bootStepDone (r : BootReport)
  /-- BOOT_STEP_LIMIT: A boot step exceeds its limit and fails. (R553) -/
  | bootStepLimit
  /-- POWER_ON_RELEASE: VIN_AUX good with REFCLK_SYS running for 1 ms releases a power-on cold reset. (R618) -/
  | powerOnRelease (sa : BitVec 3)
  /-- AUX_FAIL: VIN_AUX failing makes the package behave as unpowered. (R618) -/
  | auxFail
  /-- REFCLK_LOSS: REFCLK_SYS giving no edge for 1 µs makes the package behave as unpowered. (R618) -/
  | refclkLoss
  /-- CORE_RAIL_FAIL: A failing VIN_CORE rail switches off its domains and handles them as failed. (R620) -/
  | coreRailFail (d : Die)
  /-- VDDQ_FAIL: A failing VDDQ_BST rail handles the board-store PHY as a failed domain. (R620) -/
  | vddqFail
  /-- NOC_CTRL_WRITE: A write to NOC_CTRL stores TIMEOUT_US clamped to 1–16,000. (R342) -/
  | nocCtrlWrite (v : Word)
  /-- COLL_CTRL_WRITE: A write to COLL_CTRL stores TIMEOUT_MS clamped to 1–60,000. (R444) -/
  | collCtrlWrite (v : Word)
  /-- HOST_CTRL_WRITE: A write to GLB_HOST_CTRL stores DEFER_LIMIT_US, with 0 stored as 1. (R563) -/
  | hostCtrlWrite (v : Word)
  /-- BAR2_BST_WRITE: A write to GLB_BAR2_BST stores BASE_GIB, clamped to 71. (R565) -/
  | bar2BstWrite (v : Word)
  /-- BAR2_READ: A host BAR2 read is decoded to scratchpad or board store and admitted under HOST_WINDOW. (R566) -/
  | bar2Read (off : Nat) (read : Bar2Read)
  /-- BAR2_WRITE: A host BAR2 write is decoded and admitted under HOST_WINDOW, or discarded. (R566) -/
  | bar2Write (off : Nat) (data : List Byte) (mark : Bar2Mark)
  /-- HOST_DEFER_RETRY: The host port resends a DEFERred BAR access after its hint. (R563) -/
  | hostDeferRetry (txid : BitVec 16)
  /-- HOST_RETRY_LIMIT: DEFER_LIMIT_US passes and the access ends with all ones, a discarded write or Completer Abort. (R564) -/
  | hostRetryLimit (txid : BitVec 16)
  /-- HOST_IRQ: A SYSW to TILE_HOST_IRQ raises a partition MSI-X vector. (R571) -/
  | hostIrq (t : Tile) (vec : BitVec 5)
  /-- MSIX_UNMASK: Unmasking a pending vector sends its message and clears the pending bit. (R573) -/
  | msixUnmask (vec : BitVec 11)
  /-- LTR_WRITE: A write of Max No-Snoop Latency is copied into PWR_LTR within 1 µs. (R561) -/
  | ltrWrite (v : BitVec 16)
  /-- LTR_ENABLE: Setting LTR Mechanism Enable sends the S4's own LTR message. (R561) -/
  | ltrEnable
  /-- DL_UP: The PCIe link reaches DL_Up and LINK_EPOCH increases. (R574) -/
  | dlUp
  /-- DL_DOWN: The PCIe link goes down and a host-port reset starts, which may be a surprise removal. (R575) -/
  | dlDown
  /-- PERST_ASSERT: PERST_N asserted holds the host port in reset. (R627) -/
  | perstAssert
  /-- PERST_DEASSERT: PERST_N deasserted lets the link train. (R627) -/
  | perstDeassert
  /-- D3HOT: The function enters D3hot and answers only configuration requests. (R562) -/
  | d3hot
  /-- POP: ERR_LOG_POP.POP removes the oldest log record. (R597) -/
  | pop
  /-- CLEAR_ALL: ERR_LOG_POP.CLEAR_ALL empties the log. (R597) -/
  | clearAll
  /-- ROTATE: SEC_KEY_s.ROTATE advances the slot's generation, or is refused with ROT_REFUSED. (R587) -/
  | rotate (k : Fin 65)
  /-- ENTDAA: ENTDAA gives the management controller a dynamic I3C address. (R576) -/
  | entdaa (addr : BitVec 7)
  /-- SETDASA: SETDASA gives the management controller a dynamic address from its static address. (R576) -/
  | setdasa (staticAddr : BitVec 7) (dynAddr : BitVec 7)
  /-- SET_ENDPOINT_ID: The MCTP control command Set Endpoint ID assigns the endpoint ID. (R577) -/
  | setEndpointId (eid : Byte)
  /-- GET_ENDPOINT_ID: The MCTP control command Get Endpoint ID returns the endpoint ID. (R577) -/
  | getEndpointId
  /-- GET_MCTP_VERSION_SUPPORT: The MCTP control command Get MCTP Version Support returns the supported versions. (R577) -/
  | getMctpVersionSupport
  /-- GET_MESSAGE_TYPE_SUPPORT: The MCTP control command Get Message Type Support returns the accepted message types. (R577) -/
  | getMessageTypeSupport
  /-- GET_VENDOR_DEFINED_MSG_SUPPORT: The MCTP control command Get Vendor Defined Message Support returns the vendor message support. (R577) -/
  | getVendorDefinedMsgSupport
  /-- RESET: The vendor command RESET sends its response, then starts a warm or cold reset. (R578) -/
  | reset (kind : Byte)
  /-- WDOG_KICK: The vendor command WDOG_KICK restarts the package watchdog. (R578) -/
  | wdogKick
  /-- SET_BOARD_LIMIT: The vendor command SET_BOARD_LIMIT sets PWR_BOARD.LIMIT_W within 1,500–5,600 W. (R578) -/
  | setBoardLimit (w : BitVec 16)
  /-- WAKE: The vendor command WAKE is an MGMT wake cause. (R578) -/
  | wake
  /-- REG_READ: The vendor command REG_READ returns a GLB, PWR, CLK, MGT or ERR register. (R578) -/
  | regRead (off : BitVec 32)
  /-- REG_WRITE: The vendor command REG_WRITE writes one of the permitted registers. (R578) -/
  | regWrite (off : BitVec 32) (v : Word)
  /-- FABRIC_KEY: The secured vendor command FABRIC_KEY installs the fabric key. (R588) -/
  | fabricKey (secured : Bool) (id : BitVec 32) (key : List Byte)
  /-- KEY_INSTALL: The secured vendor command KEY_INSTALL installs a board-store key in a slot, or answers STATE. (R587) -/
  | keyInstall (secured : Bool) (slot : Byte) (key : List Byte)
  /-- OWNER_FUSE: The secured vendor command OWNER_FUSE programs a blank owner key slot irreversibly. (R578) -/
  | ownerFuse (secured : Bool) (slot : Byte) (hash : List Byte)
  /-- SVN_ADVANCE: The secured vendor command SVN_ADVANCE raises a fused security-version minimum. (R578) -/
  | svnAdvance (secured : Bool) (which : Byte)
  /-- GET_TID: The PLDM type 0 command GetTID returns the terminus ID. (R580) -/
  | getTid
  /-- SET_TID: The PLDM type 0 command SetTID sets the terminus ID. (R580) -/
  | setTid (tid : Byte)
  /-- GET_PLDM_VERSION: The PLDM type 0 command GetPLDMVersion returns the supported versions. (R580) -/
  | getPldmVersion (ptype : Byte)
  /-- GET_PLDM_TYPES: The PLDM type 0 command GetPLDMTypes returns the supported types. (R580) -/
  | getPldmTypes
  /-- GET_PLDM_COMMANDS: The PLDM type 0 command GetPLDMCommands returns the supported commands. (R580) -/
  | getPldmCommands (ptype : Byte)
  /-- GET_PDR: The PLDM type 2 command GetPDR returns a platform descriptor record. (R581) -/
  | getPdr (handle : BitVec 32)
  /-- GET_SENSOR_READING: The PLDM type 2 command GetSensorReading returns a numeric sensor. (R581) -/
  | getSensorReading (id : Nat)
  /-- GET_STATE_SENSOR_READINGS: The PLDM type 2 command GetStateSensorReadings returns state sensors. (R581) -/
  | getStateSensorReadings (id : Nat)
  /-- SET_NUMERIC_EFFECTER_VALUE: The PLDM type 2 command SetNumericEffecterValue sets LIMIT_W. (R581) -/
  | setNumericEffecterValue (id : Nat) (v : BitVec 16)
  /-- GET_NUMERIC_EFFECTER_VALUE: The PLDM type 2 command GetNumericEffecterValue returns LIMIT_W. (R581) -/
  | getNumericEffecterValue (id : Nat)
  /-- SET_EVENT_RECEIVER: The PLDM type 2 command SetEventReceiver sets the receiver of platform events. (R581) -/
  | setEventReceiver (eid : Byte)
  /-- PLATFORM_EVENT_ACK: The BMC's acknowledgement of a PlatformEventMessage ends its retries. (R582) -/
  | platformEventAck (id : Nat)
  /-- PLDM_EVENT_RETRY: An event unacknowledged for 500 ms is sent again, up to three times. (R582) -/
  | pldmEventRetry (id : Nat)
  /-- REQUEST_FIRMWARE_DATA: A block of update data received for RequestFirmwareData is written to boot flash. (R583) -/
  | requestFirmwareData (comp : BitVec 16) (block : List Byte)
  /-- FIRMWARE_VERIFY: After the last block, the component is verified and VerifyComplete is sent. (R583) -/
  | firmwareVerify
  /-- ACTIVATE_FIRMWARE: The PLDM type 5 command ActivateFirmware records the slot to use at the next reset. (R583) -/
  | activateFirmware
  /-- GET_VERSION: The SPDM request GET_VERSION is answered. (R589) -/
  | getVersion (path : SpdmPath)
  /-- GET_CAPABILITIES: The SPDM request GET_CAPABILITIES is answered. (R589) -/
  | getCapabilities (path : SpdmPath)
  /-- NEGOTIATE_ALGORITHMS: The SPDM request NEGOTIATE_ALGORITHMS selects the algorithms. (R589) -/
  | negotiateAlgorithms (path : SpdmPath) (algs : List Byte)
  /-- GET_DIGESTS: The SPDM request GET_DIGESTS returns the certificate-chain digests. (R589) -/
  | getDigests (path : SpdmPath)
  /-- GET_CERTIFICATE: The SPDM request GET_CERTIFICATE returns a certificate chain of slot 0 or 1. (R590) -/
  | getCertificate (path : SpdmPath) (slot : Byte)
  /-- CHALLENGE: The SPDM request CHALLENGE is answered with a signed response. (R589) -/
  | challenge (path : SpdmPath) (slot : Byte) (nonce : List Byte)
  /-- GET_MEASUREMENTS: The SPDM request GET_MEASUREMENTS returns the measurement indices 1–6. (R590) -/
  | getMeasurements (path : SpdmPath) (index : Byte) (nonce : List Byte)
  /-- KEY_EXCHANGE: The SPDM request KEY_EXCHANGE opens a secured session, or answers Busy beyond two sessions. (R589) -/
  | keyExchange (path : SpdmPath) (slot : Byte) (data : List Byte)
  /-- FINISH: The SPDM request FINISH completes the session handshake. (R589) -/
  | finish (path : SpdmPath) (sid : Nat)
  /-- HEARTBEAT: The SPDM request HEARTBEAT keeps a session alive. (R589) -/
  | heartbeat (path : SpdmPath) (sid : Nat)
  /-- KEY_UPDATE: The SPDM request KEY_UPDATE updates the session keys. (R589) -/
  | keyUpdate (path : SpdmPath) (sid : Nat)
  /-- END_SESSION: The SPDM request END_SESSION closes a secured session. (R589) -/
  | endSession (path : SpdmPath) (sid : Nat)
  /-- COOLANT_RISE: COOLANT_OK goes high, which starts the COOLANT_HIGH_MS count that gates clearing THERM_STOP and changes PLDM state sensor 29. (R518) -/
  | coolantRise
  /-- D0: The host returns the function from D3hot to D0, after which it again answers requests other than configuration requests. (R562) -/
  | d0
  /-- PME_TURN_OFF: A PME_Turn_Off message from the host records the handshake, so that the link going down afterwards does not set SURPRISE. (R574) -/
  | pmeTurnOff
  /-- MRD: A BAR0 register read that is answered other than DONE, or that is not 8-byte sized and aligned, completes with all ones or Unsupported Request, sets REG_REFUSED and logs to ERR. (R564) -/
  | mrd (acc : RegAccess)
deriving DecidableEq, Repr

end Sys2Proof
end

