-- ==== Sys2Proof/Decode.lean ====
section
/-!
DEFINITION. Decode.lean: the command that a word of the opcode table spells; the instruction words of the control core (R218 to R221, R230); the header flit of
a network packet (R331).
-/
namespace Sys2Proof

/-- The command that the `nbits` bits `w` spell: none, since the table gives no row any bits (log entry 1). Commands enter the queue as constructors of `Instr`. -/
def decodeTableWord (_nbits _w : Nat) : Option Instr := none

/-! ### Instruction words of the control core (R218) -/

/-- Bits [lo + n - 1 : lo] of a word. -/
def bitsAt (w : BitVec 32) (lo n : Nat) : Nat := (w.extractLsb' lo n).toNat
/-- The fields D, A and B of a word. -/
def fieldD (w : BitVec 32) : Fin 32 := Fin.ofNat 32 (bitsAt w 21 5)
def fieldA (w : BitVec 32) : Fin 32 := Fin.ofNat 32 (bitsAt w 16 5)
def fieldB (w : BitVec 32) : Fin 32 := Fin.ofNat 32 (bitsAt w 11 5)
/-- SEW of format V. -/
def sewOf (n : Nat) : Sew := match n % 4 with | 0 => .s8 | 1 => .s16 | 2 => .s32 | _ => .s64
/-- The code of SEW. -/
def sewCode : Sew → Nat | .s8 => 0 | .s16 => 1 | .s32 => 2 | .s64 => 3
/-- The word, if a condition on its fields holds (R219). -/
def legal (c : Bool) (i : Instr) : Option Instr := if c then some i else none

/-- Major 0x01 by FUNC (R220). -/
def decodeAlu (t : Tile) (f : Nat) (d a b : GReg) : Option Instr :=
  match f with
  | 0x0 => some (.add t d a b)
  | 0x1 => some (.sub t d a b)
  | 0x2 => some (.and t d a b)
  | 0x3 => some (.or t d a b)
  | 0x4 => some (.xor t d a b)
  | 0x5 => some (.sll t d a b)
  | 0x6 => some (.srl t d a b)
  | 0x7 => some (.sra t d a b)
  | 0x8 => some (.slt t d a b)
  | 0x9 => some (.sltu t d a b)
  | 0xa => some (.min t d a b)
  | 0xb => some (.max t d a b)
  | 0xc => some (.minu t d a b)
  | 0xd => some (.maxu t d a b)
  | 0x10 => some (.mul t d a b)
  | 0x11 => some (.mulhi t d a b)
  | 0x12 => some (.mulhiu t d a b)
  | 0x13 => some (.mulhim t d a b)
  | 0x18 => some (.div t d a b)
  | 0x19 => some (.divu t d a b)
  | 0x1a => some (.rem t d a b)
  | 0x1b => some (.remu t d a b)
  | 0x20 => legal (b = 0) (.sext8 t d a)
  | 0x21 => legal (b = 0) (.sext16 t d a)
  | 0x22 => legal (b = 0) (.sext32 t d a)
  | _ => none
/-- Major 0x0C by FUNC[10:8] (R221). -/
def decodeBranch (t : Tile) (w : BitVec 32) : Option Instr :=
  let a := fieldA w
  let b := fieldB w
  let off := w.extractLsb' 0 8
  if fieldD w ≠ 0 then none
  else match bitsAt w 8 3 with
  | 0 => some (.beq t a b off)
  | 1 => some (.bne t a b off)
  | 2 => some (.blt t a b off)
  | 3 => some (.bge t a b off)
  | 4 => some (.bltu t a b off)
  | 5 => some (.bgeu t a b off)
  | _ => none
/-- Major 0x10 by FUNC (R219). -/
def decodeSystem (t : Tile) (f : Nat) (d a b : GReg) : Option Instr :=
  match f with
  | 0x000 => legal (b = 0) (.sysr t d a)
  | 0x001 => legal (d = 0) (.sysw t a b)
  | 0x002 => legal (d = 0 ∧ a = 0 ∧ b = 0) (.retx t)
  | 0x003 => legal (d = 0 ∧ a = 0 ∧ b = 0) (.brk t)
  | 0x004 => legal (d = 0 ∧ a = 0 ∧ b = 0) (.isync t)
  | 0x010 => legal (a = 0 ∧ b = 0) (.wnext t d)
  | 0x011 => legal (b = 0) (.waitm t d a)
  | 0x012 => legal (b = 0) (.waits t d a)
  | 0x013 => legal (d = 0 ∧ a = 0 ∧ b = 0) (.waitall t)
  | _ => none
/-- Major 0x1D by imm[7:6] (R221). -/
def decodeShift (t : Tile) (w : BitVec 32) : Option Instr :=
  let d := fieldD w
  let a := fieldA w
  let k := w.extractLsb' 0 6
  if bitsAt w 8 8 ≠ 0 then none
  else match bitsAt w 6 2 with
  | 0 => some (.slli t d a k)
  | 1 => some (.srli t d a k)
  | 2 => some (.srai t d a k)
  | _ => none

/-- Majors 0x20 and 0x21 by VFUNC (R230). -/
def decodeVint (t : Tile) (f : Nat) (d a b : VReg) (m : MReg) (e : Sew) : Option Instr :=
  match f with
  | 0x0 => some (.vadd t d a b m e)
  | 0x1 => some (.vsub t d a b m e)
  | 0x2 => some (.vmul t d a b m e)
  | 0x4 => some (.vmin t d a b m e)
  | 0x5 => some (.vminu t d a b m e)
  | 0x6 => some (.vmax t d a b m e)
  | 0x7 => some (.vmaxu t d a b m e)
  | 0x8 => some (.vand t d a b m e)
  | 0x9 => some (.vor t d a b m e)
  | 0xa => some (.vxor t d a b m e)
  | 0xb => some (.vsll t d a b m e)
  | 0xc => some (.vsrl t d a b m e)
  | 0xd => some (.vsra t d a b m e)
  | 0x10 => legal (d < 8) (.vcmpeq t d a b m e)
  | 0x11 => legal (d < 8) (.vcmplt t d a b m e)
  | 0x12 => legal (d < 8) (.vcmpltu t d a b m e)
  | _ => none
def decodeVfp (t : Tile) (f : Nat) (d a b : VReg) (m : MReg) (e : Sew) : Option Instr :=
  if e = .s8 ∨ e = .s16 then none
  else match f with
  | 0x0 => some (.vfadd t d a b m e)
  | 0x1 => some (.vfsub t d a b m e)
  | 0x2 => some (.vfmul t d a b m e)
  | 0x3 => some (.vffma t d a b m e)
  | 0x4 => some (.vfmin t d a b m e)
  | 0x5 => some (.vfmax t d a b m e)
  | 0x10 => legal (d < 8) (.vfcmpeq t d a b m e)
  | 0x11 => legal (d < 8) (.vfcmplt t d a b m e)
  | _ => none
/-- Majors 0x22 and 0x23 (R230 to R232): no mask; Vd of VWIDE is even. -/
def decodeVwide (t : Tile) (f : Nat) (d a b : VReg) (m : MReg) (e : Sew) : Option Instr :=
  if m ≠ 0 ∨ e = .s64 ∨ d.val % 2 ≠ 0 ∨ 8 ≤ f then none
  else if f < 4 then some (.vwideMul t d a b m e (f % 2 == 1) (f / 2 % 2 == 1))
  else some (.vwideMuladd t d a b m e (f % 2 == 1) (f / 2 % 2 == 1))
def decodeVdot (t : Tile) (f : Nat) (d a b : VReg) (m : MReg) (e : Sew) : Option Instr :=
  if m ≠ 0 then none
  else if f < 4 then legal (e = .s8) (.vdotInt8 t d a b m e (f % 2 == 1) (f / 2 % 2 == 1))
  else if f = 4 then legal (e = .s16) (.vdotBf16 t d a b m e)
  else if f = 5 then legal (e = .s16) (.vdotFp16 t d a b m e)
  else none
/-- Major 0x24 by VFUNC (R230): a B field that is not named is 0. -/
def decodeVmem (t : Tile) (f : Nat) (d a b : Fin 32) (m : MReg) (e : Sew) : Option Instr :=
  match f with
  | 0x00 => legal (b = 0) (.vld t d a m e)
  | 0x01 => some (.vlds t d a b m e)
  | 0x02 => some (.vldx t d a b m e)
  | 0x08 => legal (b = 0) (.vst t d a m e)
  | 0x09 => some (.vsts t d a b m e)
  | 0x0a => some (.vstx t d a b m e)
  | _ => none
/-- A mask register named by a field whose upper bits are 0. -/
def maskReg (r : Fin 32) : MReg := Fin.ofNat 8 r.val
/-- Major 0x25 by VFUNC (R230). The mask operations take any SEW and read only bits 2:0 of Va and Vb; DEDUCED: Vd[4:3], as of the compares, and the mask field, which
no mask operation names, are 0 (log entry 4). -/
def decodeVmove (t : Tile) (f : Nat) (d a b : Fin 32) (m : MReg) (e : Sew) : Option Instr :=
  let masks : Bool := d < 8 ∧ m = 0
  match f with
  | 0x00 => legal (b = 0) (.vbcast t d a m e)
  | 0x01 => some (.vins t d a b m e)
  | 0x02 => some (.vext t d a b m e)
  | 0x03 => some (.vslide t d a b m e)
  | 0x08 => legal masks (.vmand t (maskReg d) (maskReg a) (maskReg b))
  | 0x09 => legal masks (.vmor t (maskReg d) (maskReg a) (maskReg b))
  | 0x0a => legal (masks && b = 0) (.vmnot t (maskReg d) (maskReg a))
  | _ => none
/-- Major 0x26 by VFUNC (R230). -/
def decodeVred (t : Tile) (f : Nat) (d a b : VReg) (m : MReg) (e : Sew) : Option Instr :=
  match f with
  | 0x00 => legal (b = 0) (.vredRsum t d a m e)
  | 0x01 => legal (b = 0 ∧ e ≠ .s8 ∧ e ≠ .s16) (.vredRsumf t d a m e)
  | 0x02 => legal (b = 0) (.vredRmax t d a m e)
  | 0x03 => legal (b = 0) (.vredRmin t d a m e)
  | _ => none
/-- Format V by major opcode and VFUNC (R218, R230). -/
def decodeVector (t : Tile) (w : BitVec 32) : Option Instr :=
  let d := fieldD w
  let a := fieldA w
  let b := fieldB w
  let m : MReg := Fin.ofNat 8 (bitsAt w 8 3)
  let e := sewOf (bitsAt w 6 2)
  let f := bitsAt w 0 6
  match bitsAt w 26 6 with
  | 0x20 => decodeVint t f d a b m e
  | 0x21 => decodeVfp t f d a b m e
  | 0x22 => decodeVwide t f d a b m e
  | 0x23 => decodeVdot t f d a b m e
  | 0x24 => decodeVmem t f d a b m e
  | 0x25 => decodeVmove t f d a b m e
  | 0x26 => decodeVred t f d a b m e
  | _ => none

/-- The instruction of tile `t` that a word spells by its major opcode; `none` for a word that raises ILLEGAL (R218, R219). -/
def decodeCore (t : Tile) (w : BitVec 32) : Option Instr :=
  let d := fieldD w
  let a := fieldA w
  let b := fieldB w
  let imm := w.extractLsb' 0 16
  let far := w.extractLsb' 0 21
  let f := bitsAt w 0 11
  match bitsAt w 26 6 with
  | 0x01 => decodeAlu t f d a b
  | 0x03 => some (.upperImmediate t d far)
  | 0x0c => decodeBranch t w
  | 0x0d => some (.jal t d far)
  | 0x10 => decodeSystem t f d a b
  | 0x11 => legal (f = 0) (.mxi t d a b)
  | 0x12 => legal (f = 0 ∧ b = 0) (.sti t d a)
  | 0x1d => decodeShift t w
  | 0x2 => some (.addi t d a imm)
  | 0x4 => some (.load64 t d a imm)
  | 0x5 => some (.load32 t d a imm)
  | 0x6 => some (.load16 t d a imm)
  | 0x7 => some (.load8 t d a imm)
  | 0x8 => some (.store64 t d a imm)
  | 0x9 => some (.store32 t d a imm)
  | 0xa => some (.store16 t d a imm)
  | 0xb => some (.store8 t d a imm)
  | 0xe => some (.jr t d a imm)
  | 0x18 => some (.andi t d a imm)
  | 0x19 => some (.ori t d a imm)
  | 0x1a => some (.xori t d a imm)
  | 0x1b => some (.slti t d a imm)
  | 0x1c => some (.sltiu t d a imm)
  | _ => decodeVector t w

/-- A word of each format (R218). -/
def wordR (major : Nat) (d a b : Fin 32) (f : Nat) : BitVec 32 := BitVec.ofNat 32 (2 ^ 26 * major + 2 ^ 21 * d.val + 2 ^ 16 * a.val + 2 ^ 11 * b.val + f)
def wordI (major : Nat) (d a : Fin 32) (imm : BitVec 16) : BitVec 32 := BitVec.ofNat 32 (2 ^ 26 * major + 2 ^ 21 * d.val + 2 ^ 16 * a.val + imm.toNat)
def wordJ (major : Nat) (d : Fin 32) (imm : BitVec 21) : BitVec 32 := BitVec.ofNat 32 (2 ^ 26 * major + 2 ^ 21 * d.val + imm.toNat)
def wordV (major : Nat) (d a b : Fin 32) (m : MReg) (e : Sew) (f : Nat) : BitVec 32 := wordR major d a b (2 ^ 8 * m.val + 2 ^ 6 * sewCode e + f)
/-- A mask register as a field. -/
def maskField (m : MReg) : Fin 32 := Fin.ofNat 32 m.val
/-- Two flags as VFUNC[1:0]. -/
def signs (a b : Bool) : Nat := a.toNat + 2 * b.toNat

/-- The word of an instruction of the control core (R218 to R221, R230); `none` for another command. -/
def encodeCore : Instr → Option (BitVec 32)
  | .add _ d a b => some (wordR 0x01 d a b 0x0)
  | .sub _ d a b => some (wordR 0x01 d a b 0x1)
  | .and _ d a b => some (wordR 0x01 d a b 0x2)
  | .or _ d a b => some (wordR 0x01 d a b 0x3)
  | .xor _ d a b => some (wordR 0x01 d a b 0x4)
  | .sll _ d a b => some (wordR 0x01 d a b 0x5)
  | .srl _ d a b => some (wordR 0x01 d a b 0x6)
  | .sra _ d a b => some (wordR 0x01 d a b 0x7)
  | .slt _ d a b => some (wordR 0x01 d a b 0x8)
  | .sltu _ d a b => some (wordR 0x01 d a b 0x9)
  | .min _ d a b => some (wordR 0x01 d a b 0xa)
  | .max _ d a b => some (wordR 0x01 d a b 0xb)
  | .minu _ d a b => some (wordR 0x01 d a b 0xc)
  | .maxu _ d a b => some (wordR 0x01 d a b 0xd)
  | .mul _ d a b => some (wordR 0x01 d a b 0x10)
  | .mulhi _ d a b => some (wordR 0x01 d a b 0x11)
  | .mulhiu _ d a b => some (wordR 0x01 d a b 0x12)
  | .mulhim _ d a b => some (wordR 0x01 d a b 0x13)
  | .div _ d a b => some (wordR 0x01 d a b 0x18)
  | .divu _ d a b => some (wordR 0x01 d a b 0x19)
  | .rem _ d a b => some (wordR 0x01 d a b 0x1a)
  | .remu _ d a b => some (wordR 0x01 d a b 0x1b)
  | .sext8 _ d a => some (wordR 0x01 d a 0 0x20)
  | .sext16 _ d a => some (wordR 0x01 d a 0 0x21)
  | .sext32 _ d a => some (wordR 0x01 d a 0 0x22)
  | .upperImmediate _ d imm => some (wordJ 0x03 d imm)
  | .addi _ d a imm => some (wordI 0x2 d a imm)
  | .load64 _ d a imm => some (wordI 0x4 d a imm)
  | .load32 _ d a imm => some (wordI 0x5 d a imm)
  | .load16 _ d a imm => some (wordI 0x6 d a imm)
  | .load8 _ d a imm => some (wordI 0x7 d a imm)
  | .store64 _ d a imm => some (wordI 0x8 d a imm)
  | .store32 _ d a imm => some (wordI 0x9 d a imm)
  | .store16 _ d a imm => some (wordI 0xa d a imm)
  | .store8 _ d a imm => some (wordI 0xb d a imm)
  | .jr _ d a imm => some (wordI 0xe d a imm)
  | .andi _ d a imm => some (wordI 0x18 d a imm)
  | .ori _ d a imm => some (wordI 0x19 d a imm)
  | .xori _ d a imm => some (wordI 0x1a d a imm)
  | .slti _ d a imm => some (wordI 0x1b d a imm)
  | .sltiu _ d a imm => some (wordI 0x1c d a imm)
  | .beq _ a b off => some (wordR 0x0c 0 a b (0x0 + off.toNat))
  | .bne _ a b off => some (wordR 0x0c 0 a b (0x100 + off.toNat))
  | .blt _ a b off => some (wordR 0x0c 0 a b (0x200 + off.toNat))
  | .bge _ a b off => some (wordR 0x0c 0 a b (0x300 + off.toNat))
  | .bltu _ a b off => some (wordR 0x0c 0 a b (0x400 + off.toNat))
  | .bgeu _ a b off => some (wordR 0x0c 0 a b (0x500 + off.toNat))
  | .jal _ d imm => some (wordJ 0x0d d imm)
  | .slli _ d a k => some (wordR 0x1d d a 0 (0x0 + k.toNat))
  | .srli _ d a k => some (wordR 0x1d d a 0 (0x40 + k.toNat))
  | .srai _ d a k => some (wordR 0x1d d a 0 (0x80 + k.toNat))
  | .sysr _ d a => some (wordR 0x10 d a 0 0x000)
  | .sysw _ a b => some (wordR 0x10 0 a b 0x001)
  | .retx _ => some (wordR 0x10 0 0 0 0x002)
  | .brk _ => some (wordR 0x10 0 0 0 0x003)
  | .isync _ => some (wordR 0x10 0 0 0 0x004)
  | .wnext _ d => some (wordR 0x10 d 0 0 0x010)
  | .waitm _ d a => some (wordR 0x10 d a 0 0x011)
  | .waits _ d a => some (wordR 0x10 d a 0 0x012)
  | .waitall _ => some (wordR 0x10 0 0 0 0x013)
  | .mxi _ d a b => some (wordR 0x11 d a b 0)
  | .sti _ d a => some (wordR 0x12 d a 0 0)
  | .vadd _ d a b m e => some (wordV 0x20 d a b m e 0x0)
  | .vsub _ d a b m e => some (wordV 0x20 d a b m e 0x1)
  | .vmul _ d a b m e => some (wordV 0x20 d a b m e 0x2)
  | .vmin _ d a b m e => some (wordV 0x20 d a b m e 0x4)
  | .vminu _ d a b m e => some (wordV 0x20 d a b m e 0x5)
  | .vmax _ d a b m e => some (wordV 0x20 d a b m e 0x6)
  | .vmaxu _ d a b m e => some (wordV 0x20 d a b m e 0x7)
  | .vand _ d a b m e => some (wordV 0x20 d a b m e 0x8)
  | .vor _ d a b m e => some (wordV 0x20 d a b m e 0x9)
  | .vxor _ d a b m e => some (wordV 0x20 d a b m e 0xa)
  | .vsll _ d a b m e => some (wordV 0x20 d a b m e 0xb)
  | .vsrl _ d a b m e => some (wordV 0x20 d a b m e 0xc)
  | .vsra _ d a b m e => some (wordV 0x20 d a b m e 0xd)
  | .vcmpeq _ d a b m e => some (wordV 0x20 d a b m e 0x10)
  | .vcmplt _ d a b m e => some (wordV 0x20 d a b m e 0x11)
  | .vcmpltu _ d a b m e => some (wordV 0x20 d a b m e 0x12)
  | .vfadd _ d a b m e => some (wordV 0x21 d a b m e 0x0)
  | .vfsub _ d a b m e => some (wordV 0x21 d a b m e 0x1)
  | .vfmul _ d a b m e => some (wordV 0x21 d a b m e 0x2)
  | .vffma _ d a b m e => some (wordV 0x21 d a b m e 0x3)
  | .vfmin _ d a b m e => some (wordV 0x21 d a b m e 0x4)
  | .vfmax _ d a b m e => some (wordV 0x21 d a b m e 0x5)
  | .vfcmpeq _ d a b m e => some (wordV 0x21 d a b m e 0x10)
  | .vfcmplt _ d a b m e => some (wordV 0x21 d a b m e 0x11)
  | .vwideMul _ d a b m e x y => some (wordV 0x22 d a b m e (signs x y))
  | .vwideMuladd _ d a b m e x y => some (wordV 0x22 d a b m e (4 + signs x y))
  | .vdotInt8 _ d a b m e x y => some (wordV 0x23 d a b m e (signs x y))
  | .vdotBf16 _ d a b m e => some (wordV 0x23 d a b m e 0x04)
  | .vdotFp16 _ d a b m e => some (wordV 0x23 d a b m e 0x05)
  | .vld _ d a m e => some (wordV 0x24 d a 0 m e 0x00)
  | .vlds _ d a b m e => some (wordV 0x24 d a b m e 0x01)
  | .vldx _ d a b m e => some (wordV 0x24 d a b m e 0x02)
  | .vst _ d a m e => some (wordV 0x24 d a 0 m e 0x08)
  | .vsts _ d a b m e => some (wordV 0x24 d a b m e 0x09)
  | .vstx _ d a b m e => some (wordV 0x24 d a b m e 0x0a)
  | .vbcast _ d a m e => some (wordV 0x25 d a 0 m e 0x00)
  | .vins _ d a b m e => some (wordV 0x25 d a b m e 0x01)
  | .vext _ d a b m e => some (wordV 0x25 d a b m e 0x02)
  | .vslide _ d a b m e => some (wordV 0x25 d a b m e 0x03)
  | .vmand _ d a b => some (wordV 0x25 (maskField d) (maskField a) (maskField b) 0 .s8 0x08)
  | .vmor _ d a b => some (wordV 0x25 (maskField d) (maskField a) (maskField b) 0 .s8 0x09)
  | .vmnot _ d a => some (wordV 0x25 (maskField d) (maskField a) 0 0 .s8 0x0a)
  | .vredRsum _ d a m e => some (wordV 0x26 d a 0 m e 0x00)
  | .vredRsumf _ d a m e => some (wordV 0x26 d a 0 m e 0x01)
  | .vredRmax _ d a m e => some (wordV 0x26 d a 0 m e 0x02)
  | .vredRmin _ d a m e => some (wordV 0x26 d a 0 m e 0x03)
  | _ => none

/-! ### Header flits (R331, R332) -/

/-- The opcodes of R332. -/
def opcodes : List Nat := [0x01, 0x02, 0x03, 0x04, 0x05, 0x06, 0x07, 0x10, 0x20, 0x21, 0x22, 0x30, 0x31]
/-- The virtual channel of an opcode (R332): 0 MGMT, 1 REQ, 2 RSP, 3 COLL; a response to a MGMT request travels on MGMT. -/
def vcOf (op : Nat) : Nat := if op = 0x30 ∨ op = 0x31 then 3 else if 0x20 ≤ op then 0 else if op = 0x10 then 2 else 1
/-- The requests whose data flits carry what they move (R332). -/
def carriesData (op : Nat) : Bool := op = 0x02 ∨ op = 0x04 ∨ op = 0x06 ∨ op = 0x30

/-- Little-endian value of up to eight bytes. -/
def wordLe : List Byte → Nat
  | [] => 0
  | b :: r => b.toNat + 256 * wordLe r
/-- The eight words of a header flit (R331); OPARG that is not given is zero. -/
def encodeHeader (p : Packet) : List Word :=
  let arg := p.oparg ++ List.replicate (32 - p.oparg.length) 0
  [BitVec.ofNat 64 (p.vc.toNat + 2 ^ 2 * p.opcode.toNat + 2 ^ 8 * p.dflits.toNat + 2 ^ 12 * p.tag.toNat + 2 ^ 19 * p.retrySafe.toNat + 2 ^ 20 * p.hint.toNat
      + 2 ^ 24 * p.reqEpoch.toNat + 2 ^ 32 * p.rspEpoch.toNat + 2 ^ 40 * p.code.toNat + 2 ^ 48 * p.txid.toNat),
    BitVec.ofNat 64 (p.srcStn.toNat + 2 ^ 16 * p.dstStn.toNat + 2 ^ 32 * p.dstUnit.toNat), p.addr,
    BitVec.ofNat 64 (p.bytesM1.toNat + 2 ^ 16 * p.poison.toNat + 2 ^ 32 * p.retryAfter.toNat)]
    ++ (List.range 4).map fun i => BitVec.ofNat 64 (wordLe ((arg.drop (8 * i)).take 8))
/-- The packet that a header flit holds; `none` for one with a reserved opcode or field, which is a BAD_PKT (R351). -/
def decodeHeader : List Word → Option Packet
  | [w0, w1, w2, w3, a0, a1, a2, a3] =>
    let p : Packet := {
      vc := w0.extractLsb' 0 2, opcode := w0.extractLsb' 2 6, dflits := w0.extractLsb' 8 4, tag := w0.extractLsb' 12 7, retrySafe := w0.getLsbD 19
      hint := w0.extractLsb' 20 2, reqEpoch := w0.extractLsb' 24 8, rspEpoch := w0.extractLsb' 32 8, code := w0.extractLsb' 40 8, txid := w0.extractLsb' 48 16
      srcStn := w1.extractLsb' 0 11, dstStn := w1.extractLsb' 16 11, dstUnit := w1.extractLsb' 32 32, addr := w2, bytesM1 := w3.extractLsb' 0 9
      poison := w3.extractLsb' 16 8, retryAfter := w3.extractLsb' 32 32
      oparg := [a0, a1, a2, a3].flatMap fun a => (List.range 8).map fun i => a.extractLsb' (8 * i) 8 }
    if w0.extractLsb' 22 2 ≠ 0 ∨ w1.extractLsb' 11 5 ≠ 0 ∨ w1.extractLsb' 27 5 ≠ 0 ∨ w3.extractLsb' 9 7 ≠ 0 ∨ w3.extractLsb' 24 8 ≠ 0 ∨ 8 < p.dflits.toNat ∨ !opcodes.contains p.opcode.toNat then none
    else some p
  | _ => none

end Sys2Proof
end

