-- ==== Sys2Proof/Config.lean ====
section
/-!
DEFINITION. Config.lean: the values that the spec leaves open. Each is an opaque constant without a body, so that a statement holds for every value of it.
-/
namespace Sys2Proof.Config

/-- A fresh unconstrained value for each index (the counter `State.freeCount` supplies the index). -/
opaque free : Nat → Word

/-- The result of a vector shift by the element width or more, for shift kind, width, element and amount (R230 states none; log entry 9). -/
opaque vecShift : Nat → Nat → Nat → Nat → Nat

/-- Bytes that the spec leaves unspecified: a destination after a failed collective (R446), a problem's storage (R256). First argument: a fresh index. -/
opaque freeByte : Nat → Nat → BitVec 8

/-- A special function of the stream engine whose last bits the spec leaves open (R185: RSQRT and EXP to SILU): opcode, working precision, operand code; the result code. -/
opaque special : Nat → Nat → Nat → Nat

/-- The integer that an INT32 slot takes for a chunk whose exact sum is not an integer (R106 lets INT8 operands hold fractions, R154 gives the value only of
integer sums): numerator and denominator in lowest terms, 0 and 0 for a sum with a NaN (log entry 14). -/
opaque chunkInt : Int → Nat → Int

/-- The sum of products of FP64 codes, in FP64: the order and the roundings of its operations the spec leaves open (R263, R268). -/
opaque sumProd : List (Nat × Nat) → Nat

/-- The quotient of two FP64 codes in a factorisation, a triangular solve or a preconditioner (R253, R264): a division, or a product with a reciprocal, which the spec leaves open. -/
opaque ratio : Nat → Nat → Nat

/-- GMRES applies its preconditioner from the left, and forms its basis by the classical Gram-Schmidt steps; else from the right, and by the modified ones (R264 says neither). -/
opaque gmresLeft : Bool
opaque gmresClassical : Bool
/-- The Givens rotation that takes a pair of FP64 codes to its length and zero: cosine and sine (R264), whose roundings the spec leaves open. -/
opaque givens : Nat → Nat → Nat × Nat

/-- The diagonal regularisation of the rows of the multipliers has a negative sign (R276 gives its size, 2^-40, and not its sign). -/
opaque regNegative : Bool
/-- The right-hand side of a QP's Newton step (R273), whose centring the spec leaves open: descriptor; P, A, b, G, h, q and the iterate. -/
opaque kktRhs : List (BitVec 8) → List (List Nat) → List Nat
/-- How far a Newton step goes (R273): the lengths for x and for the multipliers, the direction and length of the slacks; and the directions whose certificates it tests (R276). -/
structure QpStep where
  primal : Nat := 0
  dual : Nat := 0
  slack : List Nat := []
  nu : List Nat := []
  mu : List Nat := []
  d : List Nat := []
deriving Inhabited
/-- The step of a QP along a Newton direction: descriptor; P, A, b, G, h, q, the iterate and the direction. -/
opaque qpStep : List (BitVec 8) → List (List Nat) → QpStep

/-- A field of a solver record whose value the spec does not give, a function of the data of the command (R268, R469, R488): 0 the residual of a DEADLINE, 1 the iterations and
2 the residual of a QP's adjoint, 3 the residual of a SINGULAR solve, 4 that of an adjoint whose solve did not converge; problem descriptor; the problem's arrays, the vector read and the starting point. -/
opaque solveField : Nat → List (BitVec 8) → List (List Nat) → Nat

/-- How many matrix and stream descriptors a sequencer issues to a tile for a solve or an adjoint (R283): adjoint or not, descriptor, the problem's arrays, the vector
read and the starting point, position of the tile. -/
opaque seqCount : Bool → List (BitVec 8) → List (List Nat) → Nat → Nat × Nat
/-- The fields of a sequencer's descriptor (R283): problem descriptor, position of the tile, number. -/
opaque seqDesc : List (BitVec 8) → Nat → Nat → Nat
/-- The tclk that a sequencer's descriptor keeps its engine busy (R142, R210): the words of the descriptor. -/
opaque seqBusy : List (BitVec 64) → Nat
/-- The totals that a sequencer's matrix descriptor leaves in its slot, by element (R136, R283): the words of the descriptor; the problem's arrays with the vector read and the starting
point, and the slot's totals before it. -/
opaque seqTotal : List (BitVec 64) → List (List Nat) → Nat → Nat

/-- The coefficients that a fit of R502 gives where its minimum is not unique: no window has energy, so the ridge term has no weight. Of the fused coefficients and the windows, newest first,
each with its features and its energy. -/
opaque fit : List Int → List (List Int × Nat) → List Int

/-- A field of the body of the board description (R632), whose byte layout the spec does not give: 0 PRESENT, 1 DENSITY, 2 CLAMSHELL, 3 BOOT_PORT, 4 LIMIT_W, 5 IMAGE_SLOT. -/
opaque boardField : Nat → List (BitVec 8) → Nat

/-- The bytes of H_W, H_I and H_O in the record of a digest command that computes no digest, which the spec does not give, as a function of what the command read (R469, R484):
the code, the group, the command block and the group's bytes. -/
opaque digHash : Nat → Nat → List (BitVec 8) → List (BitVec 8) → List (BitVec 8)

/-- What a read of the host's memory returns: a fresh index, address and length (R61). -/
opaque hostBytes : Nat → Nat → Nat → List (BitVec 8)

/-- Signature checks of the security block: algorithm, key identifier, message, signature (R47). -/
opaque sigOk : Nat → List (BitVec 8) → List (BitVec 8) → List (BitVec 8) → Bool

/-- The number of the event crossing from mclk to the tclk of a die (R543), which the spec does not give. -/
opaque wakeCrossing : Nat → Nat

/-- The MCTP versions supported (R577), which the spec does not list. -/
opaque mctpVersions : List (BitVec 8)

/-- The update number of a PLDM type's version (R580): 1.1.x, 1.2.x and 1.1.x for types 0, 2 and 5. -/
opaque pldmUpdate : Nat → BitVec 8

/-- A platform descriptor record (R581), whose bytes a DMTF standard gives. -/
opaque pdr : Nat → List (BitVec 8)

/-- The measurement of the ROM (R590). -/
opaque romMeasure : List (BitVec 8)

/-- A certificate chain: slot, device secret, firmware measurement where the slot has the alias key (R590). -/
opaque certChain : Nat → List (BitVec 8) → List (BitVec 8) → List (BitVec 8)

/-- A signature of a certificate slot's key over a message (R589): slot, device secret, message. -/
opaque sign : Nat → List (BitVec 8) → List (BitVec 8) → List (BitVec 8)

/-- The S4's part of a key exchange (R589): session and the request's data. -/
opaque exchange : Nat → List (BitVec 8) → List (BitVec 8)

/-- The CRC of a journal record (R557), whose polynomial the spec does not give. -/
opaque crc32 : List (BitVec 8) → Nat

/-- The CRC of a board description holds (R583, R632). -/
opaque boardCrcOk : List (BitVec 8) → Bool

end Sys2Proof.Config
end

