-- ==== Sys2Proof/Machine/Bits.lean ====
section
/-!
DEFINITION. Machine/Bits.lean: bit fields (R10), sign extension, byte order (R84: little-endian) and small arithmetic helpers.
-/
namespace Sys2Proof.Machine

/-- The field of `w` bits at bit `lo` of `x`. -/
def fieldOf (x : Nat) (lo w : Nat) : Nat := (x / 2 ^ lo) % 2 ^ w

/-- Bit `i` of `x`. -/
def bitOf (x : Nat) (i : Nat) : Bool := x / 2 ^ i % 2 = 1

/-- The field of `w` bits at bit `lo` of a register word. -/
def wfld (x : Word) (lo w : Nat) : Nat := fieldOf x.toNat lo w

/-- `x` with the field of `w` bits at bit `lo` set to `v`. -/
def wput (x : Word) (lo w v : Nat) : Word :=
  (x &&& ~~~(BitVec.ofNat 64 ((2 ^ w - 1) * 2 ^ lo))) ||| BitVec.ofNat 64 (v % 2 ^ w * 2 ^ lo)

/-- A truth value as a bit. -/
def b2n (b : Bool) : Nat := if b then 1 else 0

/-- The two's complement value of the low `w` bits of `x`. -/
def signedOf (w x : Nat) : Int :=
  let y := x % 2 ^ w
  if 2 * y < 2 ^ w then (y : Int) else (y : Int) - 2 ^ w

/-- An integer narrowed to `w` bits, two's complement. -/
def wrapTo (w : Nat) (z : Int) : Nat := (z % (2 ^ w : Nat)).toNat

/-- An integer as a register word. -/
def wordOf (z : Int) : Word := BitVec.ofInt 64 z

/-- An integer held within `[lo, hi]`. -/
def clampI (lo hi z : Int) : Int := if z < lo then lo else if hi < z then hi else z

/-- The sign extension to 64 bits of the low `w` bits. -/
def sext (w : Nat) (x : Nat) : Word := wordOf (signedOf w x)

/-- The little-endian value of a list of bytes (R84). -/
def leVal : List Byte → Nat
  | [] => 0
  | b :: r => b.toNat + 256 * leVal r

/-- The `n` bytes of a value, little-endian. -/
def leBytes : Nat → Nat → List Byte
  | 0, _ => []
  | n + 1, x => BitVec.ofNat 8 x :: leBytes n (x / 256)

/-- The big-endian value of a list of bytes. -/
def beVal (l : List Byte) : Nat := leVal l.reverse

/-- The `n` bytes of a value, big-endian. -/
def beBytes (n x : Nat) : List Byte := (leBytes n x).reverse

/-- `n` bytes of a list from offset `o`; missing bytes read as zero. -/
def slice (l : List Byte) (o n : Nat) : List Byte :=
  let r := (l.drop o).take n
  r ++ List.replicate (n - r.length) 0

/-- The little-endian value of `n` bytes of a list from offset `o`. -/
def leAt (l : List Byte) (o n : Nat) : Nat := leVal (slice l o n)

/-- The quotient rounded up. -/
def ceilDiv (a b : Nat) : Nat := (a + b - 1) / b

/-- The number of ones among the low `w` bits. -/
def popCount : Nat → Nat → Nat
  | 0, _ => 0
  | w + 1, x => x % 2 + popCount w (x / 2)

/-- The position of the lowest one among the low `w` bits, counted from `i`. -/
def lowestOneFrom : Nat → Nat → Nat → Option Nat
  | 0, _, _ => none
  | w + 1, i, x => if x % 2 = 1 then some i else lowestOneFrom w (i + 1) (x / 2)

/-- The position of the lowest one among the low `w` bits. -/
def lowestOne (w x : Nat) : Option Nat := lowestOneFrom w 0 x

/-- Keep the last `n` entries of a list. -/
def lastN {α : Type} (n : Nat) (l : List α) : List α := l.drop (l.length - n)

/-- Replace the elements of a list that satisfy `p`. -/
def mapIf {α : Type} (p : α → Bool) (f : α → α) (l : List α) : List α := l.map fun a => if p a then f a else a

end Sys2Proof.Machine
end

