-- ==== Sys2Proof/Machine/Formats.lean ====
section
/-!
DEFINITION. Machine/Formats.lean: number formats and conversion (03_number_formats.md R76 to R103). A value is exact: a sign, a magnitude and a power of two;
a conversion rounds once from it.
-/
namespace Sys2Proof.Machine

/-- An exact value: a NaN of a sign, an infinity of a sign, or `(-1)^neg * m * 2^e` (a zero keeps its sign). -/
inductive Val where
  | nan (neg : Bool)
  | inf (neg : Bool)
  | fin (neg : Bool) (m : Nat) (e : Int)
deriving DecidableEq, Repr, Inhabited

/-- The value is a NaN. -/
def Val.isNan : Val → Bool
  | .nan _ => true
  | _ => false
/-- The value is an infinity. -/
def Val.isInf : Val → Bool
  | .inf _ => true
  | _ => false
/-- The value is a zero of either sign. -/
def Val.isZero : Val → Bool
  | .fin _ 0 _ => true
  | _ => false
/-- The sign of a value. -/
def Val.neg? : Val → Bool
  | .nan s => s
  | .inf s => s
  | .fin s _ _ => s
/-- The value with its sign inverted. -/
def Val.negate : Val → Val
  | .nan s => .nan (!s)
  | .inf s => .inf (!s)
  | .fin s m e => .fin (!s) m e
/-- The value with a positive sign. -/
def Val.abs : Val → Val
  | .nan _ => .nan false
  | .inf _ => .inf false
  | .fin _ m e => .fin false m e
/-- The value times `2^k`. -/
def Val.scale (k : Int) : Val → Val
  | .fin s m e => .fin s m (e + k)
  | v => v
/-- The exact value of an integer. -/
def Val.ofInt (z : Int) : Val := .fin (decide (z < 0)) z.natAbs 0

/-- `m * 2^e ≤ m' * 2^e'`. -/
def magLe (m : Nat) (e : Int) (m' : Nat) (e' : Int) : Bool :=
  let b := min e e'
  decide (m * 2 ^ (e - b).toNat ≤ m' * 2 ^ (e' - b).toNat)

/-- Special codes of a floating-point format: IEEE infinities and NaNs, only the NaN of E4M3, or none (R82). -/
inductive Special where
  | ieee | nanOnly | none
deriving DecidableEq, Repr

/-- A floating-point layout (R79): exponent width, fraction width, bias and special codes. -/
structure FloatFmt where
  ew : Nat
  fw : Nat
  bias : Nat
  special : Special
deriving DecidableEq, Repr

def fmtFp64 : FloatFmt := ⟨11, 52, 1023, .ieee⟩
def fmtFp32 : FloatFmt := ⟨8, 23, 127, .ieee⟩
def fmtFp16 : FloatFmt := ⟨5, 10, 15, .ieee⟩
def fmtBf16 : FloatFmt := ⟨8, 7, 127, .ieee⟩
def fmtE5m2 : FloatFmt := ⟨5, 2, 15, .ieee⟩
def fmtE4m3 : FloatFmt := ⟨4, 3, 7, .nanOnly⟩
def fmtE3m2 : FloatFmt := ⟨3, 2, 3, .none⟩
def fmtE2m3 : FloatFmt := ⟨2, 3, 1, .none⟩
def fmtE2m1 : FloatFmt := ⟨2, 1, 1, .none⟩

/-- The bits of a code. -/
def FloatFmt.width (f : FloatFmt) : Nat := 1 + f.ew + f.fw
/-- The largest finite code of positive sign (R82). -/
def FloatFmt.maxCode (f : FloatFmt) : Nat :=
  match f.special with
  | .ieee => (2 ^ f.ew - 1) * 2 ^ f.fw - 1
  | .nanOnly => 2 ^ (f.ew + f.fw) - 2
  | .none => 2 ^ (f.ew + f.fw) - 1
/-- The value of a code without its sign bit, as magnitude and exponent (R80). -/
def FloatFmt.mag (f : FloatFmt) (c : Nat) : Nat × Int :=
  let e := c / 2 ^ f.fw
  let x := c % 2 ^ f.fw
  if e = 0 then (x, 1 - (f.bias : Int) - f.fw) else (2 ^ f.fw + x, (e : Int) - f.bias - f.fw)
/-- The exact value of a code (R80, R82). -/
def FloatFmt.decode (f : FloatFmt) (code : Nat) : Val :=
  let s := bitOf code (f.ew + f.fw)
  let c := code % 2 ^ (f.ew + f.fw)
  if c ≤ f.maxCode then .fin s (f.mag c).1 (f.mag c).2
  else match f.special with
    | .ieee => if c = f.maxCode + 1 then .inf s else .nan s
    | .nanOnly => .nan s
    | .none => .fin s (f.mag c).1 (f.mag c).2
/-- The code of a sign and a magnitude code. -/
def FloatFmt.signed (f : FloatFmt) (s : Bool) (c : Nat) : Nat := b2n s * 2 ^ (f.ew + f.fw) + c
/-- The canonical quiet NaN of a sign (R83). -/
def FloatFmt.nanCode (f : FloatFmt) (s : Bool) : Nat :=
  match f.special with
  | .ieee => f.signed s (f.maxCode + 1 + 2 ^ (f.fw - 1))
  | .nanOnly => f.signed s (f.maxCode + 1)
  | .none => f.signed s 0
/-- The infinity code of a sign, for a format with infinities. -/
def FloatFmt.infCode (f : FloatFmt) (s : Bool) : Nat := f.signed s (f.maxCode + 1)

/-- The rounding of one element: to nearest, ties to even, or stochastic with the 16-bit number `r` (R90, R91). -/
inductive Rnd where
  | rne
  | sr (r : Nat)
deriving DecidableEq, Repr

/-- `m * 2^e` rounded to a whole number of quanta `2^q` (R90, R91). -/
def roundMag (rd : Rnd) (m : Nat) (e q : Int) : Nat :=
  if q ≤ e then m * 2 ^ (e - q).toNat
  else
    let d := (q - e).toNat
    let lo := m / 2 ^ d
    let rem := m % 2 ^ d
    match rd with
    | .rne => if 2 * rem > 2 ^ d ∨ (2 * rem = 2 ^ d ∧ lo % 2 = 1) then lo + 1 else lo
    | .sr r => if rem ≠ 0 ∧ rem * 65536 / 2 ^ d + r ≥ 65536 then lo + 1 else lo

/-- The magnitude code nearest to `m * 2^e`, held at the largest finite code (R90, R91, R98, R102). -/
def FloatFmt.roundCode (f : FloatFmt) (rd : Rnd) (m : Nat) (e : Int) : Nat :=
  if m = 0 then 0
  else
    let emin : Int := 1 - (f.bias : Int)
    let l : Int := (Nat.log2 m : Int) + e
    let b := max l emin
    let n := roundMag rd m e (b - f.fw)
    min ((b - emin).toNat * 2 ^ f.fw + n) f.maxCode

/-- The magnitude reaches the overflow point: the largest finite value plus half an ulp (R95). -/
def FloatFmt.overflows (f : FloatFmt) (m : Nat) (e : Int) : Bool :=
  let x := f.mag f.maxCode
  magLe (2 * x.1 + 1) (x.2 - 1) m e

/-- A converted element: its code and the events of R97 and R101. -/
structure CvtR where
  code : Nat := 0
  sat : Bool := false
  nanInt : Bool := false
deriving DecidableEq, Repr, Inhabited

/-- Conversion to a floating-point format (R89 to R102); `satmode` is TILE_CVT.SATMODE (R96). -/
def FloatFmt.encode (f : FloatFmt) (satmode : Bool) (rd : Rnd) (v : Val) : CvtR :=
  match v with
  | .nan s => ⟨f.nanCode s, false, false⟩
  | .inf s =>
    match f.special with
    | .ieee => ⟨f.infCode s, false, false⟩
    | .nanOnly => ⟨if satmode then f.signed s f.maxCode else f.nanCode s, true, false⟩
    | .none => ⟨f.signed s f.maxCode, true, false⟩
  | .fin s m e =>
    if f.overflows m e then
      if satmode then ⟨f.signed s f.maxCode, true, false⟩
      else match f.special with
        | .ieee => if f = fmtFp16 then ⟨f.nanCode s, true, false⟩ else ⟨f.infCode s, true, false⟩
        | .nanOnly => ⟨f.nanCode s, true, false⟩
        | .none => ⟨f.signed s f.maxCode, true, false⟩
    else ⟨f.signed s (f.roundCode rd m e), false, false⟩

/-- Conversion to an integer in `[lo, hi]` (R95, R96, R98, R99, R101), as an integer. -/
def cvtInt (lo hi : Int) (rd : Rnd) (v : Val) : Int × Bool × Bool :=
  match v with
  | .nan _ => (0, false, true)
  | .inf s => (if s then lo else hi, true, false)
  | .fin s m e =>
    if s then
      if magLe (2 * lo.natAbs + 1) (-1) m e then (lo, true, false)
      else (max lo (-(roundMag rd m e 0 : Int)), false, false)
    else
      if magLe (2 * hi.natAbs + 1) (-1) m e then (hi, true, false)
      else (min hi (roundMag rd m e 0 : Int), false, false)

/-- A rounding to IEEE binary32 or binary64, ties to even, overflow to infinity. -/
def rnTo (f : FloatFmt) (v : Val) : Val := f.decode (f.encode false .rne v).code

/-- A storage or operand format with its signedness bit (R76, R77). -/
structure Fmt where
  code : Nat
  sg : Bool := true
deriving DecidableEq, Repr, Inhabited

/-- Reserved format codes (R76). -/
def Fmt.reserved (f : Fmt) : Bool := decide (13 ≤ f.code)
/-- INT32 (R78). -/
def Fmt.isInt32 (f : Fmt) : Bool := decide (f.code = 12)
/-- The element width in bits (R76). -/
def Fmt.width (f : Fmt) : Nat :=
  match f.code with
  | 0 => 64 | 1 => 32 | 2 => 16 | 3 => 16 | 4 => 8 | 5 => 8 | 6 => 6 | 7 => 6 | 8 => 4 | 9 => 8 | 10 => 8 | 11 => 4 | 12 => 32 | _ => 0
/-- Block-scaled formats (R76). -/
def Fmt.blockScaled (f : Fmt) : Bool := decide (4 ≤ f.code ∧ f.code ≤ 9)
/-- Integer formats that are not block-scaled. -/
def Fmt.isInt (f : Fmt) : Bool := decide (10 ≤ f.code ∧ f.code ≤ 12)
/-- The floating-point layout of a format (R79). -/
def Fmt.float? (f : Fmt) : Option FloatFmt :=
  match f.code with
  | 0 => some fmtFp64 | 1 => some fmtFp32 | 2 => some fmtFp16 | 3 => some fmtBf16 | 4 => some fmtE4m3 | 5 => some fmtE5m2
  | 6 => some fmtE3m2 | 7 => some fmtE2m3 | 8 => some fmtE2m1 | _ => none
/-- The range of an integer format (R95). -/
def Fmt.range (f : Fmt) : Int × Int :=
  match f.code with
  | 10 => if f.sg then (-128, 127) else (0, 255)
  | 11 => if f.sg then (-8, 7) else (0, 15)
  | 12 => (-2147483648, 2147483647)
  | _ => (-127, 127)
/-- The exponent of the largest binade of an element format (R82). -/
def Fmt.emax (f : Fmt) : Int :=
  match f.code with
  | 4 => 8 | 5 => 15 | 6 => 4 | 7 => 2 | 8 => 2 | _ => 0

/-- The exact value of an element code, without its block's scale (R80, R81). -/
def Fmt.decodeElem (f : Fmt) (c : Nat) : Val :=
  match f.float? with
  | some g => g.decode c
  | none =>
    if f.code = 9 then
      let z := signedOf 8 c
      .fin (decide (z < 0)) z.natAbs (-6)
    else if f.sg ∨ f.code = 12 then .ofInt (signedOf f.width c) else .ofInt (c % 2 ^ f.width)

/-- The exact value of an element of a block with scale code `k` (R87). -/
def Fmt.decodeScaled (f : Fmt) (k c : Nat) : Val :=
  if k = 255 then .nan false else (f.decodeElem c).scale ((k : Int) - 127)

/-- Conversion of one element to a format, without block scale (R89 to R102). -/
def Fmt.encodeElem (f : Fmt) (satmode : Bool) (rd : Rnd) (v : Val) : CvtR :=
  match f.float? with
  | some g => g.encode satmode rd v
  | none =>
    if f.code = 9 then
      let r := cvtInt (-127) 127 rd (v.scale 6)
      ⟨wrapTo 8 r.1, r.2.1, false⟩
    else
      let r := cvtInt f.range.1 f.range.2 rd v
      ⟨wrapTo f.width r.1, r.2.1, r.2.2⟩

/-- floor(log2) of the magnitude of a nonzero finite value. -/
def Val.floorLog2 : Val → Int
  | .fin _ m e => (Nat.log2 m : Int) + e
  | _ => 0

/-- A converted block: scale code, element codes, the number of overflows, and whether the scale was clamped (R88, R97). -/
structure CvtBlock where
  scale : Nat := 0
  codes : List Nat := []
  sats : Nat := 0
  clamp : Bool := false
deriving DecidableEq, Repr, Inhabited

/-- The exponent of case 4 of R88 before clamping, over the nonzero elements. -/
def blockExp (f : Fmt) (xs : List Val) : Int :=
  match (xs.filter fun v => !v.isZero).map Val.floorLog2 with
  | [] => 0
  | a :: r => r.foldl max a - f.emax

/-- Conversion of the elements of one block to a block-scaled format (R88); `rd j` rounds element `j`. -/
def Fmt.encodeBlock (f : Fmt) (satmode : Bool) (rd : Nat → Rnd) (xs : List Val) : CvtBlock :=
  if xs.any Val.isNan then { scale := 255, codes := xs.map fun _ => 0 }
  else if xs.all Val.isZero then { scale := 0, codes := xs.map fun v => (f.encodeElem satmode .rne v).code }
  else
    let hasInf := xs.any Val.isInf
    let want : Int := if hasInf then 254 else blockExp f xs + 127
    let k : Int := clampI 0 254 want
    let rs := xs.mapIdx fun j v => f.encodeElem satmode (rd j) (v.scale (127 - k))
    { scale := k.toNat, codes := rs.map CvtR.code, sats := rs.countP CvtR.sat, clamp := decide (k ≠ want) }

/-- The conversion events of one tile since a descriptor's start (R97, R101, R103). -/
structure CvtEv where
  sats : Nat := 0
  nanInt : Bool := false
  clamp : Bool := false
deriving DecidableEq, Repr, Inhabited

/-- The events of two conversions together (R111). -/
def CvtEv.add (a b : CvtEv) : CvtEv := ⟨a.sats + b.sats, a.nanInt || b.nanInt, a.clamp || b.clamp⟩

/-- Split a list into pieces of `n`. -/
def chunksOf {α : Type} (n : Nat) : Nat → List α → List (List α)
  | 0, _ => []
  | fuel + 1, l => if l.isEmpty then [] else l.take n :: chunksOf n fuel (l.drop n)

/-- Conversion of a row of values to a format: element codes, scale codes and events; a block-scaled row is cut into blocks of 32 (R85, R86, R88). -/
def Fmt.encodeRow (f : Fmt) (satmode : Bool) (rd : Nat → Rnd) (xs : List Val) : List Nat × List Nat × CvtEv :=
  if f.blockScaled then
    let bs := (chunksOf 32 xs.length xs).mapIdx fun b ys => f.encodeBlock satmode (fun j => rd (32 * b + j)) ys
    (bs.flatMap CvtBlock.codes, bs.map CvtBlock.scale, ⟨(bs.map CvtBlock.sats).sum, false, bs.any CvtBlock.clamp⟩)
  else
    let rs := xs.mapIdx fun j v => f.encodeElem satmode (rd j) v
    (rs.map CvtR.code, [], ⟨rs.countP CvtR.sat, rs.any CvtR.nanInt, false⟩)

/-- Bytes that `n` elements of a format take (R84, R86): whole bytes, or whole 3-byte groups of a 6-bit format. -/
def Fmt.bytes (f : Fmt) (n : Nat) : Nat := if f.width = 6 then ceilDiv n 4 * 3 else ceilDiv (n * f.width) 8

/-- Element codes packed into bytes (R84). -/
def Fmt.pack (f : Fmt) (cs : List Nat) : List Byte :=
  leBytes (f.bytes cs.length) ((cs.foldr (fun c a => c % 2 ^ f.width + 2 ^ f.width * a) 0))

/-- `n` element codes unpacked from bytes (R84). -/
def Fmt.unpack (f : Fmt) (n : Nat) (bs : List Byte) : List Nat :=
  let x := leVal bs
  (List.range n).map fun i => fieldOf x (i * f.width) f.width

end Sys2Proof.Machine
end

