-- ==== Sys2Proof/Machine/RegMap.lean ====
section
/-!
DEFINITION. Machine/RegMap.lean: the BAR0 map (R614, R615, R40). One row for each register map of the spec: its place, its instances, the bits of each
access code (R12) and its reset word (R17), less the bits that the model computes on read from the state that owns them (RegView.lean); and the offset of every register by name.
-/
namespace Sys2Proof.Machine

/-- One register map: `count` registers `stride` apart from `base`, in `insts` instances `instStride` apart. -/
structure RegSpec where
  base : Nat
  insts : Nat
  instStride : Nat
  count : Nat
  stride : Nat
  /-- bits of access RW or RWS -/
  rw : Nat
  /-- bits of access W1C -/
  w1c : Nat
  /-- bits of access WO -/
  wo : Nat
  /-- the word after reset -/
  reset : Nat
deriving DecidableEq, Repr

/-- The register maps of chapter 00. -/
def regSpecs00 : List RegSpec := [
  ⟨0x0, 1, 0x0, 1, 0, 0x0, 0x0, 0x0, 0x44000000000042a⟩ ]
-- GLB_DEVICE_ID

/-- The register maps of chapter 02. -/
def regSpecs02 : List RegSpec := [
  ⟨0x100000, 1, 0x0, 1, 0, 0x0, 0x0, 0x0, 0x301⟩,
  ⟨0x100008, 1, 0x0, 1, 0, 0x0, 0x0, 0x3, 0x0⟩,
  ⟨0x100010, 1, 0x0, 1, 0, 0xfffffffffffff000, 0x0, 0x0, 0x0⟩,
  ⟨0x100018, 1, 0x0, 1, 0, 0x7fffffff, 0x0, 0x0, 0x0⟩,
  ⟨0x100020, 1, 0x0, 1, 0, 0x0, 0x700000000, 0x0, 0x0⟩,
  ⟨0x100028, 1, 0x0, 1, 0, 0x0, 0x0, 0x0, 0x0⟩,
  ⟨0x101000, 1, 0x0, 64, 8, 0x0, 0x0, 0x300, 0x0⟩ ]
-- IMG_VERSION_CAP, IMG_CTRL, IMG_SRC_ADDR, IMG_LEN, IMG_STATUS, IMG_ACTIVE, IMG_PART_p

/-- The register maps of chapter 03. -/
def regSpecs03 : List RegSpec := [
  ⟨0x2000100, 1088, 0x4000, 1, 0, 0xf, 0x0, 0x0, 0x2⟩,
  ⟨0x2000108, 1088, 0x4000, 1, 0, 0x0, 0x1f, 0x0, 0x0⟩,
  ⟨0x2000110, 1088, 0x4000, 1, 0, 0x0, 0x0, 0x1000000000000, 0x0⟩ ]
-- TILE_CVT, TILE_CVT_STATUS, TILE_SAT_COUNT

/-- The register maps of chapter 04. -/
def regSpecs04 : List RegSpec := [
  ⟨0x2000200, 1088, 0x4000, 1, 0, 0x0, 0x1f00, 0x0, 0x0⟩,
  ⟨0x2000208, 1088, 0x4000, 1, 0, 0x0, 0x0, 0x1000000000000, 0x0⟩,
  ⟨0x2000210, 1088, 0x4000, 1, 0, 0x0, 0x0, 0x1000000000000, 0x0⟩,
  ⟨0x2000218, 1088, 0x4000, 1, 0, 0xffffffff, 0x0, 0x0, 0x0⟩ ]
-- TILE_MX_STATUS, TILE_MX_BUSY, TILE_MX_STALL, TILE_MX_RNG

/-- The register maps of chapter 05. -/
def regSpecs05 : List RegSpec := [
  ⟨0x2000300, 1088, 0x4000, 1, 0, 0x1000, 0xf00, 0x0, 0x0⟩,
  ⟨0x2000308, 1088, 0x4000, 1, 0, 0x0, 0x0, 0x0, 0x0⟩,
  ⟨0x2000310, 1088, 0x4000, 1, 0, 0x0, 0x0, 0xffffffffffffffff, 0x0⟩,
  ⟨0x2000400, 1088, 0x4000, 64, 8, 0x0, 0x0, 0x0, 0x0⟩ ]
-- ACC_STATUS, ACC_FAULT_INFO, ACC_SLOT_FREE, ACC_SLOT_s

/-- The register maps of chapter 06. -/
def regSpecs06 : List RegSpec := [
  ⟨0x2000600, 1088, 0x4000, 1, 0, 0x4000, 0x3f00, 0x0, 0x0⟩,
  ⟨0x2000608, 1088, 0x4000, 1, 0, 0x0, 0x0, 0x0, 0x0⟩,
  ⟨0x2000610, 1088, 0x4000, 1, 0, 0x0, 0x0, 0x1000000000000, 0x0⟩,
  ⟨0x2000618, 1088, 0x4000, 1, 0, 0x0, 0x0, 0x1000000000000, 0x0⟩ ]
-- STRM_STATUS, STRM_FAULT_INFO, STRM_BUSY, STRM_STALL

/-- The register maps of chapter 07. -/
def regSpecs07 : List RegSpec := [
  ⟨0x2000800, 1088, 0x4000, 1, 0, 0x3, 0x30008, 0x0, 0x0⟩,
  ⟨0x2000808, 1088, 0x4000, 1, 0, 0xfffffffffffffffc, 0x0, 0x0, 0x0⟩,
  ⟨0x2000810, 1088, 0x4000, 1, 0, 0x0, 0x0, 0x0, 0x0⟩,
  ⟨0x2000818, 1088, 0x4000, 1, 0, 0x0, 0x0, 0x0, 0x0⟩,
  ⟨0x2000820, 1088, 0x4000, 1, 0, 0xfffffffffffffffc, 0x0, 0x0, 0x0⟩,
  ⟨0x2000828, 1088, 0x4000, 1, 0, 0x13f, 0x0, 0x0, 0x0⟩,
  ⟨0x2000830, 1088, 0x4000, 1, 0, 0x0, 0x1, 0x0, 0x0⟩ ]
-- TILE_CORE_STATUS, TILE_EPC, TILE_ECAUSE, TILE_EVAL, TILE_EVEC, VX_RESUME, VX_STATUS

/-- The register maps of chapter 08. -/
def regSpecs08 : List RegSpec := [
  ⟨0x2000a00, 1088, 0x4000, 1, 0, 0x0, 0x0, 0x1fffff, 0x0⟩,
  ⟨0x1c00000, 4, 0x40000, 1, 0, 0x0, 0xf00000000, 0x0, 0x0⟩,
  ⟨0x1c00008, 4, 0x40000, 1, 0, 0x0, 0x0, 0x0, 0x0⟩,
  ⟨0x1c00010, 4, 0x40000, 1, 0, 0x0, 0x0, 0x1000000000000, 0x0⟩,
  ⟨0x1c00018, 4, 0x40000, 1, 0, 0x0, 0x0, 0x1000000000000, 0x0⟩,
  ⟨0x1c01000, 4, 0x40000, 64, 8, 0x0, 0x0, 0x0, 0x0⟩ ]
-- TILE_SOLV_POST, SOLV_STATUS, SOLV_FAULT_INFO, SOLV_SOLVES, SOLV_SHIFTS, SOLV_PROB_s

/-- The register maps of chapter 09. -/
def regSpecs09 : List RegSpec := [
  ⟨0x2000c00, 1088, 0x4000, 1, 0, 0x0, 0xf, 0x0, 0x0⟩,
  ⟨0x2000c08, 1088, 0x4000, 1, 0, 0x0, 0x0, 0x1000000000000, 0x0⟩,
  ⟨0x2000c10, 1088, 0x4000, 1, 0, 0x0, 0x0, 0x0, 0x0⟩,
  ⟨0x2000c18, 1088, 0x4000, 1, 0, 0x0, 0x0, 0x0, 0x0⟩,
  ⟨0x1800000, 1, 0x0, 1, 0, 0x0, 0x0, 0x0, 0x0⟩,
  ⟨0x1800008, 1, 0x0, 1, 0, 0x0, 0x1f, 0x0, 0x0⟩,
  ⟨0x1800010, 1, 0x0, 1, 0, 0x0, 0x0, 0xff, 0x0⟩,
  ⟨0x1800018, 1, 0x0, 1, 0, 0x0, 0x0, 0x0, 0x0⟩,
  ⟨0x1800100, 1, 0x0, 12, 8, 0x0, 0x0, 0x0, 0x0⟩,
  ⟨0x1800200, 1, 0x0, 12, 8, 0x0, 0x0, 0x1000000000000, 0x0⟩,
  ⟨0x1801000, 1, 0x0, 64, 8, 0x0, 0x0, 0x0, 0x0⟩ ]
-- TILE_SP_STATUS, TILE_SP_CE_COUNT, TILE_SP_UE_ADDR, TILE_SP_ROWS, BST_CONFIG, BST_STATUS, BST_FLUSH, BST_CACHE_CFG, BST_CHAN_c, BST_REFRESH_WAIT_c, BST_REGION_p

/-- The register maps of chapter 10. -/
def regSpecs10 : List RegSpec := [
  ⟨0x3800000, 1, 0x0, 1, 0, 0x3fff, 0x0, 0x0, 0x40⟩,
  ⟨0x3800008, 1, 0x0, 1, 0, 0x0, 0x1f, 0x0, 0x0⟩,
  ⟨0x3800010, 1, 0x0, 1, 0, 0x0, 0x0, 0x0, 0x0⟩,
  ⟨0x3800018, 1, 0x0, 1, 0, 0x0, 0x0, 0x1000000000000, 0x0⟩,
  ⟨0x3800020, 1, 0x0, 1, 0, 0x0, 0x0, 0x1000000000000, 0x0⟩,
  ⟨0x3800028, 1, 0x0, 1, 0, 0x0, 0x0, 0x1000000000000, 0x0⟩,
  ⟨0x3801000, 1, 0x0, 1135, 8, 0x0, 0x0, 0x0, 0x0⟩ ]
-- NOC_CTRL, NOC_STATUS, NOC_ERR_INFO, NOC_TIMEOUTS, NOC_STALE_DROPS, NOC_CE_COUNT, NOC_NI_s

/-- The register maps of chapter 11. -/
def regSpecs11 : List RegSpec := [
  ⟨0x1000000, 28, 0x10000, 1, 0, 0xfe, 0x0, 0x1, 0xcc⟩,
  ⟨0x1000008, 28, 0x10000, 1, 0, 0x0, 0x1f00000, 0x0, 0x0⟩,
  ⟨0x1000010, 28, 0x10000, 1, 0, 0x0, 0x0, 0x0, 0x0⟩,
  ⟨0x1000018, 28, 0x10000, 1, 0, 0x0, 0x0, 0x0, 0x0⟩,
  ⟨0x1000020, 28, 0x10000, 1, 0, 0x0, 0x0, 0x1000000000000, 0x0⟩,
  ⟨0x1000028, 28, 0x10000, 1, 0, 0x0, 0x0, 0x1000000000000, 0x0⟩,
  ⟨0x1000030, 28, 0x10000, 1, 0, 0x0, 0x0, 0x1000000000000, 0x0⟩,
  ⟨0x1000038, 28, 0x10000, 1, 0, 0x0, 0x0, 0x1000000000000, 0x0⟩,
  ⟨0x1000040, 28, 0x10000, 1, 0, 0x0, 0x0, 0x1000000000000, 0x0⟩,
  ⟨0x1000048, 28, 0x10000, 1, 0, 0x0, 0x0, 0x1000000000000, 0x0⟩,
  ⟨0x1000050, 28, 0x10000, 1, 0, 0x0, 0x0, 0x1000000000000, 0x0⟩ ]
-- LNK_CTRL, LNK_STATUS, LNK_PEER, LNK_LANES, LNK_FEC_CE, LNK_FEC_UE, LNK_CRC_ERR, LNK_REPLAYS, LNK_LOSSES, LNK_AUTH_FAIL, LNK_LATE_DROPS

/-- The register maps of chapter 12. -/
def regSpecs12 : List RegSpec := [
  ⟨0x100, 1, 0x0, 1, 0, 0x0, 0x0, 0x0, 0x0⟩,
  ⟨0x108, 1, 0x0, 1, 0, 0xffff0003, 0x0, 0x0, 0x7d00002⟩,
  ⟨0x110, 1, 0x0, 1, 0, 0x20000000000000, 0x1f000000000000, 0x0, 0x20000000000000⟩,
  ⟨0x200, 1, 0x0, 16, 8, 0x0, 0x0, 0x0, 0x0⟩,
  ⟨0x300, 1, 0x0, 18, 8, 0x0, 0x0, 0x0, 0x0⟩,
  ⟨0x118, 1, 0x0, 1, 0, 0x0, 0x0, 0x0, 0x0⟩ ]
-- GLB_LOC, GLB_CELL_CTRL, GLB_CELL_STATUS, GLB_RANK_r, GLB_ROUTE_s, GLB_UPLINK

/-- The register maps of chapter 13. -/
def regSpecs13 : List RegSpec := [
  ⟨0x2000a08, 1088, 0x4000, 1, 0, 0x0, 0x0, 0x7ffff, 0x0⟩,
  ⟨0x1400000, 1, 0x0, 1, 0, 0x1ffff, 0x0, 0x0, 0x100c8⟩,
  ⟨0x1400008, 1, 0x0, 1, 0, 0x0, 0x1f0000000000, 0x0, 0x0⟩,
  ⟨0x1400010, 1, 0x0, 1, 0, 0x0, 0x0, 0x0, 0x0⟩,
  ⟨0x1400018, 1, 0x0, 1, 0, 0x0, 0x0, 0x1000000000000, 0x0⟩,
  ⟨0x1400020, 1, 0x0, 1, 0, 0x0, 0x0, 0x1000000000000, 0x0⟩,
  ⟨0x1401000, 1, 0x0, 64, 8, 0x0, 0x0, 0x0, 0x0⟩,
  ⟨0x1402000, 1, 0x0, 64, 8, 0x0, 0x0, 0x1000000000000, 0x0⟩ ]
-- TILE_COLL_POST, COLL_CTRL, COLL_STATUS, COLL_FAULT_INFO, COLL_DONE, COLL_ABORTS, COLL_PART_p, COLL_WAIT_p

/-- The register maps of chapter 14. -/
def regSpecs14 : List RegSpec := [
  ⟨0x2000a10, 1088, 0x4000, 1, 0, 0x0, 0x0, 0x7ffff, 0x0⟩,
  ⟨0x102000, 1, 0x0, 64, 8, 0x0, 0x200000000, 0x0, 0x0⟩ ]
-- TILE_WORK_POST, IMG_DISP_p

/-- The register maps of chapter 15. -/
def regSpecs15 : List RegSpec := [
  ⟨0x2000a18, 1088, 0x4000, 1, 0, 0x0, 0x0, 0x0, 0x0⟩,
  ⟨0x2000a20, 1088, 0x4000, 1, 0, 0x0, 0x0, 0x1, 0x0⟩,
  ⟨0x2000a28, 1088, 0x4000, 1, 0, 0x0, 0x0, 0x7ffff, 0x0⟩,
  ⟨0x103000, 1, 0x0, 64, 8, 0xffffffffffffffff, 0x0, 0x0, 0x0⟩,
  ⟨0x103400, 1, 0x0, 64, 8, 0x8, 0x1e0000, 0x0, 0x0⟩,
  ⟨0x103800, 1, 0x0, 64, 8, 0x0, 0x0, 0x1000000000000, 0x0⟩ ]
-- TILE_STEP, TILE_STEP_ADV, TILE_DIG_POST, IMG_STEP_p, IMG_AUDIT_p, IMG_CLKLOW_p

/-- The register maps of chapter 16. -/
def regSpecs16 : List RegSpec := [
  ⟨0x200000, 1, 0x0, 1, 0, 0x1fff, 0x0, 0x0, 0x1450⟩,
  ⟨0x200008, 1, 0x0, 1, 0, 0x0, 0x0, 0x0, 0x0⟩,
  ⟨0x200010, 1, 0x0, 1, 0, 0x800000, 0x7f0000, 0x0, 0x800000⟩,
  ⟨0x200018, 1, 0x0, 1, 0, 0x0, 0x1, 0x0, 0x0⟩,
  ⟨0x200020, 1, 0x0, 1, 0, 0xffffffff01ffffff, 0x0, 0x0, 0x140a000a010a03e8⟩,
  ⟨0x200028, 1, 0x0, 1, 0, 0xffffffffffffff00, 0x0, 0x0, 0xe0c0a08060402000⟩,
  ⟨0x200030, 1, 0x0, 1, 0, 0x3, 0x0, 0x1c, 0x2⟩,
  ⟨0x200038, 1, 0x0, 1, 0, 0x0, 0x0, 0x0, 0x0⟩,
  ⟨0x200040, 1, 0x0, 1, 0, 0x0, 0x3f, 0x0, 0x0⟩,
  ⟨0x200048, 1, 0x0, 1, 0, 0xffffffffffffffff, 0x0, 0x0, 0x0⟩,
  ⟨0x200100, 1, 0x0, 30, 8, 0x8, 0x10, 0x0, 0x8⟩,
  ⟨0x201000, 1, 0x0, 64, 8, 0xf0, 0x0, 0x0, 0xf0⟩ ]
-- PWR_CAP, PWR_BOARD, PWR_STATUS, PWR_THERM, PWR_CTRL, PWR_ECLASS, PWR_SLEEP, PWR_LTR, PWR_WAKE_CAUSE, PWR_WAKE_TIME, PWR_DOM_n, PWR_PART_p

/-- The register maps of chapter 17. -/
def regSpecs17 : List RegSpec := [
  ⟨0x300000, 1, 0x0, 1, 0, 0x0, 0x0, 0x0, 0x0⟩,
  ⟨0x300008, 1, 0x0, 1, 0, 0x0, 0x10000, 0x0, 0x0⟩,
  ⟨0x300010, 1, 0x0, 1, 0, 0x0, 0x0, 0x3, 0x0⟩,
  ⟨0x300018, 1, 0x0, 1, 0, 0x0, 0x0, 0xffffffff, 0x0⟩,
  ⟨0x300020, 1, 0x0, 1, 0, 0xffff000f, 0x0, 0x0, 0x0⟩,
  ⟨0x300028, 1, 0x0, 1, 0, 0xff01, 0x4, 0x2, 0xa01⟩,
  ⟨0x300030, 1, 0x0, 1, 0, 0x0, 0x0, 0x0, 0x0⟩,
  ⟨0x300038, 1, 0x0, 1, 0, 0x1, 0x0, 0x0, 0x0⟩,
  ⟨0x300040, 1, 0x0, 1, 0, 0x0, 0x1fffffffffff, 0x0, 0x0⟩,
  ⟨0x300100, 1, 0x0, 16, 8, 0x0, 0x0, 0x0, 0x0⟩ ]
-- CLK_TICK, CLK_STATUS, CLK_RESET, CLK_UNIT_RESET, CLK_RESET_CAUSE, CLK_WDOG, CLK_BOOT, CLK_BOOT_CTRL, CLK_STOPPED, CLK_BOOT_STEP_n

/-- The register maps of chapter 18. -/
def regSpecs18 : List RegSpec := [
  ⟨0x1000, 1, 0x0, 1, 0, 0xffff, 0x0, 0x0, 0x3e8⟩,
  ⟨0x1008, 1, 0x0, 1, 0, 0x0, 0xf0000, 0x0, 0x0⟩,
  ⟨0x1010, 1, 0x0, 1, 0, 0x7f, 0x0, 0x0, 0x0⟩,
  ⟨0x1018, 1, 0x0, 1, 0, 0x7ff, 0x0, 0x0, 0x7ff⟩,
  ⟨0x2000a30, 1088, 0x4000, 1, 0, 0x0, 0x0, 0x1f, 0x0⟩,
  ⟨0x500000, 1, 0x0, 1, 0, 0x0, 0x0, 0x0, 0x0⟩,
  ⟨0x400000, 1, 0x0, 1, 0, 0x0, 0x0, 0x0, 0x0⟩,
  ⟨0x401000, 1, 0x0, 65, 8, 0x0, 0x4, 0x2, 0x0⟩ ]
-- GLB_HOST_CTRL, GLB_HOST_STATUS, GLB_BAR2_BST, GLB_PKG_VEC, TILE_HOST_IRQ, MGT_VDM_ID, SEC_STATUS, SEC_KEY_s

/-- The register maps of chapter 19. -/
def regSpecs19 : List RegSpec := [
  ⟨0x600000, 1, 0x0, 1, 0, 0x0, 0x3f, 0x0, 0x0⟩,
  ⟨0x600008, 1, 0x0, 1, 0, 0x1f, 0x0, 0x0, 0xe⟩,
  ⟨0x600010, 1, 0x0, 1, 0, 0x0, 0x0, 0x3, 0x0⟩,
  ⟨0x600018, 1, 0x0, 1, 0, 0x0, 0x0, 0x1000000000000, 0x0⟩,
  ⟨0x600020, 1, 0x0, 4, 8, 0x0, 0x0, 0x1000000000000, 0x0⟩,
  ⟨0x600040, 1, 0x0, 1, 0, 0x0, 0x0, 0x0, 0x0⟩,
  ⟨0x601000, 1, 0x0, 1024, 8, 0x0, 0x0, 0x0, 0x0⟩ ]
-- ERR_STATUS, ERR_CTRL, ERR_LOG_POP, ERR_LOST, ERR_COUNT_s, ERR_SUMMARY, ERR_LOG_i_w

/-- The register maps of chapter 20. -/
def regSpecs20 : List RegSpec := [
  ⟨0x1020, 1, 0x0, 1, 0, 0x0, 0x10000, 0x0, 0x0⟩ ]
-- GLB_PINS

/-- Every register map of BAR0. -/
def regSpecs : List RegSpec :=
  regSpecs00 ++ regSpecs02 ++ regSpecs03 ++ regSpecs04 ++ regSpecs05 ++ regSpecs06 ++ regSpecs07 ++ regSpecs08 ++ regSpecs09 ++ regSpecs10 ++ regSpecs11 ++ regSpecs12 ++ regSpecs13 ++ regSpecs14 ++ regSpecs15 ++ regSpecs16 ++ regSpecs17 ++ regSpecs18 ++ regSpecs19 ++ regSpecs20

/-- The offset of GLB_DEVICE_ID. -/
def aGlbDeviceId : Nat := 0x0

/-- The offset of IMG_VERSION_CAP. -/
def aImgVersionCap : Nat := 0x100000

/-- The offset of IMG_CTRL. -/
def aImgCtrl : Nat := 0x100008

/-- The offset of IMG_SRC_ADDR. -/
def aImgSrcAddr : Nat := 0x100010

/-- The offset of IMG_LEN. -/
def aImgLen : Nat := 0x100018

/-- The offset of IMG_STATUS. -/
def aImgStatus : Nat := 0x100020

/-- The offset of IMG_ACTIVE. -/
def aImgActive : Nat := 0x100028

/-- The offset of IMG_PART_p. -/
def aImgPart (k : Nat) : Nat := 0x101000 + 8 * k

/-- The offset of TILE_CVT. -/
def aTileCvt (t : Nat) : Nat := 0x2000100 + 0x4000 * t

/-- The offset of TILE_CVT_STATUS. -/
def aTileCvtStatus (t : Nat) : Nat := 0x2000108 + 0x4000 * t

/-- The offset of TILE_SAT_COUNT. -/
def aTileSatCount (t : Nat) : Nat := 0x2000110 + 0x4000 * t

/-- The offset of TILE_MX_STATUS. -/
def aTileMxStatus (t : Nat) : Nat := 0x2000200 + 0x4000 * t

/-- The offset of TILE_MX_BUSY. -/
def aTileMxBusy (t : Nat) : Nat := 0x2000208 + 0x4000 * t

/-- The offset of TILE_MX_STALL. -/
def aTileMxStall (t : Nat) : Nat := 0x2000210 + 0x4000 * t

/-- The offset of TILE_MX_RNG. -/
def aTileMxRng (t : Nat) : Nat := 0x2000218 + 0x4000 * t

/-- The offset of ACC_STATUS. -/
def aAccStatus (t : Nat) : Nat := 0x2000300 + 0x4000 * t

/-- The offset of ACC_FAULT_INFO. -/
def aAccFaultInfo (t : Nat) : Nat := 0x2000308 + 0x4000 * t

/-- The offset of ACC_SLOT_FREE. -/
def aAccSlotFree (t : Nat) : Nat := 0x2000310 + 0x4000 * t

/-- The offset of ACC_SLOT_s. -/
def aAccSlot (t : Nat) (s : Nat) : Nat := 0x2000400 + 0x4000 * t + 8 * s

/-- The offset of STRM_STATUS. -/
def aStrmStatus (t : Nat) : Nat := 0x2000600 + 0x4000 * t

/-- The offset of STRM_FAULT_INFO. -/
def aStrmFaultInfo (t : Nat) : Nat := 0x2000608 + 0x4000 * t

/-- The offset of STRM_BUSY. -/
def aStrmBusy (t : Nat) : Nat := 0x2000610 + 0x4000 * t

/-- The offset of STRM_STALL. -/
def aStrmStall (t : Nat) : Nat := 0x2000618 + 0x4000 * t

/-- The offset of TILE_CORE_STATUS. -/
def aTileCoreStatus (t : Nat) : Nat := 0x2000800 + 0x4000 * t

/-- The offset of TILE_EPC. -/
def aTileEpc (t : Nat) : Nat := 0x2000808 + 0x4000 * t

/-- The offset of TILE_ECAUSE. -/
def aTileEcause (t : Nat) : Nat := 0x2000810 + 0x4000 * t

/-- The offset of TILE_EVAL. -/
def aTileEval (t : Nat) : Nat := 0x2000818 + 0x4000 * t

/-- The offset of TILE_EVEC. -/
def aTileEvec (t : Nat) : Nat := 0x2000820 + 0x4000 * t

/-- The offset of VX_RESUME. -/
def aVxResume (t : Nat) : Nat := 0x2000828 + 0x4000 * t

/-- The offset of VX_STATUS. -/
def aVxStatus (t : Nat) : Nat := 0x2000830 + 0x4000 * t

/-- The offset of TILE_SOLV_POST. -/
def aTileSolvPost (t : Nat) : Nat := 0x2000a00 + 0x4000 * t

/-- The offset of SOLV_STATUS. -/
def aSolvStatus (d : Nat) : Nat := 0x1c00000 + 0x40000 * d

/-- The offset of SOLV_FAULT_INFO. -/
def aSolvFaultInfo (d : Nat) : Nat := 0x1c00008 + 0x40000 * d

/-- The offset of SOLV_SOLVES. -/
def aSolvSolves (d : Nat) : Nat := 0x1c00010 + 0x40000 * d

/-- The offset of SOLV_SHIFTS. -/
def aSolvShifts (d : Nat) : Nat := 0x1c00018 + 0x40000 * d

/-- The offset of SOLV_PROB_s. -/
def aSolvProb (d : Nat) (s : Nat) : Nat := 0x1c01000 + 0x40000 * d + 8 * s

/-- The offset of TILE_SP_STATUS. -/
def aTileSpStatus (t : Nat) : Nat := 0x2000c00 + 0x4000 * t

/-- The offset of TILE_SP_CE_COUNT. -/
def aTileSpCeCount (t : Nat) : Nat := 0x2000c08 + 0x4000 * t

/-- The offset of TILE_SP_UE_ADDR. -/
def aTileSpUeAddr (t : Nat) : Nat := 0x2000c10 + 0x4000 * t

/-- The offset of TILE_SP_ROWS. -/
def aTileSpRows (t : Nat) : Nat := 0x2000c18 + 0x4000 * t

/-- The offset of BST_CONFIG. -/
def aBstConfig : Nat := 0x1800000

/-- The offset of BST_STATUS. -/
def aBstStatus : Nat := 0x1800008

/-- The offset of BST_FLUSH. -/
def aBstFlush : Nat := 0x1800010

/-- The offset of BST_CACHE_CFG. -/
def aBstCacheCfg : Nat := 0x1800018

/-- The offset of BST_CHAN_c. -/
def aBstChan (k : Nat) : Nat := 0x1800100 + 8 * k

/-- The offset of BST_REFRESH_WAIT_c. -/
def aBstRefreshWait (k : Nat) : Nat := 0x1800200 + 8 * k

/-- The offset of BST_REGION_p. -/
def aBstRegion (k : Nat) : Nat := 0x1801000 + 8 * k

/-- The offset of NOC_CTRL. -/
def aNocCtrl : Nat := 0x3800000

/-- The offset of NOC_STATUS. -/
def aNocStatus : Nat := 0x3800008

/-- The offset of NOC_ERR_INFO. -/
def aNocErrInfo : Nat := 0x3800010

/-- The offset of NOC_TIMEOUTS. -/
def aNocTimeouts : Nat := 0x3800018

/-- The offset of NOC_STALE_DROPS. -/
def aNocStaleDrops : Nat := 0x3800020

/-- The offset of NOC_CE_COUNT. -/
def aNocCeCount : Nat := 0x3800028

/-- The offset of NOC_NI_s. -/
def aNocNi (k : Nat) : Nat := 0x3801000 + 8 * k

/-- The offset of LNK_CTRL. -/
def aLnkCtrl (n : Nat) : Nat := 0x1000000 + 0x10000 * n

/-- The offset of LNK_STATUS. -/
def aLnkStatus (n : Nat) : Nat := 0x1000008 + 0x10000 * n

/-- The offset of LNK_PEER. -/
def aLnkPeer (n : Nat) : Nat := 0x1000010 + 0x10000 * n

/-- The offset of LNK_LANES. -/
def aLnkLanes (n : Nat) : Nat := 0x1000018 + 0x10000 * n

/-- The offset of LNK_FEC_CE. -/
def aLnkFecCe (n : Nat) : Nat := 0x1000020 + 0x10000 * n

/-- The offset of LNK_FEC_UE. -/
def aLnkFecUe (n : Nat) : Nat := 0x1000028 + 0x10000 * n

/-- The offset of LNK_CRC_ERR. -/
def aLnkCrcErr (n : Nat) : Nat := 0x1000030 + 0x10000 * n

/-- The offset of LNK_REPLAYS. -/
def aLnkReplays (n : Nat) : Nat := 0x1000038 + 0x10000 * n

/-- The offset of LNK_LOSSES. -/
def aLnkLosses (n : Nat) : Nat := 0x1000040 + 0x10000 * n

/-- The offset of LNK_AUTH_FAIL. -/
def aLnkAuthFail (n : Nat) : Nat := 0x1000048 + 0x10000 * n

/-- The offset of LNK_LATE_DROPS. -/
def aLnkLateDrops (n : Nat) : Nat := 0x1000050 + 0x10000 * n

/-- The offset of GLB_LOC. -/
def aGlbLoc : Nat := 0x100

/-- The offset of GLB_CELL_CTRL. -/
def aGlbCellCtrl : Nat := 0x108

/-- The offset of GLB_CELL_STATUS. -/
def aGlbCellStatus : Nat := 0x110

/-- The offset of GLB_RANK_r. -/
def aGlbRank (k : Nat) : Nat := 0x200 + 8 * k

/-- The offset of GLB_ROUTE_s. -/
def aGlbRoute (k : Nat) : Nat := 0x300 + 8 * k

/-- The offset of GLB_UPLINK. -/
def aGlbUplink : Nat := 0x118

/-- The offset of TILE_COLL_POST. -/
def aTileCollPost (t : Nat) : Nat := 0x2000a08 + 0x4000 * t

/-- The offset of COLL_CTRL. -/
def aCollCtrl : Nat := 0x1400000

/-- The offset of COLL_STATUS. -/
def aCollStatus : Nat := 0x1400008

/-- The offset of COLL_FAULT_INFO. -/
def aCollFaultInfo : Nat := 0x1400010

/-- The offset of COLL_DONE. -/
def aCollDone : Nat := 0x1400018

/-- The offset of COLL_ABORTS. -/
def aCollAborts : Nat := 0x1400020

/-- The offset of COLL_PART_p. -/
def aCollPart (k : Nat) : Nat := 0x1401000 + 8 * k

/-- The offset of COLL_WAIT_p. -/
def aCollWait (k : Nat) : Nat := 0x1402000 + 8 * k

/-- The offset of TILE_WORK_POST. -/
def aTileWorkPost (t : Nat) : Nat := 0x2000a10 + 0x4000 * t

/-- The offset of IMG_DISP_p. -/
def aImgDisp (k : Nat) : Nat := 0x102000 + 8 * k

/-- The offset of TILE_STEP. -/
def aTileStep (t : Nat) : Nat := 0x2000a18 + 0x4000 * t

/-- The offset of TILE_STEP_ADV. -/
def aTileStepAdv (t : Nat) : Nat := 0x2000a20 + 0x4000 * t

/-- The offset of TILE_DIG_POST. -/
def aTileDigPost (t : Nat) : Nat := 0x2000a28 + 0x4000 * t

/-- The offset of IMG_STEP_p. -/
def aImgStep (k : Nat) : Nat := 0x103000 + 8 * k

/-- The offset of IMG_AUDIT_p. -/
def aImgAudit (k : Nat) : Nat := 0x103400 + 8 * k

/-- The offset of IMG_CLKLOW_p. -/
def aImgClklow (k : Nat) : Nat := 0x103800 + 8 * k

/-- The offset of PWR_CAP. -/
def aPwrCap : Nat := 0x200000

/-- The offset of PWR_BOARD. -/
def aPwrBoard : Nat := 0x200008

/-- The offset of PWR_STATUS. -/
def aPwrStatus : Nat := 0x200010

/-- The offset of PWR_THERM. -/
def aPwrTherm : Nat := 0x200018

/-- The offset of PWR_CTRL. -/
def aPwrCtrl : Nat := 0x200020

/-- The offset of PWR_ECLASS. -/
def aPwrEclass : Nat := 0x200028

/-- The offset of PWR_SLEEP. -/
def aPwrSleep : Nat := 0x200030

/-- The offset of PWR_LTR. -/
def aPwrLtr : Nat := 0x200038

/-- The offset of PWR_WAKE_CAUSE. -/
def aPwrWakeCause : Nat := 0x200040

/-- The offset of PWR_WAKE_TIME. -/
def aPwrWakeTime : Nat := 0x200048

/-- The offset of PWR_DOM_n. -/
def aPwrDom (k : Nat) : Nat := 0x200100 + 8 * k

/-- The offset of PWR_PART_p. -/
def aPwrPart (k : Nat) : Nat := 0x201000 + 8 * k

/-- The offset of CLK_TICK. -/
def aClkTick : Nat := 0x300000

/-- The offset of CLK_STATUS. -/
def aClkStatus : Nat := 0x300008

/-- The offset of CLK_RESET. -/
def aClkReset : Nat := 0x300010

/-- The offset of CLK_UNIT_RESET. -/
def aClkUnitReset : Nat := 0x300018

/-- The offset of CLK_RESET_CAUSE. -/
def aClkResetCause : Nat := 0x300020

/-- The offset of CLK_WDOG. -/
def aClkWdog : Nat := 0x300028

/-- The offset of CLK_BOOT. -/
def aClkBoot : Nat := 0x300030

/-- The offset of CLK_BOOT_CTRL. -/
def aClkBootCtrl : Nat := 0x300038

/-- The offset of CLK_STOPPED. -/
def aClkStopped : Nat := 0x300040

/-- The offset of CLK_BOOT_STEP_n. -/
def aClkBootStep (k : Nat) : Nat := 0x300100 + 8 * (k - 1)

/-- The offset of GLB_HOST_CTRL. -/
def aGlbHostCtrl : Nat := 0x1000

/-- The offset of GLB_HOST_STATUS. -/
def aGlbHostStatus : Nat := 0x1008

/-- The offset of GLB_BAR2_BST. -/
def aGlbBar2Bst : Nat := 0x1010

/-- The offset of GLB_PKG_VEC. -/
def aGlbPkgVec : Nat := 0x1018

/-- The offset of TILE_HOST_IRQ. -/
def aTileHostIrq (t : Nat) : Nat := 0x2000a30 + 0x4000 * t

/-- The offset of MGT_VDM_ID. -/
def aMgtVdmId : Nat := 0x500000

/-- The offset of SEC_STATUS. -/
def aSecStatus : Nat := 0x400000

/-- The offset of SEC_KEY_s. -/
def aSecKey (k : Nat) : Nat := 0x401000 + 8 * k

/-- The offset of ERR_STATUS. -/
def aErrStatus : Nat := 0x600000

/-- The offset of ERR_CTRL. -/
def aErrCtrl : Nat := 0x600008

/-- The offset of ERR_LOG_POP. -/
def aErrLogPop : Nat := 0x600010

/-- The offset of ERR_LOST. -/
def aErrLost : Nat := 0x600018

/-- The offset of ERR_COUNT_s. -/
def aErrCount (k : Nat) : Nat := 0x600020 + 8 * k

/-- The offset of ERR_SUMMARY. -/
def aErrSummary : Nat := 0x600040

/-- The offset of ERR_LOG_i_w. -/
def aErrLog (i w : Nat) : Nat := 0x601000 + 32 * i + 8 * w

/-- The offset of GLB_PINS. -/
def aGlbPins : Nat := 0x1020

/-- The offset lies on a register of the map. -/
def RegSpec.hits (r : RegSpec) (off : Nat) : Bool :=
  decide (r.base ≤ off) &&
  (let d := off - r.base
   let i := if r.instStride = 0 then 0 else d / r.instStride
   let j := if r.instStride = 0 then d else d % r.instStride
   decide (i < r.insts) &&
   (if r.stride = 0 then decide (j = 0) else decide (j % r.stride = 0) && decide (j / r.stride < r.count)))

/-- The map that holds the register at `off`; the instances of unused tiles hold only the scratchpad registers (R40). -/
def regSpecAt (off : Nat) : Option RegSpec :=
  if 0x3000000 ≤ off ∧ off < 0x3110000 ∧ ¬ (0xc00 ≤ off % 0x4000 ∧ off % 0x4000 ≤ 0xc18) then none
  else regSpecs.find? (fun r => r.hits off)

/-- The stored word of a register after reset (R17). -/
def regReset (off : Nat) : Word :=
  match regSpecAt off with
  | some r => BitVec.ofNat 64 r.reset
  | none => 0

/-- A saturating counter: a register whose bit 48 is CLEAR (R109, R110). -/
def RegSpec.isCounter (r : RegSpec) : Bool := r.wo = 0x1000000000000

end Sys2Proof.Machine
end

