-- ==== Sys2Proof/Machine/State.lean ====
section
/-!
DEFINITION. Machine/State.lean: the state of the block, plain data, and the state after a power-on cold reset. The stored fields of registers are in
`State.regs`; everything that is not a stored register field has a field of its own here.
-/
namespace Sys2Proof.Machine

/-- Why the block stops with a fault. -/
inductive Fault where
  /-- No command raises it: every failure the spec describes is a response code, a status bit and a log record (19). Safe. -/
  | none
deriving DecidableEq, Repr

/-- Why a command is refused. -/
inductive Refusal where
  /-- Raised by an arm of `exec` whose command has no meaning yet. Safe: nothing is claimed of the command. -/
  | notModelled (mnemonic : String)
deriving DecidableEq, Repr

/-! ### Control core, engines and accumulator file of a tile -/

/-- Whether and how the control core runs (R228, R240, HALTED of TILE_CORE_STATUS). -/
inductive CoreRun where
  /-- before RUN -/
  | idle
  | running
  /-- at WNEXT; the argument of the next item goes to general register `d` -/
  | waiting (d : GReg)
  /-- halted at WNEXT after STOP -/
  | stopped
  /-- after a double fault -/
  | dead
deriving DecidableEq, Repr, Inhabited

/-- A line of the instruction cache: its number in working memory and its bytes as filled (R217). -/
structure IcLine where
  line : Nat := 0
  bytes : List Byte := []
deriving DecidableEq, Repr, Inhabited

/-- A work item (R458); `seq` orders the items of a partition by their posting (R461); `got` lists the tiles, by index, that were given it, newest first, and `rcvd` those that have
received it (R460); `gateDone` says that its gate's collective ran or ended since it was queued (R463). -/
structure Item where
  entry : Word := 0
  arg : Word := 0
  deferred : Bool := false
  eclass : Nat := 0
  gate : Bool := false
  fill : Nat := 0
  target : Option Nat := none
  ctag : Nat := 0
  seq : Nat := 0
  got : List Nat := []
  rcvd : List Nat := []
  gateDone : Bool := false
deriving DecidableEq, Repr, Inhabited

/-- A SYSW to TILE_WORK_POST that stalls its core (R459): the offset of the record, and whether the dispatcher has answered. -/
structure WorkPostSt where
  off : Nat := 0
  answered : Bool := false
deriving DecidableEq, Repr, Inhabited

/-- The control core of a tile (R211, R216, R217, R227, R609). Unlisted registers hold 0. -/
structure CoreSt where
  g : Tab Word := []
  pc : Word := 0
  v : Tab (BitVec 512) := []
  vm : Tab Word := []
  run : CoreRun := .idle
  /-- inside a work item, and its energy class; the code from ENTRY to the first WNEXT has class 0 -/
  item : Option Nat := none
  icache : Tab (List IcLine) := []
  /-- RETX was the last instruction to issue (R238) -/
  resumed : Bool := false
  /-- the word of the instruction that issued last, and whether it may have been the second of a pair (R222); none from ENTRY and from the handler's first instruction on -/
  last : Option (BitVec 32) := none
  pair : Bool := false
  post : Option WorkPostSt := none
  /-- the item on its way from the dispatcher (R228) -/
  given : Option Item := none
  /-- the partition-watchdog count in ticks (R609) -/
  wdog : Nat := 0
  /-- the last 64 matrix and stream descriptors the core issued, newest first, with the codes of those complete (R227) -/
  mxCodes : List (Nat × Option Byte) := []
  stCodes : List (Nat × Option Byte) := []
deriving DecidableEq, Repr, Inhabited

/-- A matrix descriptor in the queue (R117) with what held at its issue (R108, R119, R473). -/
structure MxEntry where
  w0 : Word := 0
  w1 : Word := 0
  seq : Nat := 0
  cvt : Word := 0
  rng : Word := 0
  step : Word := 0
  /-- the completion code of a descriptor that is not executed (R634) -/
  skip : Option Byte := none
  /-- a solver sequencer's descriptor: its die and the command that it belongs to (R126, R283) -/
  solv : Option (Nat × Nat) := none
deriving DecidableEq, Repr, Inhabited

/-- A half of the operand buffer (R123): a strip of A or a block of B, its chunk, its first row, and its eight rows of one chunk in operand format. -/
structure OpHalf where
  chunk : Nat := 0
  row : Nat := 0
  vals : List (List Val) := []
deriving DecidableEq, Repr, Inhabited

/-- The matrix descriptor that executes: the next chunk, the rows of A and B that met poison (R122, R130), and the halves of the operand buffer for A strips and
B blocks, the newest last (R123). -/
structure MxRun where
  chunk : Nat := 0
  poisonA : List Nat := []
  poisonB : List Nat := []
  bufA : List OpHalf := []
  bufB : List OpHalf := []
deriving DecidableEq, Repr, Inhabited

/-- A binding of an accumulator slot (R145). -/
structure SlotBind where
  afmt : Nat := 0
  mb : Nat := 0
  nb : Nat := 0
deriving DecidableEq, Repr, Inhabited

/-- An operation in slot order that is not complete (R165): a matrix descriptor with its binding, a stream read, or a free. -/
inductive SlotOp where
  | mx (seq : Nat) (b : SlotBind)
  | rd (seq : Nat)
  | free
deriving DecidableEq, Repr, Inhabited

/-- An accumulator slot (R143 to R163): its binding in effect, the totals and compensation terms by element (unlisted: zero), its status bits and its order;
`held` says that the content is poisoned, which POISON shows until a later descriptor with ACC = 0 takes its place (R162, R163, R168). -/
structure AccSlot where
  bind : Option SlotBind := none
  tot : Tab Nat := []
  comp : Tab Nat := []
  isat : Bool := false
  poison : Bool := false
  inf : Bool := false
  held : Bool := false
  order : List SlotOp := []
  /-- the die and the command of the solver sequencer that bound the slot (R283) -/
  owner : Option (Nat × Nat) := none
deriving DecidableEq, Repr, Inhabited

/-- A stream descriptor in the queue (R174) with its chain block and what held at its issue (R176). -/
structure StEntry where
  ws : List Word := []
  chain : List Byte := []
  /-- the constants in the working precision -/
  consts : List Nat := []
  seq : Nat := 0
  cvt : Word := 0
  step : Word := 0
  /-- the completion code of a descriptor that is not executed (R635), CAUSE and STREAM of its STRM_FAULT_INFO (cause 0: none), and FMT_FAULT -/
  skip : Option Byte := none
  cause : Nat := 0
  stream : Nat := 7
  fmtFault : Bool := false
  /-- the content of the slot that the descriptor reads, as it stood at the first access (R168) -/
  slot : Option AccSlot := none
  /-- a solver sequencer's descriptor: its die and the command that it belongs to, and whether it writes the converted copy of a result (R202, R282, R283) -/
  solv : Option (Nat × Nat) := none
  conv : Bool := false
deriving DecidableEq, Repr, Inhabited

/-- What belongs to one logical tile and is not a stored register field. -/
structure TileSt where
  core : CoreSt := {}
  mxq : List MxEntry := []
  mxRun : Option MxRun := none
  mxSeq : Nat := 1
  stq : List StEntry := []
  stRun : Bool := false
  stSeq : Nat := 1
  acc : Tab AccSlot := []
  /-- the step view (R473) -/
  step : Word := 0
  /-- corrections of each row since start-up, by tier * 2048 + row, and the rows recorded, oldest first (R305) -/
  rowCorr : Tab Nat := []
  rows : List Nat := []
  /-- the next granule of the patrol scrub, and the word it may write back (R303) -/
  scrubPos : Nat := 0
  scrubFix : List Nat := []
  /-- the accumulators of R496 and R498 -/
  phaseAcc : Nat := 0
  dutyAcc : Nat := 0
deriving DecidableEq, Repr, Inhabited

/-! ### Scratchpad and board store -/

/-- The check state of a scratchpad word that is not clean (R300, R301, R601). -/
inductive EccState where
  | single
  | bad
  | marked
deriving DecidableEq, Repr, Inhabited

/-- The state of a board-store channel (BST_CHAN_c). -/
inductive ChanState where
  | absent | trained | failed | training
deriving DecidableEq, Repr, Inhabited

/-- A burst that failed its EDC check and waits for the next refresh window (R312): its request, the data of a write, the attempts so far, and the
channel's epoch when the request was accepted (R343). -/
structure BurstRetry where
  q : Packet := {}
  data : List Byte := []
  write : Bool := false
  tries : Nat := 1
  epoch : Nat := 0
deriving DecidableEq, Repr, Inhabited

/-- A board-store channel. -/
structure ChanSt where
  st : ChanState := .absent
  hot : Bool := false
  failStep : Nat := 0
  retry : List BurstRetry := []
  /-- the checks of the next bursts that the model carries out within one command (log entry 17); none listed: they pass -/
  edc : List Bool := []
deriving DecidableEq, Repr, Inhabited

/-- One way of a cache set (R316, R320, R321). -/
structure Way where
  line : Nat := 0
  dirty : Bool := false
  pinned : Bool := false
deriving DecidableEq, Repr, Inhabited

/-- A cache set: its valid ways by number, and the ways from most to least recently used. -/
structure CacheSet where
  ways : Tab Way := []
  order : List Nat := []
deriving DecidableEq, Repr, Inhabited

/-- The board store (R306 to R326): configuration, channels, ciphertext by device byte address (unlisted: unspecified, R517, R548), lost writes, cache sets, the flush in progress, and self-refresh. -/
structure BstSt where
  present : Nat := 0
  density : Nat := 0
  clamshell : Bool := false
  chans : Tab ChanSt := []
  dev : List Host.Cell := []
  /-- which unspecified contents an unlisted device byte holds (R517, R548) -/
  devGen : Nat := 0
  lost : List Nat := []
  units : Nat := 0
  sets : Tab CacheSet := []
  /-- regions: partition, first set, number of sets (R317) -/
  regions : List (Nat × Nat × Nat) := []
  /-- the sets of the pool as numbered by the last full load, and those freed since (R317) -/
  poolBase : Nat := 0
  poolSize : Nat := 0
  flush : Option (Option Nat) := none
  selfRefresh : Bool := false
deriving DecidableEq, Repr, Inhabited

/-! ### Images and partitions -/

/-- The state of the image controller (IMG_STATUS.STATE). -/
inductive ImgPhase where
  | idle | verify | apply | done | rejected
deriving DecidableEq, Repr, Inhabited

/-- The state of a partition (IMG_PART_p.STATE). -/
inductive PState where
  | empty | loading | stopped | running | suspended | faulted
deriving DecidableEq, Repr, Inhabited

/-- A partition record (R52). -/
structure PartRec where
  action : Nat := 0
  mode : Nat := 0
  audit : Nat := 0
  priority : Nat := 0
  shapeGroup : Nat := 0
  keyId : Nat := 0
  hostWindow : Nat := 0
  eclassMask : Nat := 0
  collUnits : Nat := 0
  keepQuota : Nat := 0
  solverSlots : List Nat := []
  wdogMs : Nat := 0
  powerShare : Nat := 0
  bstBase : Nat := 0
  bstSize : Nat := 0
  portMask : Nat := 0
  peerMask : Nat := 0
  /-- the tiles of the map, ascending -/
  tiles : List Nat := []
  /-- every reserved byte is zero -/
  resvOk : Bool := true
deriving DecidableEq, Repr, Inhabited

/-- A partition: state, record, program, seeds, queues of its dispatcher and weight slots. -/
structure PartSt where
  st : PState := .empty
  cause : Nat := 0
  prec : PartRec := {}
  entry : Nat := 0
  handler : Nat := 0
  progDigest : List Byte := []
  seedDigest : List Byte := []
  seeds : Option (List (List Byte)) := none
  step0 : Nat := 0
  stopping : Bool := false
  /-- suspended by the power manager (R511), by HALT_N (R625), by the wake of a domain or sleep -/
  suspPower : Bool := false
  suspHalt : Bool := false
  nq : List Item := []
  dq : List Item := []
  /-- DEFERRED items already given to a tile, by index, before its next NORMAL item (R462) -/
  filled : Tab Nat := []
  wslots : Tab (List Byte) := []
  digSeq : Nat := 1
deriving DecidableEq, Repr, Inhabited

/-- A load: the image's bytes as the verify pass reads them, whether it comes from boot flash, and whether a read failed (R50, R60). -/
structure ImgSt where
  phase : ImgPhase := .idle
  img : List Byte := []
  flash : Bool := false
  srcErr : Bool := false
  /-- IMG_LEN as it stood at START -/
  len : Nat := 0
  section_ : Nat := 0
  reason : Nat := 0
deriving DecidableEq, Repr, Inhabited

/-- A post on its way from a tile to a shared engine (R249, R422, R479): the system register decides which. -/
inductive PostKind where
  | solv | coll | dig
deriving DecidableEq, Repr, Inhabited

/-- A post: the tile, the block's offset, the die a solver post names, the step view at the post (R473, R483), and the TXID of its POST once the tile's NI has
sent it (R332, R340). -/
structure Post where
  tile : Nat := 0
  kind : PostKind := .solv
  off : Nat := 0
  die : Nat := 0
  step : Word := 0
  txid : Option Nat := none
deriving DecidableEq, Repr, Inhabited

/-! ### Network, domains and unit resets -/

/-- What a response to an entry is for, beside its requester's own use: a read of a GATHER_DEMAND of a partition, by its sequence number, from a member, with its
destination address (R442);
a READY, data, DONE or ABORT of a partition's collective, by its sequence number, to a member (R446); a request received over the port's link, whether the link
has been lost since (R384), the station and TXID that its response goes to, and the presence epoch in which it came (R380); the access of a stream descriptor, by
its sequence number, that was deferred, with the element and the stream that it serves (R198); a tile's post; a BAR0 or BAR2 access of the host (R563). -/
inductive NiUse where
  | plain
  | gather (p seq member dst : Nat)
  | coll (p member seq : Nat)
  | link (lost : Bool) (src txid epoch : Nat)
  | stream (seq elem stream : Nat)
  | post
  | host
deriving DecidableEq, Repr, Inhabited

/-- A transaction entry (R340 to R342): the request it holds and the tick of its first send; whether a packet of it is on its way to the target; whether its last
answer was DEFER and the retry is not sent; whether it is quarantined; and whether the target accepted it and has not answered (R345). -/
structure NiEntry where
  req : Packet := {}
  data : List Byte := []
  first : Nat := 0
  flight : Bool := false
  deferred : Bool := false
  quar : Bool := false
  waiting : Bool := false
  use : NiUse := .plain
deriving DecidableEq, Repr, Inhabited

/-- The network interface of a station: its entries by TXID and the epoch of its unit (R340, R343). -/
structure NiSt where
  entries : Tab NiEntry := []
  epoch : Nat := 0
deriving DecidableEq, Repr, Inhabited

/-- The state of a switched domain (PWR_DOM_n). -/
inductive DomState where
  | off | on | draining | ramping | failed | retention | gated
deriving DecidableEq, Repr, Inhabited

/-- A switched domain: its state, a failed ramp that waits for its slow repeat, and the slow ramp that runs (R532). -/
structure DomSt where
  st : DomState := .off
  slow : Bool := false
  again : Bool := false
deriving DecidableEq, Repr, Inhabited

/-- The state of a unit as its network interface answers for it (R34). -/
inductive UnitState where
  | active | draining | off | resetting | failed | suspended
deriving DecidableEq, Repr, Inhabited

/-! ### Collective engine -/

/-- A rank map of the cell (R398, R399): term and generation, the manager's slot, FULL mode, and for each rank its slot (31: unheld) and the GEN of the map that last changed it. -/
structure CellMap where
  term : Nat := 0
  gen : Nat := 0
  mgr : Nat := 31
  full : Bool := false
  slots : List Nat := []
  gens : List Nat := []
deriving DecidableEq, Repr, Inhabited

/-- What a package knows of one slot of its cell (R396, R397): the tick of its latest record on the direct link, whether it is lost, that record, the
ticks of the last evidence and of the last record with FIT, and the SLEEP_READY of its last four records, newest first (R530). -/
structure SlotKnow where
  recv : Option Nat := none
  lost : Bool := false
  body : List Byte := []
  evid : Nat := 0
  fitAt : Nat := 0
  ready : List Nat := []
deriving DecidableEq, Repr, Inhabited

/-- The step that a manager's map begins (R411): none; a map that unholds ranks, and the spares to place next; a map that gives spares their ranks. -/
inductive SwitchSt where
  | none
  | unhold
  | place (ranks : List Nat)
deriving DecidableEq, Repr, Inhabited

/-- The package in its cell (R393 to R416): coordinates, the adopted map, what is known of the slots, the manager's duties. -/
structure CellSt where
  /-- GLB_LOC.VALID -/
  located : Bool := false
  tier : Nat := 0
  cell : Nat := 0
  slot : Option Nat := none
  map : Option CellMap := none
  know : Tab SlotKnow := []
  /-- the manager as last noted (MGR_CHANGE) -/
  mgrSeen : Option Nat := none
  /-- the highest TERM seen (R401) -/
  maxTerm : Option Nat := none
  /-- this package was manager when it adopted the map of another (R401) -/
  ceased : Bool := false
  /-- the slots that have acknowledged this manager's map (R411) -/
  acks : List Nat := []
  switching : SwitchSt := .none
  /-- ranks unheld by a map of R411 and not HELD again -/
  moving : List Nat := []
  /-- slots whose traffic goes over ALT (R404) -/
  usingAlt : List Nat := []
  /-- the carrying list and the standby port of R408 -/
  carry : List Nat := []
  /-- a port entered DOWN since the last 2 ms, by its tick (FLAGS[3] of R396) -/
  downAt : Option Nat := none
  /-- the tick at which the first CELL link became ACTIVE (R400) -/
  linkedAt : Option Nat := none
  /-- records that family control's NI has still to send, by slot, oldest first (R340, R396) -/
  outq : List (Nat × List Byte) := []
  /-- the 1 ms window figures of R519: COLL_WAIT sums at its start, and WAIT of the last complete window -/
  waitBase : Tab Nat := []
  wait : Nat := 0xFFFF
  /-- caps that the manager has decided and not sent: slot and W, with the giver that must show its reduced cap first and that cap (R521); giver 31: every holder must show at most its BASE (R523) -/
  raises : List (Nat × Nat × Nat × Nat) := []
  /-- BASE of each slot as the manager last saw it (R523) -/
  bases : Tab Nat := []
  /-- a map with a new TERM was adopted: every cap in the cell returns to its BASE at the manager's next boundary (R523) -/
  rebase : Bool := false
deriving DecidableEq, Repr, Inhabited

/-- A member of a group (R418). -/
structure Member where
  tier : Nat := 0
  cell : Nat := 0
  rank : Nat := 0
  part : Nat := 0
deriving DecidableEq, Repr, Inhabited

/-- A collective queued or running (R423 to R446): descriptor fields, place of the post, group, progress. -/
structure Coll where
  op : Nat := 0
  rfmt : Nat := 0
  ctag : Nat := 0
  vlen : Nat := 0
  src : Nat := 0
  dst : Nat := 0
  stage : Nat := 0
  root : Nat := 0
  countOff : Nat := 0
  cpl : Nat := 0
  /-- posting tile and its step view -/
  tile : Nat := 0
  seq : Nat := 0
  members : List Member := []
  me : Nat := 0
  hash : Nat := 0
  counts : List Nat := []
  /-- tick of fence close; `none` before it -/
  fence : Option Nat := none
  /-- members whose READY came, with the count each reported, and the tick of the last -/
  ready : List (Nat × Nat) := []
  lastReady : Nat := 0
  /-- the number of DONE records received from each member -/
  dones : Tab Nat := []
  /-- the phase it is in (1 to 4), and the members that this phase's data has been sent to -/
  phase : Nat := 1
  sentTo : List Nat := []
  /-- partial results by element, as binary64 pairs or one code and 0, with poison; kept by the tile agents -/
  acc : List (Nat × Nat) := []
  early : List CollData := []
  poison : Bool := false
  /-- GATHER_DEMAND: reads not yet sent as member, offset and length within its source, and reads outstanding -/
  reads : List (Nat × Nat × Nat) := []
  out : Nat := 0
deriving DecidableEq, Repr, Inhabited

/-- What the pending table holds for a partition, a READY with the tick of its arrival (R427, R431, R445). -/
inductive PendRec where
  | ready (r : ReadyRec) (tick : Nat)
  | abort (sender : Nat) (ctag : Nat) (code : Byte)
deriving DecidableEq, Repr

/-- The collectives of a partition: the fence (R429), the one that runs, those that wait, and what the dispatcher's gates saw (R463). -/
structure CollPart where
  /-- a post was accepted and the fence has not opened -/
  held : Bool := false
  fence : Bool := false
  /-- the tick at which the fence closed last (R427) -/
  fenceTick : Nat := 0
  run : Option Coll := none
  queue : List Coll := []
  nextSeq : Nat := 1
  lastSeq : Nat := 0
deriving DecidableEq, Repr, Inhabited

/-- A packet that the engine has still to send (R340, R434): the collective, the member it goes to, and the packet; `last` marks an ABORT, which outlives its collective. -/
structure CollPkt where
  part : Nat := 0
  seq : Nat := 0
  member : Nat := 0
  last : Bool := false
  q : Packet := {}
  data : List Byte := []
deriving DecidableEq, Repr, Inhabited

/-- The collective engine: the partitions' collectives, the pending table, and the packets that wait for a transaction entry, oldest first. -/
structure CollSt where
  parts : Tab CollPart := []
  pend : List (Nat × PendRec) := []
  outq : List CollPkt := []
deriving DecidableEq, Repr, Inhabited

/-! ### Solver sequencers -/

/-- The state of a problem slot (R245). -/
inductive SlotState where
  | free | setup | ready | busy | failed
deriving DecidableEq, Repr, Inhabited

/-- A problem, held at its home slot (R253 to R281). Values and vectors are FP64 codes. -/
structure Problem where
  desc : List Byte := []
  tiles : List Nat := []
  dies : List (Nat × Nat) := []
  rowPtr : List Nat := []
  colIdx : List Nat := []
  vals : List Nat := []
  qpA : List Nat := []
  qpb : List Nat := []
  qpG : List Nat := []
  qph : List Nat := []
  ver : Nat := 0
  /-- VER at the SOLVE that gave x_prev, where one did -/
  solvedVer : Option Nat := none
  converged : Bool := false
  stale : Bool := true
  xPrev : List Nat := []
  lamPrev : List Nat := []
  coldX : Bool := true
  coldLam : Bool := true
  /-- a QP's last primal-dual iterate: x, ν, μ and slacks -/
  iter : List Nat := []
  shiftRun : Nat := 0
  outcome : Nat := 0
deriving DecidableEq, Repr, Inhabited

/-- A problem slot of a die. -/
structure ProbSlot where
  st : SlotState := .free
  gen : Nat := 0
  part : Nat := 0
  /-- home die and home slot -/
  home : Nat := 0
  homeSlot : Nat := 0
  prob : Problem := {}
deriving DecidableEq, Repr, Inhabited

/-- What a completion record holds (R249). -/
structure SolvRec where
  code : Byte := 0x01
  outcome : Nat := 0xFF
  detail : Nat := 0
  flags : Nat := 0
  iters : Nat := 0
  w2 : Nat := 0
  norm : Nat := 0
  commit : Nat := 0
  /-- the new handle, of a SETUP -/
  handle : Nat := 0
  /-- the storage that a SETUP needs; else the tick at which the command began -/
  w7 : Option Nat := none
deriving DecidableEq, Repr, Inhabited

/-- How a command ends once the descriptors that it has queued are gone: because of a tile, with its code, DETAIL and whether the problem fails (R284); or with a result, its
problem, vector and record, of a command that did its arithmetic or not (R272, R282). -/
inductive SolvFin where
  | tile (t : Nat) (code : Byte) (detail : Nat) (failed : Bool)
  | commit (pr : Problem) (x : List Nat) (ran : Bool) (r : SolvRec)
deriving DecidableEq, Repr

/-- A solver command in a sequencer's queue (R247, R252): its block, issuer and place. -/
structure SolvCmd where
  seq : Nat := 0
  part : Nat := 0
  tile : Nat := 0
  step : Word := 0
  blk : List Byte := []
  running : Bool := false
  start : Nat := 0
  /-- the home slot it executes on, once it runs -/
  slot : Nat := 0
  /-- end at the next comparison point with this code (R285) -/
  endAs : Option Byte := none
  /-- the matrix and stream descriptors that it has not issued, by position in the tile list (R283) -/
  left : List (Nat × Nat) := []
  /-- how it ends once its descriptors are gone -/
  fin : Option SolvFin := none
  /-- the state of its slot before it executed -/
  was : SlotState := .ready
deriving DecidableEq, Repr, Inhabited

/-- A solver sequencer. -/
structure SolvSt where
  slots : Tab ProbSlot := []
  cmds : List SolvCmd := []
  nextSeq : Nat := 1
deriving DecidableEq, Repr, Inhabited

/-! ### Digest engine -/

/-- A digest command queued (R480): issuer, step view at the post, block and number. -/
structure DigCmd where
  part : Nat := 0
  tile : Nat := 0
  step : Word := 0
  blk : List Byte := []
  seq : Nat := 0
deriving DecidableEq, Repr, Inhabited

/-! ### Power and thermal -/

/-- A window of R502: features by die (12 counts and three leakage terms, scaled) and of the package term, energy by die and of VIN_AUX in units of mW times µs, and
residual by die in 2^-24. -/
structure PwrWin where
  feat : List (List Int) := []
  pkgFeat : List Int := []
  energy : List Nat := []
  resid : List Nat := []
deriving DecidableEq, Repr, Inhabited

/-- The power manager's account of a partition (R505 to R511), in mW and nJ (mW times µs). -/
structure PartPwr where
  budget : Nat := 0
  bucket : Nat := 0
  op : Nat := 0
  est : Nat := 0
  /-- RUN came since the last control period: the bucket is full (R506) -/
  fresh : Bool := false
  /-- the sum and number of estimates of the last millisecond, newest first (R511) -/
  hist : List Nat := []
deriving DecidableEq, Repr, Inhabited

/-- The package states (PKG_STATE of PWR_STATUS, R524): entering and leaving name the sleep state. -/
inductive SleepSt where
  | active | idle | pewter | dark
  | entering (state : Nat)
  | exiting (state : Nat)
deriving DecidableEq, Repr, Inhabited

/-- The power and thermal manager. -/
structure PwrSt where
  parts : Tab PartPwr := []
  /-- issue duty D of 16 (R498) -/
  duty : Nat := 16
  /-- consecutive control periods with D = 16 and no partition SUSPENDED_POWER (R511) -/
  dutyFull : Nat := 0
  /-- measured package power P_m and rails, in mW, where measured -/
  pm : Nat := 0
  /-- the correction factor c times 2^16, and the last estimate (R504) -/
  corr : Nat := 65536
  est : Nat := 0
  /-- coefficients in force by die, where a fit has replaced the fused ones (R500, R502) -/
  coef : Tab (List Int) := []
  /-- the coefficients in force of the package term, where a fit has replaced the fused ones (R500, R502) -/
  pkgCoef : Option (List Int) := none
  /-- latest samples of VIN_CORE by die and of VIN_AUX (R501) -/
  core : List Nat := []
  aux : Nat := 0
  /-- the window that runs, and those before it, newest first -/
  window : PwrWin := {}
  windows : List PwrWin := []
  /-- thermal cap in mW, where one applies; sensor readings -/
  thermCap : Option Nat := none
  quads : List Nat := []
  mems : List Nat := []
  /-- the tick at which COOLANT_OK went high -/
  coolantTick : Nat := 0
  /-- 100 µs readings since a sensor last read 103 °C or more (R515) -/
  cool : Nat := 0
  /-- PKG_STATE, and the state being entered (R524, R526) -/
  sleep : SleepSt := .active
  /-- quadrants that were on before Pewter (R526) -/
  wasOn : List Nat := []
  /-- QUIET_US of quiet have passed, and the package has been quiet since (R525) -/
  quiet : Bool := false
  /-- an agreement (R530): its number, at the manager the target and the slots that have voted yes, and whether SLEEP_COMMIT was sent -/
  agr : Nat := 0
  target : Nat := 0
  votes : Option (List Nat) := none
  /-- the slots that the manager asked -/
  asked : List Nat := []
  /-- the manager's slot and TERM of the agreement -/
  agrMgr : Nat := 0
  agrTerm : Nat := 0
  /-- PREPARED for a target, with a wake cause held meanwhile -/
  prepared : Option Nat := none
  wakeHeld : Bool := false
  /-- COOLANT_OK fell while the start ran, or THERM_STOP pauses it (R624) -/
  paused : Bool := false
  /-- cap shifted in a cell, in W (R520) -/
  shiftCap : Nat := 0x1450
  /-- PWR_BOARD.LIMIT_W (R514) -/
  limit : Nat := 0x15E0
deriving DecidableEq, Repr, Inhabited

/-! ### Fabric links -/

/-- The states of a port (R369). -/
inductive TrainSt where
  | disabled | waitLoc | detect | laneLock | laneMap | fecAlign | negotiate | check | key | activate | active | down
deriving DecidableEq, Repr, Inhabited

/-- A DATA frame in the replay buffer (R361, R363): its SEQ, the flits it carries and the credits it last took along. -/
structure TxFrame where
  seq : Nat := 0
  slots : List Slot := []
  /-- CREDIT of its last send, by VC (R360) -/
  credit : List Nat := []
deriving DecidableEq, Repr, Inhabited

/-- A forwarding entry (R380): the request a port has sent over its link, its presence epoch, and the slot of the cell it is for. -/
structure FwdEntry where
  q : Packet := {}
  data : List Byte := []
  epoch : Nat := 0
  slot : Option Nat := none
deriving DecidableEq, Repr, Inhabited

/-- A fabric port (R355 to R390). -/
structure PortSt where
  role : Nat := 0
  expect : Nat := 0xFF
  encReq : Bool := false
  boot : Bool := false
  st : TrainSt := .disabled
  attempts : Nat := 0
  /-- 1 ms of beacon after a failed attempt, and the attempt has gone back from FEC_ALIGN to LANE_MAP (R370) -/
  beacon : Bool := false
  remap : Bool := false
  present : Bool := false
  epoch : Nat := 0
  reason : Nat := 0
  lostCause : Nat := 0
  minor : Nat := 0
  encrypted : Bool := false
  /-- the partner's record of the last NEGOTIATE, and this end's NONCE (R374) -/
  peer : List Byte := []
  nonce : List Byte := []
  /-- transmit key and salt, receive key and salt (R387, R588) -/
  keys : List (List Byte) := []
  /-- key confirmation done (R387) -/
  keyOk : Bool := false
  txIdle : Nat := 9
  txSpare : Bool := false
  rxIdle : Nat := 9
  rxSpare : Bool := false
  /-- SEQ of the last DATA frame accepted and of the last sent; FCOUNT of the last accepted and of the last sent (R361, R362) -/
  rxSeq : Nat := 0
  txSeq : Nat := 0
  rxCount : Nat := 0
  txCount : Nat := 0
  /-- NAK sent, the expected frame not arrived (R362) -/
  nak : Bool := false
  replay : List TxFrame := []
  /-- flits that wait for a credit or a place in the replay buffer, and the VC last served (R335, R366) -/
  txq : List Slot := []
  rr : Nat := 0
  credits : List Nat := []
  /-- buffers freed for each VC since the last frame sent (CREDIT), the packets of which flits are still to come, by VC, and packets received that wait for a
  transaction entry (R340) -/
  freed : List Nat := []
  rxPart : Tab (Packet × List Byte) := []
  rxq : List (Packet × List Byte) := []
  /-- frames in a row whose tag failed (R381) -/
  authRun : Nat := 0
  /-- the receive lane for which SWAP_REQ is sent, and (S, lane) of a switch of each direction (R359) -/
  swapReq : Option Nat := none
  rxSwap : Option (Nat × Nat) := none
  txSwap : Option (Nat × Nat) := none
  /-- the drain of R386: 10 µs of CLOSE frames -/
  closing : Bool := false
  fwd : List FwdEntry := []
  /-- requests of the package that wait for a place in the forwarding table, oldest first -/
  wait : List (Packet × List Byte) := []
deriving DecidableEq, Repr, Inhabited

/-! ### Clocks, start-up, boot flash -/

/-- A step entry of the journal (R557). -/
structure StepEnt where
  result : Nat := 0
  alt : Nat := 0
  fails : Nat := 0
  mask : Nat := 0
  start : Nat := 0
  stop : Nat := 0
deriving DecidableEq, Repr, Inhabited

/-- A journal record (R557). -/
structure JRec where
  seq : Nat := 0
  cause : Nat := 0
  fwSlot : Nat := 0
  outcome : Nat := 0
  opLimit : List Nat := [15, 15, 15, 15]
  steps : Tab StepEnt := []
deriving DecidableEq, Repr, Inhabited

/-- Boot flash (R632): board description, key store by 16 * table + slot, the two copies of the journal, newest first, repair table,
generations, firmware slots, image slots, which slots the next start uses, and a board description that is received or waits for the next cold reset (R583).
The repair table lists rows as 8192 * physical tile index + 2048 * tier + row (R305). -/
structure FlashSt where
  board : List Byte := []
  keyStore : Tab (List Byte) := []
  journal : List JRec := []
  copy : List JRec := []
  repair : List Nat := []
  gens : Tab Nat := []
  fw : Tab (List Byte) := []
  imgs : Tab (List Byte) := []
  fwNext : Nat := 0
  imgNext : Option Nat := none
  staged : List Byte := []
  boardNext : Option (List Byte) := none
deriving DecidableEq, Repr, Inhabited

/-- The board description in effect (R632). -/
structure BoardSt where
  bootPort : Option Nat := none
  imageSlot : Option Nat := none
deriving DecidableEq, Repr, Inhabited

/-- The start (R553 to R558): the step running or 16 once HANDOFF has passed, what the latest record said, and this start's record. -/
structure BootSt where
  step : Nat := 1
  ended : Bool := false
  cold : Bool := true
  retryAll : Bool := false
  latest : Option JRec := none
  now : JRec := {}
deriving DecidableEq, Repr, Inhabited

/-- The PLL of a die (R496): the frequency that it runs at in MHz, 0 where it does not run, and how much of a period has passed since its last edge, in thousandths. -/
structure PllSt where
  mhz : Nat := 0
  past : Nat := 0
deriving DecidableEq, Repr, Inhabited

/-- The time base (R538, R539): the last offsets, newest first, a catch-up that waits, ticks to withhold at half rate, and the offset slewed out. -/
structure SyncSt where
  offsets : List Int := []
  waiting : Bool := false
  half : Nat := 0
  held : Bool := false
  slew : Int := 0
  /-- the tick at which the last wake request of WAKE went into the crossings from mclk (R543) -/
  lastWake : Option Nat := none
  /-- the tclk of each die in MHz at that tick, where it ran (R541) -/
  wakeMhz : Tab Nat := []
deriving DecidableEq, Repr, Inhabited

/-! ### Management and security -/

/-- An event of PLDM type 2 that the BMC has not acknowledged (R582): the sensor and the messages sent for it. -/
structure PldmEvent where
  sensor : Nat := 0
  sends : Nat := 1
deriving DecidableEq, Repr, Inhabited

/-- The management controller (R576 to R583). -/
structure MgtSt where
  sa : Nat := 0
  addr : Nat := 0
  eid : Nat := 0
  tid : Nat := 0
  receiver : Nat := 0
  events : List PldmEvent := []
  /-- the values last reported by the state sensors 28 to 32 and the threshold sensors -/
  seen : Tab Nat := []
  /-- an update: component and count of bytes received; a component verified for activation -/
  update : Option (Nat × Nat) := none
  verified : Option Nat := none
deriving DecidableEq, Repr, Inhabited

/-- A secured SPDM session (R589): path, identifier, whether FINISH came, and its key updates. -/
structure Session where
  doe : Bool := false
  sid : Nat := 0
  open_ : Bool := false
  updates : Nat := 0
deriving DecidableEq, Repr, Inhabited

/-- The security block (R584 to R590): fabric key, installed board-store slots, sessions, measurement 5 and what each path has negotiated. -/
structure SecSt where
  fabric : Option (Nat × List Byte) := none
  installed : List Nat := []
  sessions : List Session := []
  nextSid : Nat := 1
  measured : List Byte := []
  /-- SEC_VERSION of the image loaded last (R578) -/
  imgVersion : Nat := 0
  algs : Tab (List Byte) := []
deriving DecidableEq, Repr, Inhabited

/-- Pins and the host's reset line (R617 to R629). -/
structure PinSt where
  /-- VIN_AUX is good and REFCLK_SYS runs (R618) -/
  powered : Bool := true
  coolant : Bool := true
  halt : Bool := false
  perst : Bool := false
  prsnt : Bool := false
  trip : Bool := false
deriving DecidableEq, Repr, Inhabited

/-! ### Errors and host -/

/-- A record of the error log (R596). -/
structure LogRec where
  tick : Nat := 0
  event : Nat := 0
  sev : Nat := 0
  tag : Nat := 0x40
  code : Nat := 0
  station : Nat := 1134
  unit : Nat := 0
  detail : Nat := 0
  addr : Nat := 0
deriving DecidableEq, Repr, Inhabited

/-- The error log: records held, oldest first, and the index of the oldest (R597). -/
structure ErrSt where
  log : List LogRec := []
  head : Nat := 0
deriving DecidableEq, Repr, Inhabited

/-- A host access that waits for its retry (R563): a BAR0 access by offset, or a BAR2 access; of a BAR2 read, `data` holds the bytes read so far and `ep` whether they
meet poison. -/
structure HostAcc where
  bar2 : Bool := false
  write : Bool := false
  off : Nat := 0
  len : Nat := 8
  data : List Byte := []
  ep : Bool := false
  epoch : Nat := 0
deriving DecidableEq, Repr, Inhabited

/-- The host port (R559 to R575): MSI-X controls, the unmasked vectors and the pending vectors. -/
structure HostSt where
  msixEnable : Bool := false
  msixMask : Bool := false
  unmasked : List Nat := []
  vecPend : List Nat := []
  d3hot : Bool := false
  ltrEnable : Bool := false
  /-- Value and Scale of Max No-Snoop Latency (R561) -/
  ltrValue : Nat := 0
  /-- PME_Turn_Off came since DL_Up (R574) -/
  pme : Bool := false
  /-- accesses whose last answer was DEFER, by TXID (R563) -/
  accs : Tab HostAcc := []
  /-- pieces of BAR2 writes that wait for a free entry, oldest first (R340) -/
  wait : List HostAcc := []
deriving DecidableEq, Repr, Inhabited

/-- A frame that a port sends (R360): FTYPE, its control fields, the flits of its slots, TAG and FCS. -/
structure OutFrame where
  port : Nat := 0
  ftype : Nat := 1
  seq : Nat := 0
  ack : Nat := 0
  count : Nat := 0
  nak : Bool := false
  swapReq : Bool := false
  swapAck : Bool := false
  lane : Nat := 0
  swapSeq : Nat := 0
  credit : List Nat := []
  slots : List Slot := []
  tag : List Byte := []
  fcs : Nat := 0
deriving DecidableEq, Repr, Inhabited

/-- What the block has sent out. -/
inductive Msg where
  | packet (p : Packet) (data : List Byte)
  /-- a request completed at its originator by its own NI: station, TXID, code -/
  | done (stn txid : Nat) (code : Byte)
  /-- an MSI-X message of a vector (R573) -/
  | msix (vec : Nat)
  /-- a read of a register completes: its offset and value (R11, R564), or Unsupported Request -/
  | reg (off : Nat) (v : Word)
  | regUr (off : Nat)
  /-- a BAR2 read completes with data and EP, or with Completer Abort (R568, R569) -/
  | bar2 (off : Nat) (data : List Byte) (ep : Bool)
  | bar2Abort (off : Nat)
  /-- the S4's own LTR message (R561) -/
  | ltr
  /-- a frame (R360) -/
  | frame (f : OutFrame)
  /-- family control has a record for a slot of the cell, which its NI sends as an MCMD packet (R396, R398, R522, R538) -/
  | cellRec (slot : Nat) (rec : List Byte)
  /-- a response of the management path by MCTP message type (R576) -/
  | mgmt (type : Nat) (body : List Byte)
  /-- a response of the DOE path -/
  | doe (body : List Byte)
deriving DecidableEq, Repr

/-- The fuses (R4, R17): values read at boot. -/
structure Fuses where
  speedBin : Nat := 0
  stepMajor : Nat := 0
  stepMinor : Nat := 0
  /-- vendor and owner key slots, by 16 * table + slot, and those revoked (R584) -/
  slots : Tab (List Byte) := []
  revoked : List Nat := []
  fwMin : Nat := 0
  secMin : Nat := 0
  secret : List Byte := []
  /-- the Otenus enterprise number (R578) -/
  pen : Nat := 0
  /-- the PCI-SIG vendor identifier (R559) and the device serial number that the function shows -/
  vendor : Nat := 0
  serial : Nat := 0
  /-- scratchpad rows marked failing, as in the repair table (R304) -/
  badRows : List Nat := []
  /-- energy coefficients of R502 as fused: by die, 12 in pJ and three in mW, mW/K and mW/K² -/
  coef : List (List Int) := []
  /-- those of the package term: of a link frame, of bank on-time and of PHY on-time, and the three of leakage (R500) -/
  pkgCoef : List Int := []
deriving DecidableEq, Repr, Inhabited

/-- The state of the block. -/
structure State where
  /-- the commands that wait, first in first out -/
  pending : List Instr := []
  /-- stored register fields by BAR0 offset; an unlisted register holds its reset word -/
  regs : Tab Word := []
  fuses : Fuses := {}
  /-- scratchpad by package address (R292); an unlisted byte is 0 -/
  mem : List Host.Cell := []
  /-- check state of scratchpad words by package address / 8; an unlisted word is clean -/
  ecc : Tab EccState := []
  tiles : Tab TileSt := []
  bst : BstSt := {}
  img : ImgSt := {}
  parts : Tab PartSt := []
  posts : List Post := []
  /-- SKIP of each quadrant row, by 4 * quadrant + row (R37); unlisted: 16 -/
  solder : Tab Nat := []
  /-- scratchpad rows mapped onto their row groups' spares, as in the repair table (R304) -/
  spares : List Nat := []
  /-- quadrants that the boot journal marks failed (R39) -/
  failedQuads : List Nat := []
  err : ErrSt := {}
  host : HostSt := {}
  ni : Tab NiSt := []
  doms : Tab DomSt := []
  /-- unit addresses whose reset is in progress (R32) -/
  resets : List Nat := []
  /-- the tick at which each of them began (R346, R549) -/
  resetAt : Tab Nat := []
  /-- who waits for the end of a reset (R551): the unit, and the station and TXID of an MCMD, or none for CLK_UNIT_RESET -/
  resetReqs : List (Nat × Option (Nat × Nat)) := []
  /-- wake causes held until a reset ends (R551): the station, and the bit of PWR_WAKE_CAUSE -/
  heldWakes : List (Nat × Nat) := []
  /-- stations marked failed since start-up (R535) -/
  failedStns : List Nat := []
  cell : CellSt := {}
  ports : Tab PortSt := []
  clk : SyncSt := {}
  /-- the PLLs of the dies (R496) -/
  plls : Tab PllSt := []
  boot : BootSt := {}
  flash : FlashSt := {}
  board : BoardSt := {}
  /-- the tick of the last kick of the package watchdog, where it runs (R552) -/
  kick : Option Nat := none
  mgt : MgtSt := {}
  sec : SecSt := {}
  pins : PinSt := {}
  pwr : PwrSt := {}
  coll : CollSt := {}
  solv : Tab SolvSt := []
  dig : List DigCmd := []
  /-- board-store keys by slot (R314, R587): slots 0 to 63 and the package slot 64 -/
  keys : Tab (List Byte) := []
  tick : Nat := 0
  /-- what has been sent, newest first -/
  sent : List Msg := []
  /-- the index of the next free value -/
  freeCount : Nat := 0
deriving DecidableEq, Repr

/-- The state after a power-on cold reset. -/
def State.reset : State := {}

end Sys2Proof.Machine
end

