-- ==== Sys2Proof/Machine/Tab.lean ====
section
/-!
DEFINITION. Machine/Tab.lean: operations on tables. A table keeps its keys strictly rising, and a table with a default value lists
no entry equal to that default, so that equal maps are equal lists.
-/
namespace Sys2Proof.Machine

variable {α : Type}

/-- The entry of key `k`. -/
def tabFind (k : Nat) : Tab α → Option α
  | [] => none
  | (j, a) :: r => if j = k then some a else tabFind k r

/-- The table with key `k` bound to `a`. -/
def tabPut (k : Nat) (a : α) : Tab α → Tab α
  | [] => [(k, a)]
  | (j, b) :: r => if k < j then (k, a) :: (j, b) :: r else if k = j then (k, a) :: r else (j, b) :: tabPut k a r

/-- The table without key `k`. -/
def tabDel (k : Nat) (t : Tab α) : Tab α := t.filter fun e => e.1 ≠ k

/-- The value at key `k` of a table whose unlisted keys hold `d`. -/
def tabGet (d : α) (k : Nat) (t : Tab α) : α := (tabFind k t).getD d

/-- The table with `a` at key `k`, where unlisted keys hold `d`. -/
def tabSet [DecidableEq α] (d : α) (k : Nat) (a : α) (t : Tab α) : Tab α :=
  if a = d then tabDel k t else tabPut k a t

/-- Every key of the table is above `b`, and the keys rise strictly. -/
def tabAbove (b : Nat) : Tab α → Bool
  | [] => true
  | (j, _) :: r => decide (b < j) && tabAbove j r

/-- The keys rise strictly. -/
def tabRising : Tab α → Bool
  | [] => true
  | (j, _) :: r => tabAbove j r

/-- The canonical form of a table whose unlisted key `k` holds `d k`: keys strictly rising, no entry equal to its default. -/
def tabCanon [DecidableEq α] (d : Nat → α) (t : Tab α) : Bool :=
  tabRising t && t.all (fun e => decide (e.2 ≠ d e.1))

end Sys2Proof.Machine
end

