-- ==== Sys2Proof/Machine/Ops.lean ====
section
/-!
DEFINITION. Machine/Ops.lean: the named operations over registers, tiles, partitions, scratchpad, the error log and interrupts.
-/
namespace Sys2Proof.Machine

/-! ### Response codes (R591) -/

def cDone : Byte := 0x01
def cPoison : Byte := 0x02
def cDefer : Byte := 0x10
def cQuota : Byte := 0x20
def cOff : Byte := 0x21
def cPart : Byte := 0x22
def cFormat : Byte := 0x23
def cReset : Byte := 0x30
def cLinkLost : Byte := 0x40
def cTimeout : Byte := 0x41

/-! ### Registers -/

/-- The stored word of a register. -/
def reg (s : State) (off : Nat) : Word := tabGet (regReset off) off s.regs
/-- Set the stored word of a register. -/
def setReg (off : Nat) (v : Word) (s : State) : State := { s with regs := tabSet (regReset off) off v s.regs }
/-- A field of a stored register word. -/
def getF (s : State) (off lo w : Nat) : Nat := wfld (reg s off) lo w
/-- Set a field of a stored register word. -/
def putF (off lo w v : Nat) (s : State) : State := setReg off (wput (reg s off) lo w v) s
/-- A bit of a stored register word. -/
def getB (s : State) (off i : Nat) : Bool := getF s off i 1 = 1
/-- Set or clear a bit of a stored register word. -/
def putB (off i : Nat) (b : Bool) (s : State) : State := putF off i 1 (b2n b) s
/-- Return every register of a range of offsets to its reset word (R599). -/
def clearRegs (lo hi : Nat) (s : State) : State := { s with regs := s.regs.filter fun e => e.1 < lo || hi ≤ e.1 }

/-- The largest count of a saturating counter (R109). -/
def countMax : Nat := 0xFFFFFFFFFFFF

/-! ### Interrupts to the host (R571 to R573) -/

/-- Send the message of a pending vector when it is unmasked and MSI-X is enabled. -/
def sendVec (v : Nat) (s : State) : State :=
  if s.host.vecPend.contains v ∧ s.host.msixEnable ∧ ¬ s.host.msixMask ∧ s.host.unmasked.contains v then
    { s with sent := .msix v :: s.sent, host := { s.host with vecPend := s.host.vecPend.filter (· ≠ v) } }
  else s

/-- Raise a vector (R573): a vector that is already pending sends no further message. -/
def raiseVec (v : Nat) (s : State) : State :=
  if s.host.vecPend.contains v then s
  else sendVec v { s with host := { s.host with vecPend := v :: s.host.vecPend } }

/-- Raise the package vector (R572). -/
def raisePkg (s : State) : State := raiseVec (getF s aGlbPkgVec 0 11) s

/-- Whether a status bit is a package event source whose enable is set (R572 and the enables of each map). -/
def pkgSource (s : State) (off bit : Nat) : Bool :=
  if off = aImgStatus then bit = 32 || bit = 33
  else if off = aGlbCellStatus then 48 ≤ bit && bit ≤ 52 && getB s aGlbCellStatus 53
  else if off = aPwrStatus then 16 ≤ bit && bit ≤ 22 && getB s aPwrStatus 23
  else if off = aCollStatus then bit = 40 && getB s aCollCtrl 16
  else if off = aClkWdog then bit = 2
  else if off = aErrStatus then bit < 4 && getB s aErrCtrl bit
  else if aLnkStatus 0 ≤ off && off < aLnkStatus 28 && (off - aLnkStatus 0) % 0x10000 = 0 then
    20 ≤ bit && bit ≤ 22 && getB s (aLnkCtrl ((off - aLnkStatus 0) / 0x10000)) 3
  else false

/-- Set a sticky status bit (R13); a package event source that goes from 0 to 1 raises the package vector (R572). -/
def stick (off bit : Nat) (s : State) : State :=
  if getB s off bit then s
  else
    let s' := putB off bit true s
    if pkgSource s off bit then raisePkg s' else s'

/-- Add to a saturating counter; on reaching its largest value set its overflow bit (R109). DEDUCED: an overflow bit that software has cleared while the counter
stands at its largest value is set again by the next addition (log entry 29). -/
def bump (off n ovfOff ovfBit : Nat) (s : State) : State :=
  let c := getF s off 0 48
  if n = 0 then s
  else if c + n < countMax then putF off 0 48 (c + n) s
  else stick ovfOff ovfBit (putF off 0 48 countMax s)

/-! ### Tiles and partitions -/

/-- What belongs to tile `t`. -/
def tile (s : State) (t : Nat) : TileSt := tabGet {} t s.tiles
/-- Change what belongs to tile `t`. -/
def modTile (t : Nat) (f : TileSt → TileSt) (s : State) : State := { s with tiles := tabSet {} t (f (tile s t)) s.tiles }
/-- The control core of tile `t`. -/
def core (s : State) (t : Nat) : CoreSt := (tile s t).core
/-- Change the control core of tile `t`. -/
def modCore (t : Nat) (f : CoreSt → CoreSt) (s : State) : State := modTile t (fun x => { x with core := f x.core }) s
/-- Partition `p`. -/
def part (s : State) (p : Nat) : PartSt := tabGet {} p s.parts
/-- Change partition `p`. -/
def modPart (p : Nat) (f : PartSt → PartSt) (s : State) : State := { s with parts := tabSet {} p (f (part s p)) s.parts }

/-- The partition that holds tile `t` (R53). -/
def ownerOf (s : State) (t : Nat) : Option Nat :=
  (s.parts.find? fun e => e.2.st ≠ .empty ∧ e.2.prec.tiles.contains t).map (·.1)
/-- The tag of tile `t`: its partition, or the package tag (R71). -/
def tagOf (s : State) (t : Nat) : Nat := (ownerOf s t).getD 0x40
/-- The index of tile `t` within partition `p` (R216). -/
def tileIndex (s : State) (p t : Nat) : Nat := ((part s p).prec.tiles.filter (· < t)).length
/-- The tile at index `i` of partition `p`. -/
def tileAt (s : State) (p i : Nat) : Option Nat := (part s p).prec.tiles[i]?

/-- The size of a slice (R290). -/
def sliceBytes : Nat := 0x2000000
/-- The bytes of the collective buffer on each tile of partition `p` (R59). -/
def collBytes (s : State) (p : Nat) : Nat := (part s p).prec.collUnits * 0x40000
/-- The bytes of the cache range of each tile (R59). -/
def cacheBytes (s : State) : Nat := s.bst.units * 0x40000
/-- The bytes of working memory on each tile of partition `p` (R59). -/
def workBytes (s : State) (p : Nat) : Nat := sliceBytes - collBytes s p - cacheBytes s
/-- W of tile `t` (R59); a tile of no partition has no working memory. -/
def tileW (s : State) (t : Nat) : Nat := match ownerOf s t with | some p => workBytes s p | none => 0
/-- W + C of tile `t` (R59). -/
def tileWC (s : State) (t : Nat) : Nat := match ownerOf s t with | some p => workBytes s p + collBytes s p | none => 0

/-- The package scratchpad address of offset `o` of tile `t` (R292). -/
def pkgAddr (t o : Nat) : Nat := t * 0x2000000 + o

/-- The quadrant of a logical tile, 4 * die + quadrant (R36). -/
def quadOf (t : Nat) : Nat := t / 64
/-- The die of a logical tile (R36). -/
def dieOf (t : Nat) : Nat := t / 256
/-- The physical tile index, which is the tile's station (R37, R38, R329). -/
def tileStation (s : State) (t : Nat) : Nat :=
  let q := t / 64
  let r := t % 64 / 16
  let c := t % 16
  let skip := tabGet 16 (4 * q + r) s.solder
  q * 68 + r * 17 + (if c < skip then c else c + 1)
/-- The logical tile of a station, where one is there. -/
def stationTile (s : State) (n : Nat) : Option Nat :=
  if 1088 ≤ n then none
  else
    let q := n / 68
    let r := n % 68 / 17
    let p := n % 17
    let skip := tabGet 16 (4 * q + r) s.solder
    if p = skip then none else some (q * 64 + r * 16 + (if p < skip then p else p - 1))

/-- Tiles outside quadrants that the boot journal marks failed, ascending (R58). -/
def availTiles (s : State) : List Nat := (List.range 1024).filter fun t => !s.failedQuads.contains (quadOf t)

/-! ### The error log (R594 to R597) -/

/-- An event reaches ERR (R594, R595, R597). -/
def logEvent (r : LogRec) (s : State) : State :=
  let s := bump (aErrCount r.sev) 1 aErrStatus 5 s
  let s := stick aErrStatus r.sev s
  if r.sev = 0 then s
  else if (if r.sev = 1 then 248 else 256) ≤ s.err.log.length then
    stick aErrStatus 4 (bump aErrLost 1 aErrStatus 5 s)
  else { s with err := { s.err with log := s.err.log ++ [{ r with tick := s.tick }] } }

/-- A record of event `ev` that concerns tile `t`. -/
def tileRec (s : State) (t ev sev : Nat) (code : Byte) (detail addr : Nat) : LogRec :=
  { event := ev, sev := sev, tag := tagOf s t, code := code.toNat, station := tileStation s t, unit := t, detail := detail, addr := addr }

/-! ### Free values -/

/-- The difference of two ticks as a signed number (R536). -/
def tickDiff (a b : Nat) : Int := signedOf 64 (a + 2 ^ 64 - b % 2 ^ 64)
/-- How many ticks tick `a` lies after tick `b`; 0 where it lies before (R536). -/
def ticksAfter (a b : Nat) : Nat := (tickDiff a b).toNat

/-- Advance the counter of free values. -/
def tickFree (s : State) : State := { s with freeCount := s.freeCount + 1 }

/-! ### Scratchpad (R290 to R305, R601) -/

/-- One byte of the scratchpad. -/
def memByte (s : State) (a : Nat) : Byte := tabGet 0 a s.mem
/-- Store one byte of the scratchpad. -/
def setByte (a : Nat) (b : Byte) (s : State) : State := { s with mem := tabSet 0 a b s.mem }
/-- Store bytes from an address on. -/
def setBytes : Nat → List Byte → State → State
  | _, [], s => s
  | a, b :: r, s => setBytes (a + 1) r (setByte a b s)
/-- `n` bytes from an address on, whatever their check state. -/
def memBytes (s : State) (a n : Nat) : List Byte := (List.range n).map fun i => memByte s (a + i)
/-- The check state of the word at address `8 * w`. -/
def eccOf (s : State) (w : Nat) : Option EccState := tabFind w s.ecc
/-- A word that reads as uncorrectable (R301, R601). -/
def badWord (s : State) (w : Nat) : Bool := eccOf s w = some .bad || eccOf s w = some .marked
/-- A byte that lies in an uncorrectable word. -/
def badByte (s : State) (a : Nat) : Bool := badWord s (a / 8)
/-- Fresh check bits for the word. -/
def cleanWord (w : Nat) (s : State) : State := { s with ecc := tabDel w s.ecc }
/-- Mark the word poisoned (R601). -/
def markWord (w : Nat) (s : State) : State := { s with ecc := tabPut w .marked s.ecc }
/-- Zero a range of the scratchpad with fresh check bits (R62, R64). -/
def zeroRange (lo hi : Nat) (s : State) : State :=
  { s with mem := s.mem.filter (fun e => e.1 < lo || hi ≤ e.1), ecc := s.ecc.filter (fun e => 8 * e.1 < lo || hi ≤ 8 * e.1) }

/-- The words that `n` bytes at `a` touch. -/
def wordsOf (a n : Nat) : List Nat := if n = 0 then [] else (List.range ((a + n - 1) / 8 - a / 8 + 1)).map (a / 8 + ·)

/-- Tier and row of a slice offset (R291), as tier * 2048 + row. -/
def rowOf (o : Nat) : Nat := o / 512 % 4 * 2048 + (o / 2048 * 512 + o % 512) / 4096 % 2048

/-- Record a row in TILE_SP_ROWS; the management controller copies it into the boot journal, here at once (R305). -/
def recordRow (t row : Nat) (s : State) : State :=
  let rs := (tile s t).rows
  if rs.contains row then s
  else if 4 ≤ rs.length then stick (aTileSpStatus t) 3 s
  else
    let n := 8192 * tileStation s t + row
    modTile t (fun x => { x with rows := x.rows ++ [row] })
      { s with flash := { s.flash with repair := if s.flash.repair.contains n then s.flash.repair else s.flash.repair ++ [n] } }

/-- A corrected word is found (R300, R303, R305). -/
def noteCorrected (w : Nat) (s : State) : State :=
  let t := 8 * w / sliceBytes
  let row := rowOf (8 * w % sliceBytes)
  let s := stick (aTileSpStatus t) 0 s
  let s := bump (aTileSpCeCount t) 1 (aTileSpStatus t) 2 s
  let s := logEvent (tileRec s t 0x06 0 0 0 0) s
  let n := tabGet 0 row (tile s t).rowCorr + 1
  let s := modTile t (fun x => { x with rowCorr := tabPut row n x.rowCorr }) s
  if n = 16 then recordRow t row s else s

/-- An uncorrectable word is found by a requester of kind `src` (R301, R305, R595, R601). -/
def noteBad (src w : Nat) (s : State) : State :=
  let t := 8 * w / sliceBytes
  let o := 8 * w % sliceBytes
  let first := !getB s (aTileSpStatus t) 1
  let s := if first then putF (aTileSpUeAddr t) 25 2 src (putF (aTileSpUeAddr t) 0 25 o s) else s
  let s' := stick (aTileSpStatus t) 1 s
  if eccOf s w = some .marked then s'
  else recordRow t (rowOf o) (logEvent (tileRec s t 0x05 1 cPoison src (8 * w)) s')

/-- One word is read (R300, R301): events of its check state. -/
def touchWord (src w : Nat) (s : State) : State :=
  match eccOf s w with
  | none => s
  | some .single => noteCorrected w s
  | some _ => noteBad src w s

/-- Events of reading words. -/
def touchWords (src : Nat) (ws : List Nat) (s : State) : State := ws.foldl (fun s w => touchWord src w s) s

/-- Whether a read of `n` bytes at `a` meets an uncorrectable word. -/
def anyBad (s : State) (a n : Nat) : Bool := (wordsOf a n).any (badWord s)

/-- Events of a read of `n` bytes at `a`. -/
def touchRange (src a n : Nat) (s : State) : State := touchWords src (wordsOf a n) s

/-- Write the bytes of one word that a write covers from `a`, all within word `a / 8` (R302). -/
def writeWord (src a : Nat) (bs : List Byte) (s : State) : State :=
  let w := a / 8
  if bs.length = 8 then cleanWord w (setBytes a bs s)
  else match eccOf s w with
    | none => setBytes a bs s
    | some .single => cleanWord w (setBytes a bs (noteCorrected w s))
    | some _ => noteBad src w s

/-- Write bytes word by word (R302). -/
def spWriteFuel : Nat → Nat → Nat → List Byte → State → State
  | 0, _, _, _, s => s
  | fuel + 1, src, a, bs, s =>
    if bs.isEmpty then s
    else
      let k := 8 - a % 8
      spWriteFuel fuel src (a + k) (bs.drop k) (writeWord src a (bs.take k) s)

/-- A write of bytes at a package address (R302). -/
def spWrite (src a : Nat) (bs : List Byte) (s : State) : State := spWriteFuel (bs.length + 1) src a bs s

/-- Whether a write of `n` bytes at `a` leaves a merge unmade (R302): a word covered in part is uncorrectable. -/
def writePoisons (s : State) (a n : Nat) : Bool :=
  (wordsOf a n).any fun w => badWord s w && !(decide (a ≤ 8 * w) && decide (8 * w + 8 ≤ a + n))

/-- Write bytes, marking every word that the range reaches (R601, R602): the data are kept and read as poisoned. -/
def spWriteMarked (a : Nat) (bs : List Byte) (s : State) : State :=
  (wordsOf a bs.length).foldl (fun s w => markWord w s) (setBytes a bs s)

/-- Write the data of a packet whose flits in `poison` are poisoned (R602); flit `i` holds the bytes of 64-byte line `i` of the range. -/
def spWriteFlits (src a : Nat) (bs : List Byte) (poison : Nat) (s : State) : State :=
  let pieces := (List.range 9).map fun i =>
    let lo := max a ((a / 64 + i) * 64)
    let hi := min (a + bs.length) ((a / 64 + i + 1) * 64)
    (i, lo, hi)
  pieces.foldl (fun s p =>
    if p.2.1 < p.2.2 then
      let b := (bs.drop (p.2.1 - a)).take (p.2.2 - p.2.1)
      if bitOf poison p.1 then spWriteMarked p.2.1 b s else spWrite src p.2.1 b s
    else s) s

/-- The POISON bits of the flits that carry `n` bytes at `a` (R603). -/
def poisonFlits (s : State) (a n : Nat) : Nat :=
  ((List.range 9).map fun i =>
    let lo := max a ((a / 64 + i) * 64)
    let hi := min (a + n) ((a / 64 + i + 1) * 64)
    if lo < hi ∧ anyBad s lo (hi - lo) then 2 ^ i else 0).sum

end Sys2Proof.Machine
end

