-- ==== Sys2Proof/Machine/RegOps.lean ====
section
/-!
DEFINITION. Machine/RegOps.lean: what a write does to the stored fields of a register (R12, R15, R110), and the registers of a tile as they read (R212, R213).
-/
namespace Sys2Proof.Machine

/-- A write applies the access codes of the fields (R12); a counter's CLEAR sets COUNT to 0 (R110). -/
def accessWord (r : RegSpec) (old v : Nat) : Nat :=
  let keep := (old &&& ((2 ^ 64 - 1) ^^^ r.rw)) ||| (v &&& r.rw)
  let x := keep &&& ((2 ^ 64 - 1) ^^^ (v &&& r.w1c))
  if r.isCounter ∧ bitOf v 48 then x / 2 ^ 48 * 2 ^ 48 else x

/-- The stored effect of a write of `v` to the register at `off`; an offset without a register discards it (R16). -/
def writeStored (off : Nat) (v : Word) (s : State) : State :=
  match regSpecAt off with
  | some r => setReg off (BitVec.ofNat 64 (accessWord r (reg s off).toNat v.toNat)) s
  | none => s

/-- Bytes of one element of a slot format (R143). -/
def afmtBytes (afmt : Nat) : Nat := (if afmt = 2 ∨ afmt = 3 then 8 else 4) * (if afmt = 1 ∨ afmt = 3 then 2 else 1)
/-- The footprint of a slot (R143). -/
def SlotBind.bytes (b : SlotBind) : Nat := 8 * (b.mb + 1) * (8 * (b.nb + 1)) * afmtBytes b.afmt
/-- The slots available for a shape and format (R143). -/
def SlotBind.avail (b : SlotBind) : Nat := min 64 (1048576 / b.bytes)

/-- One place in slot order seen from the binding before it: the binding after it, and the binding that ACC_SLOT_s shows (R146, R150, R170). -/
def slotStep (x : Option SlotBind × Option SlotBind) (op : SlotOp) : Option SlotBind × Option SlotBind :=
  match op with
  | .free => (none, x.2)
  | .mx _ b => if x.1.isSome then x else (some b, some b)
  | .rd _ => x
/-- The binding that an operation placed last in slot order finds (R145, R150). -/
def slotLatest (a : AccSlot) : Option SlotBind := (a.order.foldl slotStep (a.bind, a.bind)).1
/-- The binding that ACC_SLOT_s shows (R170). -/
def slotShown (a : AccSlot) : Option SlotBind := (a.order.foldl slotStep (a.bind, a.bind)).2
/-- The bindings of a slot that count for the OVERLAP check (R146): the one in effect and those of later places in its order. -/
def slotHeld (a : AccSlot) : List SlotBind :=
  a.bind.toList ++ a.order.filterMap fun op => match op with | .mx _ b => some b | _ => none

/-- A slot of a tile. -/
def accSlot (s : State) (t k : Nat) : AccSlot := tabGet {} k (tile s t).acc
/-- Change a slot of a tile. -/
def modSlot (t k : Nat) (f : AccSlot → AccSlot) (s : State) : State :=
  modTile t (fun x => { x with acc := tabSet {} k (f (tabGet {} k x.acc)) x.acc }) s

/-- ACC_SLOT_s as it reads. -/
def accSlotView (a : AccSlot) (k : Nat) : Nat :=
  match slotShown a with
  | none => 0
  | some b =>
    1 + 2 * b.afmt + 2 ^ 4 * b.mb + 2 ^ 8 * b.nb + 2 ^ 12 * b2n a.isat + 2 ^ 13 * b2n a.poison + 2 ^ 14 * b2n a.inf
      + 2 ^ 16 * (a.order.countP fun op => match op with | .mx _ _ => true | _ => false)
      + 2 ^ 20 * (a.order.countP fun op => match op with | .rd _ => true | _ => false)
      + 2 ^ 32 * (k * b.bytes)

/-- The partition of tile `t` is RUNNING. -/
def partRunning (s : State) (t : Nat) : Bool :=
  match ownerOf s t with
  | some p => (part s p).st = .running
  | none => false

/-- HALTED of TILE_CORE_STATUS. -/
def coreHalted (s : State) (t : Nat) : Bool :=
  !(partRunning s t && (match (core s t).run with | .running => true | .waiting _ => true | _ => false))

/-- Record `i` of TILE_SP_ROWS. -/
def rowsView (rows : List Nat) : Nat :=
  (rows.mapIdx fun i r => 2 ^ (14 * i) * (r % 2048 + 2 ^ 11 * (r / 2048) + 2 ^ 13)).sum

/-- The bits of a tile register that are computed on read from the state that owns them. -/
def tileView (s : State) (t o : Nat) : Nat :=
  let x := tile s t
  if o = 0x200 then x.mxq.length + 16 * b2n x.mxRun.isSome
  else if o = 0x300 then x.acc.countP (fun e => (slotShown e.2).isSome)
  else if 0x400 ≤ o ∧ o < 0x600 then accSlotView (accSlot s t ((o - 0x400) / 8)) ((o - 0x400) / 8)
  else if o = 0x600 then x.stq.length + 32 * b2n x.stRun
  else if o = 0x800 then 4 * b2n (coreHalted s t)
  else if o = 0xa18 then x.step.toNat
  else if o = 0xc18 then rowsView x.rows
  else 0

/-- A register of tile `t` as it reads. -/
def readTileReg (s : State) (t o : Nat) : Word := reg s (0x2000000 + 0x4000 * t + o) ||| BitVec.ofNat 64 (tileView s t o)

end Sys2Proof.Machine
end

