-- ==== Sys2Proof/Machine/Operands.lean ====
section
/-!
DEFINITION. Machine/Operands.lean: the operands of control-core instructions (R211, R230), and issue, fetch and exceptions (R217, R235 to R240).
-/
namespace Sys2Proof.Machine

/-- A general register; G0 reads 0. -/
def getG (s : State) (t : Nat) (r : GReg) : Word := if r = 0 then 0 else tabGet 0 r.val (core s t).g
/-- Write a general register; writes to G0 are discarded. -/
def setG (t : Nat) (r : GReg) (v : Word) (s : State) : State :=
  if r = 0 then s else modCore t (fun c => { c with g := tabSet 0 r.val v c.g }) s
/-- A vector register. -/
def getV (s : State) (t : Nat) (r : VReg) : BitVec 512 := tabGet 0 r.val (core s t).v
/-- Write a vector register. -/
def setV (t : Nat) (r : VReg) (v : BitVec 512) (s : State) : State := modCore t (fun c => { c with v := tabSet 0 r.val v c.v }) s
/-- A mask register; VM0 reads all ones. -/
def getM (s : State) (t : Nat) (r : MReg) : Word := if r = 0 then BitVec.allOnes 64 else tabGet 0 r.val (core s t).vm
/-- Write a mask register; writes to VM0 are discarded. -/
def setM (t : Nat) (r : MReg) (v : Word) (s : State) : State :=
  if r = 0 then s else modCore t (fun c => { c with vm := tabSet 0 r.val v c.vm }) s

/-- The program counter of tile `t`. -/
def getPc (s : State) (t : Nat) : Word := (core s t).pc
/-- Set the program counter. -/
def setPc (t : Nat) (v : Word) (s : State) : State := modCore t (fun c => { c with pc := v }) s
/-- Go on to the next instruction. -/
def nextPc (t : Nat) (s : State) : State := setPc t (getPc s t + 4) s

/-- The width of an element in bits (R230). -/
def sewBits : Sew → Nat
  | .s8 => 8 | .s16 => 16 | .s32 => 32 | .s64 => 64
/-- The elements of a vector register (R211). -/
def sewCount (w : Sew) : Nat := 512 / sewBits w
/-- The floating-point layout of a VFP element width (R230). -/
def sewFloat (w : Sew) : FloatFmt := if w = .s64 then fmtFp64 else fmtFp32

/-- Element `i` of a vector register (R211). -/
def elemOf (w : Nat) (v : BitVec 512) (i : Nat) : Nat := fieldOf v.toNat (w * i) w
/-- The elements of a vector register. -/
def elemsOf (w : Nat) (v : BitVec 512) : List Nat := (List.range (512 / w)).map (elemOf w v)
/-- The vector register that holds the elements. -/
def ofElems (w : Nat) (l : List Nat) : BitVec 512 := BitVec.ofNat 512 (l.foldr (fun x a => x % 2 ^ w + 2 ^ w * a) 0)
/-- Element `i` is active under the mask (R211, R231). -/
def active (m : Word) (i : Nat) : Bool := bitOf m.toNat i

/-- The number of a class of exceptions and interrupts (R235). -/
def exIllegal : Nat := 0x01
def exRange : Nat := 0x02
def exMisalign : Nat := 0x03
def exPoison : Nat := 0x04
def exFetch : Nat := 0x05
def exBreak : Nat := 0x06
def exSysreg : Nat := 0x07

/-- The set of a line of the instruction cache (R217: PC[11:6]). -/
def icSet (line : Nat) : Nat := line % 64

/-- The line of the instruction cache that holds `pc`, where one does. -/
def icFind (s : State) (t line : Nat) : Option IcLine := (tabGet [] (icSet line) (core s t).icache).find? fun x => x.line = line

/-- The word at the program counter as a fetch delivers it (R217): that of its cached line, or of working memory. -/
def wordNext (s : State) (t : Nat) : BitVec 32 :=
  let pc := (getPc s t).toNat
  let bs := match icFind s t (pc / 64) with | some l => l.bytes | none => memBytes s (pkgAddr t (64 * (pc / 64))) 64
  BitVec.ofNat 32 (leAt bs (pc % 64) 4)
/-- The instructions that always issue alone (R222). -/
def issuesAlone : Instr → Bool
  | .retx _ => true | .brk _ => true | .isync _ => true | .wnext .. => true | .waitm .. => true | .waits .. => true | .waitall _ => true
  | _ => false
/-- A branch or a jump (R219). -/
def isBranch (w : BitVec 32) : Bool := decide (0x0c ≤ bitsAt w 26 6 ∧ bitsAt w 26 6 ≤ 0x0e)
/-- A memory, vector, system, MXI or STI instruction, of which a pair holds at most one (R222). -/
def isSingle (w : BitVec 32) : Bool :=
  let m := bitsAt w 26 6
  decide (0x04 ≤ m ∧ m ≤ 0x0b ∨ 0x10 ≤ m ∧ m ≤ 0x12 ∨ 0x20 ≤ m ∧ m ≤ 0x26)
/-- The general register that an instruction writes (R219, R230); G0 discards its writes. -/
def writesG (w : BitVec 32) : Option GReg :=
  let m := bitsAt w 26 6
  if (0x01 ≤ m ∧ m ≤ 0x07 ∨ 0x10 ≤ m ∧ m ≤ 0x12 ∨ 0x18 ≤ m ∧ m ≤ 0x1d ∨ m = 0x25 ∧ bitsAt w 0 6 = 0x02) ∧ fieldD w ≠ 0 then some (fieldD w) else none
/-- The general registers that an instruction reads (R219, R225, R226, R230). -/
def readsG (w : BitVec 32) : List GReg :=
  let d := fieldD w
  let a := fieldA w
  let b := fieldB w
  match bitsAt w 26 6 with
  | 0x01 => [a, b] | 0x0c => [a, b] | 0x10 => [a, b] | 0x11 => [a, b]
  | 0x08 => [a, d] | 0x09 => [a, d] | 0x0a => [a, d] | 0x0b => [a, d]
  | 0x12 => [a, a + 1, a + 2, a + 3]
  | 0x24 => if bitsAt w 0 3 = 1 then [a, b] else [a]
  | 0x25 => if bitsAt w 0 6 = 0 then [a] else if bitsAt w 0 6 = 1 then [a, b] else [b]
  | 0x03 => [] | 0x0d => []
  | m => if m < 0x20 then [a] else []
/-- A word always issues alone (R222), on whichever tile. -/
def wordAlone (w : BitVec 32) : Bool := (decodeCore 0 w).any issuesAlone
/-- An instruction may issue behind the word `p` that issued last, in the same tclk (R222): `p` is no branch or jump, and does not always issue alone. -/
def mayFollow : Option (BitVec 32) → Bool
  | none => false
  | some p => !isBranch p && !wordAlone p
/-- The word `w` may be the second of a pair with the word `p` that issued last (R222). -/
def mayPair (p : Option (BitVec 32)) (w : BitVec 32) : Bool :=
  mayFollow p && !wordAlone w && !(p.any isSingle && isSingle w)
    && !((p.bind writesG).any fun g => g ∈ readsG w)

/-- Entry to the handler (R236): TILE_EPC, TILE_ECAUSE, TILE_EVAL, EXL and PC. -/
def enterHandler (t code : Nat) (second : Bool) (epc : Word) (eval : Nat) (s : State) : State :=
  let s := setReg (aTileEpc t) epc s
  let s := setReg (aTileEcause t) (BitVec.ofNat 64 (code + 256 * b2n second)) s
  let s := setReg (aTileEval t) (BitVec.ofNat 64 eval) s
  let s := putB (aTileCoreStatus t) 0 true s
  let s := modCore t (fun c => { c with resumed := false, last := none, pair := false }) s
  setPc t (reg s (aTileEvec t)) s

/-- A synchronous exception (R236). SECOND is 0 where R222 lets the instruction be no second of a pair; where it may be one, SECOND is a free value, since which of
the pairs issue together is timing (log entry 6). With EXL set it is a double fault and the core halts (R240). -/
def raiseWith (second : Bool) (t code eval : Nat) (s : State) : State :=
  if getB s (aTileCoreStatus t) 0 then
    logEvent (tileRec s t 0x14 2 0 ((ownerOf s t).elim 0 fun p => tileIndex s p t) (reg s (aTileEpc t)).toNat)
      (modCore t (fun c => { c with run := .dead }) (stick (aTileCoreStatus t) 3 s))
  else enterHandler t code (second && (Config.free s.freeCount).getLsbD 0) (getPc s t) eval (tickFree s)
/-- A synchronous exception of the instruction that issued last. -/
def raiseExc (t code eval : Nat) (s : State) : State := raiseWith (core s t).pair t code eval s

/-- The core of tile `t` may issue: it runs, no SYSW of it stalls, its partition is RUNNING, its quadrant is powered and no IDLE gates its clock (R67, R69, R459, R492, R524). -/
def canIssue (s : State) (t : Nat) : Bool :=
  decide ((core s t).run = .running) && (core s t).post.isNone && partRunning s t && decide ((tabGet {} (quadOf t) s.doms).st = .on)
    && decide (s.pwr.sleep ≠ .idle ∧ s.pwr.sleep ≠ .exiting 1)

/-- Put a line first in its set, keeping four ways (R217). -/
def icPut (t : Nat) (l : IcLine) (s : State) : State :=
  modCore t (fun c =>
    let set := tabGet [] (icSet l.line) c.icache
    { c with icache := tabPut (icSet l.line) ((l :: set.filter fun x => x.line ≠ l.line).take 4) c.icache }) s

/-- Fetch at the program counter (R217): `inl` after a FETCH exception, `inr` with the state to execute in. -/
def fetchWith (alone : Bool) (t : Nat) (s : State) : Sum State State :=
  let second := !alone && mayFollow (core s t).last
  let pc := (getPc s t).toNat
  if tileW s t < pc + 4 then .inl (raiseWith second t exFetch pc s)
  else
    let line := pc / 64
    match icFind s t line with
    | some l => .inr (icPut t l s)
    | none =>
      let a := pkgAddr t (64 * line)
      let s' := touchRange 0 a 64 s
      if anyBad s a 64 then .inl (raiseWith second t exFetch pc s')
      else .inr (icPut t ⟨line, memBytes s a 64⟩ s')
/-- The fetch of an instruction that may be the second of a pair. -/
def fetch (t : Nat) (s : State) : Sum State State := fetchWith false t s

/-- VX_RESUME.VALID and INDEX (R238). -/
def vxValid (s : State) (t : Nat) : Bool := getB s (aVxResume t) 8
def vxIndex (s : State) (t : Nat) : Nat := getF s (aVxResume t) 0 6

/-- An instruction with the word `w` issues (R222, R238). -/
def CoreSt.issued (w : BitVec 32) (c : CoreSt) : CoreSt := { c with resumed := false, last := some w, pair := mayPair c.last w }

/-- Issue an instruction of tile `t` that is not a vector memory instruction: fetch, then `f`. After RETX a resume that is still valid is dropped (R238). -/
def issue (t : Nat) (f : State → State) (s : State) : State :=
  if canIssue s t then
    match fetch t s with
    | .inl s' => s'
    | .inr s' =>
      let s' := if (core s' t).resumed ∧ vxValid s' t then putB (aVxResume t) 8 false s' else s'
      f (modCore t (CoreSt.issued (wordNext s t)) s')
  else s

/-- Issue an instruction that writes general register `d` and goes on to the next. -/
def issueG (t : Nat) (d : GReg) (v : State → Word) (s : State) : State := issue t (fun s => nextPc t (setG t d (v s) s)) s

/-! ### The instruction word (R217 to R222) -/

/-- A fetch at the program counter raises FETCH (R217). -/
def fetchFaults (s : State) (t : Nat) : Bool :=
  let pc := (getPc s t).toNat
  decide (tileW s t < pc + 4) || ((icFind s t (pc / 64)).isNone && anyBad s (pkgAddr t (64 * (pc / 64))) 64)
/-- The core of tile `t` issues `i` with the effect `f`: the fetch raises FETCH, the word is no instruction and raises ILLEGAL (R219), or the word spells `i`. The row of
another instruction than the one that the word spells is no event of the core, and has no effect (log entry 4). -/
def onWord (i : Instr) (t : Tile) (f : State → State) (s : State) : State :=
  if fetchFaults s t then
    (if canIssue s t then match fetchWith (issuesAlone i) t s with | .inl s' => s' | .inr s' => s' else s)
  else match decodeCore t (wordNext s t) with
    | none => issue t (raiseExc t exIllegal 0) s
    | some j => if j = i then f s else s

end Sys2Proof.Machine
end

