-- ==== Sys2Proof/Machine/Aes.lean ====
section
/-!
DEFINITION. Machine/Aes.lean: AES-128 and AES-256 (FIPS 197), and AES-XTS-256 over a 128-byte data unit (R314), as the replay generator (R478) and the board store use them.
-/
namespace Sys2Proof.Machine

def aesBox0 : List Nat := [0x63, 0x7c, 0x77, 0x7b, 0xf2, 0x6b, 0x6f, 0xc5, 0x30, 0x01, 0x67, 0x2b, 0xfe, 0xd7, 0xab, 0x76]
def aesBox1 : List Nat := [0xca, 0x82, 0xc9, 0x7d, 0xfa, 0x59, 0x47, 0xf0, 0xad, 0xd4, 0xa2, 0xaf, 0x9c, 0xa4, 0x72, 0xc0]
def aesBox2 : List Nat := [0xb7, 0xfd, 0x93, 0x26, 0x36, 0x3f, 0xf7, 0xcc, 0x34, 0xa5, 0xe5, 0xf1, 0x71, 0xd8, 0x31, 0x15]
def aesBox3 : List Nat := [0x04, 0xc7, 0x23, 0xc3, 0x18, 0x96, 0x05, 0x9a, 0x07, 0x12, 0x80, 0xe2, 0xeb, 0x27, 0xb2, 0x75]
def aesBox4 : List Nat := [0x09, 0x83, 0x2c, 0x1a, 0x1b, 0x6e, 0x5a, 0xa0, 0x52, 0x3b, 0xd6, 0xb3, 0x29, 0xe3, 0x2f, 0x84]
def aesBox5 : List Nat := [0x53, 0xd1, 0x00, 0xed, 0x20, 0xfc, 0xb1, 0x5b, 0x6a, 0xcb, 0xbe, 0x39, 0x4a, 0x4c, 0x58, 0xcf]
def aesBox6 : List Nat := [0xd0, 0xef, 0xaa, 0xfb, 0x43, 0x4d, 0x33, 0x85, 0x45, 0xf9, 0x02, 0x7f, 0x50, 0x3c, 0x9f, 0xa8]
def aesBox7 : List Nat := [0x51, 0xa3, 0x40, 0x8f, 0x92, 0x9d, 0x38, 0xf5, 0xbc, 0xb6, 0xda, 0x21, 0x10, 0xff, 0xf3, 0xd2]
def aesBox8 : List Nat := [0xcd, 0x0c, 0x13, 0xec, 0x5f, 0x97, 0x44, 0x17, 0xc4, 0xa7, 0x7e, 0x3d, 0x64, 0x5d, 0x19, 0x73]
def aesBox9 : List Nat := [0x60, 0x81, 0x4f, 0xdc, 0x22, 0x2a, 0x90, 0x88, 0x46, 0xee, 0xb8, 0x14, 0xde, 0x5e, 0x0b, 0xdb]
def aesBox10 : List Nat := [0xe0, 0x32, 0x3a, 0x0a, 0x49, 0x06, 0x24, 0x5c, 0xc2, 0xd3, 0xac, 0x62, 0x91, 0x95, 0xe4, 0x79]
def aesBox11 : List Nat := [0xe7, 0xc8, 0x37, 0x6d, 0x8d, 0xd5, 0x4e, 0xa9, 0x6c, 0x56, 0xf4, 0xea, 0x65, 0x7a, 0xae, 0x08]
def aesBox12 : List Nat := [0xba, 0x78, 0x25, 0x2e, 0x1c, 0xa6, 0xb4, 0xc6, 0xe8, 0xdd, 0x74, 0x1f, 0x4b, 0xbd, 0x8b, 0x8a]
def aesBox13 : List Nat := [0x70, 0x3e, 0xb5, 0x66, 0x48, 0x03, 0xf6, 0x0e, 0x61, 0x35, 0x57, 0xb9, 0x86, 0xc1, 0x1d, 0x9e]
def aesBox14 : List Nat := [0xe1, 0xf8, 0x98, 0x11, 0x69, 0xd9, 0x8e, 0x94, 0x9b, 0x1e, 0x87, 0xe9, 0xce, 0x55, 0x28, 0xdf]
def aesBox15 : List Nat := [0x8c, 0xa1, 0x89, 0x0d, 0xbf, 0xe6, 0x42, 0x68, 0x41, 0x99, 0x2d, 0x0f, 0xb0, 0x54, 0xbb, 0x16]
/-- The S-box. -/
def aesBox : List Nat := aesBox0 ++ aesBox1 ++ aesBox2 ++ aesBox3 ++ aesBox4 ++ aesBox5 ++ aesBox6 ++ aesBox7 ++ aesBox8 ++ aesBox9 ++ aesBox10 ++ aesBox11 ++ aesBox12 ++ aesBox13 ++ aesBox14 ++ aesBox15

/-- One substitution. -/
def aesSub (x : Nat) : Nat := aesBox.getD x 0
/-- One inverse substitution. -/
def aesSubInv (x : Nat) : Nat := aesBox.findIdx (· = x)
/-- Doubling in the field of 256 elements. -/
def aesX (a : Nat) : Nat := if a < 128 then 2 * a else (2 * a) ^^^ 0x11b
/-- Multiplication in the field of 256 elements by a constant below 16. -/
def aesMul (k a : Nat) : Nat :=
  let a2 := aesX a
  let a4 := aesX a2
  let a8 := aesX a4
  (if k % 2 = 1 then a else 0) ^^^ (if k / 2 % 2 = 1 then a2 else 0) ^^^ (if k / 4 % 2 = 1 then a4 else 0) ^^^ (if k / 8 % 2 = 1 then a8 else 0)

/-- Exclusive or of two lists of bytes. -/
def xorList (a b : List Nat) : List Nat := List.zipWith (· ^^^ ·) a b

/-- The round constant of step `i`, counted from 1. -/
def aesRcon : Nat → Nat
  | 0 => 0x8d
  | i + 1 => aesX (aesRcon i)

/-- The next word of a key schedule of `nk` key words, whose words so far are `ws`, newest first. -/
def aesNextWord (nk : Nat) (ws : List (List Nat)) : List Nat :=
  let i := ws.length
  let prev := ws.getD 0 []
  let back := ws.getD (nk - 1) []
  let t :=
    if i % nk = 0 then
      let r := (prev.drop 1 ++ prev.take 1).map aesSub
      match r with
      | x :: y => (x ^^^ aesRcon (i / nk)) :: y
      | [] => []
    else if 6 < nk ∧ i % nk = 4 then prev.map aesSub
    else prev
  xorList back t

/-- Key schedule words, newest first. -/
def aesExpand (nk : Nat) : Nat → List (List Nat) → List (List Nat)
  | 0, ws => ws
  | n + 1, ws => aesExpand nk n (aesNextWord nk ws :: ws)

/-- The cut of a list into pieces of `n`. -/
def cutBy (n : Nat) : Nat → List Nat → List (List Nat)
  | 0, _ => []
  | k + 1, l => l.take n :: cutBy n k (l.drop n)

/-- The round keys of a key, first round first. -/
def aesKeys (key : List Nat) : List (List Nat) :=
  let nk := key.length / 4
  let nr := nk + 6
  let ws := (aesExpand nk (4 * (nr + 1) - nk) (cutBy 4 nk key).reverse).reverse
  (List.range (nr + 1)).map fun r => ((ws.drop (4 * r)).take 4).flatten

/-- Byte `i` after ShiftRows comes from here. -/
def aesShift (i : Nat) : Nat := (i + 4 * (i % 4)) % 16
/-- Byte `i` after the inverse of ShiftRows comes from here. -/
def aesShiftInv (i : Nat) : Nat := (i + 16 - 4 * (i % 4)) % 16

/-- MixColumns with the given first row of coefficients. -/
def aesMix (co : List Nat) (s : List Nat) : List Nat :=
  (List.range 16).map fun i =>
    ((List.range 4).map fun j => aesMul (co.getD ((j + 4 - i % 4) % 4) 0) (s.getD (i / 4 * 4 + j) 0)).foldl (· ^^^ ·) 0

/-- Encryption of one block of 16 bytes. -/
def aesEnc (key blk : List Nat) : List Nat :=
  match aesKeys key with
  | [] => blk
  | k0 :: ks =>
    let n := ks.length
    (ks.foldl (fun (a : Nat × List Nat) k =>
      let sub := (List.range 16).map fun i => aesSub (a.2.getD (aesShift i) 0)
      let mixed := if a.1 + 1 = n then sub else aesMix [2, 3, 1, 1] sub
      (a.1 + 1, xorList mixed k)) (0, xorList blk k0)).2

/-- Decryption of one block of 16 bytes. -/
def aesDec (key blk : List Nat) : List Nat :=
  match (aesKeys key).reverse with
  | [] => blk
  | k0 :: ks =>
    let n := ks.length
    (ks.foldl (fun (a : Nat × List Nat) k =>
      let sub := (List.range 16).map fun i => aesSubInv (a.2.getD (aesShiftInv i) 0)
      let x := xorList sub k
      (a.1 + 1, if a.1 + 1 = n then x else aesMix [14, 11, 13, 9] x)) (0, xorList blk k0)).2

/-- The next tweak of XTS: multiplication by the primitive element. -/
def xtsNext (t : List Nat) : List Nat :=
  let v := t.foldr (fun b a => b + 256 * a) 0
  let w := if v < 2 ^ 127 then 2 * v else (2 * v % 2 ^ 128) ^^^ 0x87
  (List.range 16).map fun i => w / 256 ^ i % 256

/-- XTS over consecutive blocks from a tweak. -/
def xtsBlocks (f : List Nat → List Nat) : Nat → List Nat → List Nat → List Nat
  | 0, _, _ => []
  | n + 1, t, l => xorList (f (xorList (l.take 16) t)) t ++ xtsBlocks f n (xtsNext t) (l.drop 16)

/-- A list of bytes as numbers. -/
def natsOf (l : List Byte) : List Nat := l.map BitVec.toNat
/-- Numbers as bytes. -/
def bytesOf (l : List Nat) : List Byte := l.map (BitVec.ofNat 8)

/-- AES-XTS-256 encryption of a 128-byte line under a 64-byte key, the tweak being the line number, little-endian (R314). -/
def xtsEncLine (key : List Byte) (line : Nat) (d : List Byte) : List Byte :=
  let k := natsOf key
  bytesOf (xtsBlocks (aesEnc (k.take 32)) 8 (aesEnc (k.drop 32) (natsOf (leBytes 16 line))) (natsOf d))
/-- AES-XTS-256 decryption of a 128-byte line (R314). -/
def xtsDecLine (key : List Byte) (line : Nat) (d : List Byte) : List Byte :=
  let k := natsOf key
  bytesOf (xtsBlocks (aesDec (k.take 32)) 8 (aesEnc (k.drop 32) (natsOf (leBytes 16 line))) (natsOf d))

/-- The replay generator (R478): output block `b` for seed `k`, step `st` and stream number `q`, as a little-endian number. -/
def replayBlock (k : List Byte) (st q b : Nat) : Nat :=
  leVal (bytesOf (aesEnc (natsOf k) (natsOf (leBytes 16 (st * 2 ^ 64 + q % 2 ^ 24 * 2 ^ 40 + b)))))
/-- The 16-bit number of element `i` (R92, R478). -/
def replayBits (k : List Byte) (st q i : Nat) : Nat := fieldOf (replayBlock k st q (i / 8)) (16 * (i % 8)) 16

end Sys2Proof.Machine
end

