-- ==== Sys2Proof/Machine/NetOps.lean ====
section
/-!
DEFINITION. Machine/NetOps.lean: units and their states (R29 to R34, R346), transaction entries, epochs and responses (R340 to R351).
-/
namespace Sys2Proof.Machine

/-! ### Units -/

/-- The switched domain that holds the unit of a station (R492); the host port and family control are always on. -/
def domainOf (n : Nat) : Option Nat :=
  if n < 1088 then some (n / 68)
  else if n < 1092 then some (20 + (n - 1088))
  else if n < 1120 then some (24 + (n - 1092) / 7)
  else if n < 1132 then some 28
  else if n = 1132 then some 29
  else none
/-- The domain of the stacked memory of a die (R492). -/
def memDomain (d : Nat) : Nat := 16 + d
/-- The state of a domain. -/
def domSt (s : State) (n : Nat) : DomState := (tabGet {} n s.doms).st
/-- Change a domain. -/
def modDom (n : Nat) (f : DomSt → DomSt) (s : State) : State := { s with doms := tabSet {} n (f (tabGet {} n s.doms)) s.doms }
/-- The stations whose unit lies in a domain. -/
def domStations (n : Nat) : List Nat := (List.range 1133).filter fun x => domainOf x = some n

/-- A copy of the journal with this start's record as it is now. -/
def journalPut (now : JRec) (l : List JRec) : List JRec := if now.seq = 0 then l else match l with | _ :: r => now :: r | [] => [now]
/-- This start's record as the flash holds it: once BOOT_03 has opened it, in both copies, one after the other (R557, R558). -/
def saveRec (now : JRec) (s : State) : State :=
  { s with boot := { s.boot with now := now }, flash := { s.flash with journal := journalPut now s.flash.journal, copy := journalPut now s.flash.copy } }
/-- The copy of the journal that BOOT_03 reads: the one with the higher SEQ (R558). -/
def journalRead (f : FlashSt) : List JRec :=
  match f.journal, f.copy with
  | a :: _, b :: _ => if a.seq < b.seq then f.copy else f.journal
  | [], l => l
  | l, [] => l
/-- The journal of this start records a failure: the instance's bit of MASK (R312, R532, R535, R557). -/
def journalFail (step bit : Nat) (s : State) : State :=
  let e := tabGet {} step s.boot.now.steps
  saveRec { s.boot.now with steps := tabSet {} step { e with mask := e.mask ||| 2 ^ bit } s.boot.now.steps } s

/-- The station of a unit at level 0. -/
def tileUnit (t : Nat) : Nat := t
/-- A unit address whose level is not reserved and whose unnamed bits are 0 (R29, R31). -/
def unitForm (u : Nat) : Bool :=
  let i := u % 2 ^ 28
  match u / 2 ^ 28 with
  | 0 => decide (i < 1024)
  | 1 => decide (i < 16)
  | 2 => decide (i < 4)
  | 3 => decide (i < 2 ^ 20 ∨ i = 0xFFFFFFF)
  | 4 => decide (i < 2 ^ 16)
  | 5 => decide (i < 2 ^ 8)
  | _ => false
/-- A unit address names a unit of this package (R29 to R31), where the tiles of a failed quadrant are none (R31, R533); level 3 is this package only. -/
def unitExists (s : State) (u : Nat) : Bool :=
  let i := u % 2 ^ 28
  match u / 2 ^ 28 with
  | 0 => decide (i < 1024) && !s.failedQuads.contains (quadOf i) && decide (domSt s (quadOf i) ≠ .failed)
  | 1 => decide (i < 16)
  | 2 => decide (i < 4)
  | 3 => decide (i = 0xFFFFFFF)
  | _ => false
/-- The die whose edge carries a station beside the tiles (R329): sequencers, ports and channels by their attachment. -/
def stationDie (n : Nat) : Option Nat :=
  if n < 1088 then some (n / 272) else if n < 1092 then some (n - 1088) else none
/-- Whether the unit at address `u` contains the unit of station `n` (R32). -/
def unitHas (s : State) (u n : Nat) : Bool :=
  let i := u % 2 ^ 28
  match u / 2 ^ 28 with
  | 0 => stationTile s n = some i
  | 1 => decide (n < 1088) && decide (n / 68 = i)
  | 2 => stationDie n = some i
  | 3 => decide (n < 1133)
  | _ => false

/-- The partition that owns the unit of a station: of a tile, or of a port named by a PORT_MASK. -/
def stationOwner (s : State) (n : Nat) : Option Nat :=
  match stationTile s n with
  | some t => ownerOf s t
  | none =>
    if 1092 ≤ n ∧ n < 1120 then (s.parts.find? fun e => e.2.st ≠ .empty ∧ bitOf e.2.prec.portMask (n - 1092)).map (·.1) else none

/-- The station's unit is failed: its quadrant or channel is marked failed, the Solder map that BOOT_08 found leaves it unused, or it failed since
(R34, R307, R308, R347, R535). -/
def stnFailed (s : State) (n : Nat) : Bool :=
  s.failedStns.contains n || (decide (n < 1088) && (s.failedQuads.contains (n / 68) || (decide (8 < s.boot.step) && (stationTile s n).isNone)))
    || (decide (1120 ≤ n ∧ n < 1132) && decide ((tabGet {} (n - 1120) s.bst.chans).st = .failed))

/-- The state of a station's unit (R34, R346, R347). -/
def unitState (s : State) (n : Nat) : UnitState :=
  let d := (domainOf n).map (domSt s)
  if stnFailed s n ∨ d = some .failed then .failed
  else if s.resets.any fun u => unitHas s u n then .resetting
  else if d = some .draining then .draining
  else if d.isSome ∧ d ≠ some .on then .off
  else if ((stationOwner s n).map fun p => (part s p).st) = some .suspended then .suspended
  else .active
/-- The code of a unit state in NOC_NI_s. -/
def unitCode : UnitState → Nat
  | .active => 0 | .draining => 1 | .off => 2 | .resetting => 3 | .failed => 4 | .suspended => 5

/-! ### Entries -/

/-- The network interface of a station. -/
def niOf (s : State) (n : Nat) : NiSt := tabGet {} n s.ni
/-- Change the network interface of a station. -/
def modNi (n : Nat) (f : NiSt → NiSt) (s : State) : State := { s with ni := tabSet {} n (f (niOf s n)) s.ni }
/-- An entry. -/
def entryOf (s : State) (n x : Nat) : Option NiEntry := tabFind x (niOf s n).entries
/-- Put an entry. -/
def putEntry (n x : Nat) (e : NiEntry) (s : State) : State := modNi n (fun i => { i with entries := tabPut x e i.entries }) s
/-- Free an entry. -/
def freeEntry (n x : Nat) (s : State) : State := modNi n (fun i => { i with entries := tabDel x i.entries }) s
/-- The entries that a station holds at most (R340). -/
def entryCap (s : State) (n : Nat) : Nat :=
  if n < 1088 then (if (stationTile s n).isSome then 32 else 0)
  else if n < 1092 then 1024 else if n < 1120 then 256 else if n < 1132 then 0
  else if n = 1132 then 16384 else if n = 1133 then 4096 else if n = 1134 then 1024 else 0
/-- The lowest free TXID of a station. -/
def freeTxid (s : State) (n : Nat) : Nat := ((List.range (entryCap s n + 1)).find? fun x => (entryOf s n x).isNone).getD 0

/-- NOC_NI_s as it reads. -/
def niView (s : State) (n : Nat) : Nat :=
  let i := niOf s n
  unitCode (unitState s n) + 2 ^ 8 * i.epoch + 2 ^ 16 * i.entries.length + 2 ^ 32 * i.entries.countP (fun e => e.2.quar)

/-! ### NOC events (R342, R344, R351, R353) -/

/-- An event of NOC_STATUS: bit `b`, NOC_ERR_INFO cause `b + 1`. -/
def nocEvent (b src dst op txid : Nat) (s : State) : State :=
  let first := getF s aNocStatus 0 4 = 0
  let s := if first then
    setReg aNocErrInfo (BitVec.ofNat 64 (src + 2 ^ 16 * dst + 2 ^ 32 * op + 2 ^ 40 * (b + 1) + 2 ^ 48 * txid)) s else s
  stick aNocStatus b s

/-- A packet's header as far as it can be read: a field whose word was uncorrectable reads 0 (R353). -/
def headerSeen (q : Packet) : Packet :=
  match q.way.hdr with
  | .ue w =>
    let q := if w.getLsbD 0 then { q with opcode := 0, tag := 0, txid := 0 } else q
    if w.getLsbD 1 then { q with srcStn := 0, dstStn := 0, dstUnit := 0 } else q
  | _ => q
/-- A packet whose header is damaged is discarded by the next router (R351, R353, R595). -/
def dropHeader (q : Packet) (s : State) : State :=
  let b := match q.way.hdr with | .ue _ => 2 | _ => 3
  let h := headerSeen q
  logEvent { event := 0x08, sev := 1, tag := h.tag.toNat, station := h.srcStn.toNat, unit := h.dstUnit.toNat, detail := b + 1 }
    (nocEvent b h.srcStn.toNat h.dstStn.toNat h.opcode.toNat h.txid.toNat s)
/-- The single-bit errors corrected on a packet's way are counted (R351). -/
def countCorrected (w : Transit) (s : State) : State :=
  if w.corrected = 0 then s else logEvent { event := 0x07, sev := 0 } (bump aNocCeCount w.corrected aNocStatus 4 s)

/-- What happened on their way to packets of the unit of station `n` (R351): corrected errors are counted, and a packet with a damaged header is discarded and logged. -/
def packetsHurt (n : Nat) (l : List Packet) (s : State) : State :=
  (l.filter fun p => decide (p.srcStn.toNat = n ∨ p.dstStn.toNat = n)).foldl (fun s p => let s := countCorrected p.way s; if p.way.hdr = .ok then s else dropHeader p s) s

/-- A dropped response (R344). -/
def staleDrop (p : Packet) (s : State) : State :=
  bump aNocStaleDrops 1 aNocStatus 4 (nocEvent 1 p.srcStn.toNat p.dstStn.toNat p.opcode.toNat p.txid.toNat s)

/-! ### Requests and responses -/

/-- A fresh retry-after hint of at least `lo` ticks, where the spec leaves the estimate open (R251, R426, and R346 for a unit that resets while no clock of it runs). -/
def hintOf (s : State) (lo : Nat) : Nat := max lo ((Config.free s.freeCount).toNat % 2 ^ 32)

/-- The response to a request (R331, R343). -/
def rspOf (s : State) (n : Nat) (q : Packet) (code : Byte) (data : List Byte) (poison hint : Nat) : Packet :=
  { vc := if q.vc = 0 then 0 else 2, opcode := 0x10, dflits := BitVec.ofNat 4 (if data.isEmpty then 0 else ceilDiv (q.addr.toNat % 64 + data.length) 64),
    tag := q.tag, reqEpoch := q.reqEpoch, rspEpoch := BitVec.ofNat 8 (niOf s n).epoch, code := code, txid := q.txid, srcStn := BitVec.ofNat 11 n,
    dstStn := q.srcStn, dstUnit := q.dstUnit, addr := q.addr, bytesM1 := q.bytesM1, poison := BitVec.ofNat 8 poison,
    retryAfter := BitVec.ofNat 32 (if code = cDefer then hint else 0) }

/-- The unit of station `n` answers a request that it accepted in epoch `ep`; its NI drops a response of an earlier epoch (R333, R343, R344). -/
def answerAs (ep n : Nat) (q : Packet) (code : Byte) (data : List Byte) (poison hint : Nat) (s : State) : State :=
  let r := { rspOf s n q code data poison hint with rspEpoch := BitVec.ofNat 8 ep }
  if ep ≠ (niOf s n).epoch then staleDrop r s
  else
    let s' := { s with sent := .packet r data :: s.sent }
    match entryOf s' q.srcStn.toNat q.txid.toNat with
    | some e => if e.req.reqEpoch = q.reqEpoch then putEntry q.srcStn.toNat q.txid.toNat { e with waiting := false, flight := false } s' else s'
    | none => s'
/-- The unit of station `n` answers a request that it accepted in its present epoch. -/
def answer (n : Nat) (q : Packet) (code : Byte) (data : List Byte) (poison hint : Nat) (s : State) : State :=
  answerAs (niOf s n).epoch n q code data poison hint s

/-- The record of an event that concerns a request at its target. -/
def reqRec (n : Nat) (q : Packet) (ev : Nat) (code : Byte) (detail : Nat) : LogRec :=
  { event := ev, sev := 1, tag := q.tag.toNat, code := code.toNat, station := n, unit := q.dstUnit.toNat, detail := detail, addr := if ev = 0x01 then 0 else q.addr.toNat }

/-- The unit address names no unit, or one that R31 treats as permanently off: the request is refused and logged. -/
def unitRefuse (q : Packet) (s : State) : State :=
  answer q.dstStn.toNat q cOff [] 0 0 (logEvent (reqRec q.dstStn.toNat q 0x01 cOff 0) s)

/-- Partition `p` has work at the unit of station `n` that originates requests for several: a command that a sequencer executes, or a collective that runs. -/
def worksFor (s : State) (n p : Nat) : Bool :=
  if n < 1092 then ((tabGet {} (n - 1088) s.solv).cmds.any fun c => c.running && decide (c.part = p)) else (tabGet {} p s.coll.parts).run.isSome
/-- The tag that an NI puts on a request (R71): a tile carries its owner's; a sequencer or the collective engine that of the partition whose command or
collective it serves, and the package's otherwise; the host port and family control the package's (R568). A port keeps the tag of a packet from its link, or
replaces it by its owner's where its role is HOST_ADAPTER or STORAGE (R377). -/
def tagFor (s : State) (q : Packet) : BitVec 7 :=
  let n := q.srcStn.toNat
  if n < 1088 ∨ (1092 ≤ n ∧ n < 1120 ∧ 4 ≤ (tabGet {} (n - 1092) s.ports).role) then BitVec.ofNat 7 ((stationOwner s n).getD 0x40)
  else if n < 1092 ∨ n = 1132 then (if q.tag ≠ 0x40 ∧ !worksFor s n q.tag.toNat then 0x40 else q.tag)
  else if 1120 ≤ n then 0x40
  else q.tag

/-- The data flits of a request of opcode `op` (R332, R333). -/
def flitCount (op : Nat) (q : Packet) : Nat := if carriesData op then ceilDiv (q.addr.toNat % 64 + q.bytesM1.toNat + 1) 64 else 0
/-- The request as its originator's NI sends it: opcode of the row with its VC and its data flits (R332), tag and epoch of the originator. -/
def stamped (s : State) (op : Nat) (q : Packet) : Packet :=
  { q with
    vc := BitVec.ofNat 2 (vcOf op), opcode := BitVec.ofNat 6 op, dflits := BitVec.ofNat 4 (flitCount op q)
    poison := BitVec.ofNat 8 (q.poison.toNat % 2 ^ flitCount op q)
    tag := tagFor s q, reqEpoch := BitVec.ofNat 8 (niOf s q.srcStn.toNat).epoch, rspEpoch := 0, code := 0, retryAfter := 0 }

/-- The NI of a station takes no new request from its unit: it has no free entry (R340), or the unit drains, is off, in reset or failed and so originates
nothing (R34, R347). -/
def niStalled (s : State) (n : Nat) : Bool :=
  decide (entryCap s n ≤ (niOf s n).entries.length) || decide (unitState s n ≠ .active ∧ unitState s n ≠ .suspended)
/-- A request is for the unit that another one of the same entry is for, at its station, or over a port, whose route may have changed meanwhile (R341, R404). -/
def sameTarget (a b : Packet) : Bool :=
  let viaPort (n : Nat) : Bool := decide (1092 ≤ n ∧ n < 1120)
  decide (a.dstStn = b.dstStn) || (decide (a.dstUnit = b.dstUnit) && viaPort a.dstStn.toNat && viaPort b.dstStn.toNat)
/-- The entry of a request at its originator (R340, R341): the one whose packet is on its way or whose answer was DEFER, or a new one; `none` where the TXID is
held by another request or the NI stalls. The cache of a tile stays in service and sends its channel requests (R298). -/
def openEntry (q : Packet) (data : List Byte) (s : State) : Option State :=
  let n := q.srcStn.toNat
  let x := q.txid.toNat
  match entryOf s n x with
  | some e =>
    if e.quar ∨ !(e.flight || e.deferred) ∨ !sameTarget e.req q ∨ e.req.opcode ≠ q.opcode ∨ e.req.addr ≠ q.addr then none
    else some (putEntry n x { e with deferred := false, flight := false, waiting := true } s)
  | none =>
    if entryCap s n ≤ (niOf s n).entries.length ∨ (q.opcode ≠ 5 ∧ q.opcode ≠ 6 ∧ niStalled s n) then none
    else some (putEntry n x { req := q, data := data, first := s.tick, waiting := true, use := if q.opcode = 7 then .post else .plain } s)

/-- A request whose header is damaged on the way is discarded (R351); its entry then waits for R342. -/
def discardHeader (q : Packet) (s : State) : State :=
  let s := dropHeader q s
  match entryOf s q.srcStn.toNat q.txid.toNat with
  | some e => putEntry q.srcStn.toNat q.txid.toNat { e with waiting := false, flight := false } s
  | none => s

/-- A request of opcode `op` travels to its target's NI; `f` serves it there once the header is sound (R346 is `f`'s). -/
def arrive (op : Nat) (q : Packet) (data : List Byte) (f : Packet → State → State) (s : State) : State :=
  let q := stamped s op q
  match openEntry q data s with
  | none => s
  | some s =>
    let s := countCorrected q.way s
    if q.way.hdr ≠ .ok ∨ 1135 ≤ q.dstStn.toNat ∨ 512 < q.addr.toNat % 64 + q.bytesM1.toNat + 1 then discardHeader q s
    else f q s

/-- Wake-on-access of a domain (R348, WAKE_EN of PWR_DOM_n); not while THERM_STOP is set (R517, R518), nor in the safe state (R555). -/
def wakeEnabled (s : State) (n : Nat) : Bool := getB s (aPwrDom n) 3 && !getB s aPwrTherm 0 && decide (s.boot.now.outcome ≠ 3)
/-- Begin to power a domain up; a drain in progress is cancelled (R493). -/
def powerUp (n : Nat) (s : State) : State :=
  match domSt s n with
  | .off => modDom n (fun d => { d with st := .ramping }) s
  | .draining => modDom n (fun d => { d with st := .on }) s
  | _ => s

/-! ### Wake causes (R528, R529) -/

/-- The channels in state `a` take state `b` (R308, R325). -/
def moveChans (a b : ChanState) (s : State) : State :=
  { s with bst := { s.bst with chans := s.bst.chans.map fun e => (e.1, if e.2.st = a then { e.2 with st := b } else e.2) } }
/-- The present channels train from the beginning of BOOT_11 or of the exit from Dark (STATE 3 of BST_CHAN_c, R308, R527); a failed one stays so. -/
def beginTraining (s : State) : State :=
  let go (c : Nat) (t : Tab ChanSt) : Tab ChanSt := let x := tabGet {} c t; if x.st = .failed then t else tabSet {} c { x with st := .training } t
  { s with bst := { s.bst with chans := ((List.range 12).filter fun c => bitOf s.bst.present c).foldl (fun t c => go c t) s.bst.chans } }
/-- The exit from a package state begins (R325, R526, R527, R529): what is in retention or gated returns, what is off begins to ramp, a drain is cancelled, and the channels
retrain on the exit from Dark. -/
def beginExit (k : Nat) (s : State) : State :=
  let s := { s with pwr := { s.pwr with sleep := .exiting k }, bst := { s.bst with selfRefresh := false } }
  let back (n : Nat) (s : State) : State :=
    match domSt s n with
    | .retention => modDom n (fun d => { d with st := .on }) s
    | .gated => modDom n (fun d => { d with st := .on }) s
    | .draining => modDom n (fun d => { d with st := .on }) s
    | _ => s
  let s := (List.range 30).foldl (fun s n => back n s) s
  if k = 2 then s.pwr.wasOn.foldl (fun s n => powerUp n s) s
  else if k = 3 then
    let s := (List.range 4).foldl (fun s d => powerUp (memDomain d) s) s
    let s := if s.bst.present = 0 ∨ domSt s 28 ≠ .off then s else beginTraining (powerUp 28 s)
    match s.board.bootPort with | some n => powerUp (24 + n / 7) s | none => s
  else s

/-- A sleep record of R522. -/
def sleepRec (kind slot term agr x : Nat) : List Byte :=
  leBytes 1 kind ++ leBytes 1 slot ++ leBytes 2 term ++ leBytes 2 agr ++ leBytes 2 x ++ List.replicate 24 0

/-- The package leaves the state that it is in or enters; an exit under way goes on (R529). -/
def wakeNow (s : State) : State :=
  match s.pwr.sleep with
  | .active => s
  | .exiting _ => s
  | .idle => beginExit 1 s
  | .pewter => beginExit 2 s
  | .dark => beginExit 3 s
  | .entering k => beginExit k s
/-- BAR and LINK cannot arise in Dark (R528). -/
def cannotArise (b : Nat) (s : State) : Bool := decide (s.pwr.sleep = .dark ∧ (b = 1 ∨ b = 2))
/-- A wake cause (R528 to R530), by its bit of PWR_WAKE_CAUSE: ignored while THERM_STOP is set (R518), held by a PREPARED member, which tells the manager; a manager aborts
its agreement. It is taken once. -/
def wakeCause (b : Nat) (s : State) : State :=
  if getB s aPwrTherm 0 || cannotArise b s then s
  else
    let s := putB aPwrWakeCause b true s
    if s.pwr.prepared.isNone then wakeNow s
    else if s.pwr.wakeHeld then s
    else
      let own := s.cell.slot.getD 31
      let r := sleepRec 7 own s.pwr.agrTerm s.pwr.agr 0
      let tell (l : List Nat) (x : PwrSt) : State :=
        { s with sent := l.map (fun k => Msg.cellRec k r) ++ s.sent, cell := { s.cell with outq := s.cell.outq ++ l.map fun k => (k, r) }, pwr := x }
      if s.pwr.votes.isSome then wakeNow (tell (s.pwr.asked.filter (· ≠ own)) { s.pwr with votes := none, prepared := none })
      else tell [s.pwr.agrMgr] { s.pwr with wakeHeld := true }

/-- The cause that a request is (R528): over a fabric port LINK, from the host port BAR, otherwise LOCAL. -/
def wakeBitOf (q : Packet) : Nat := let n := q.srcStn.toNat; if 1092 ≤ n ∧ n < 1120 then 2 else if n = 1133 then 1 else 3
/-- The time from the start of a domain's ramp until its units read ACTIVE, in ticks (R492). -/
def readyTicks (d : Nat) : Nat :=
  if d < 16 then 70000 else if d < 20 then 20000 else if d < 24 then 10000 else if d < 28 then 30000 else if d = 28 then 20000 else 10000
/-- The exit latency of the state that the package is in or enters, in ticks (R524). -/
def exitTicks (s : State) : Nat :=
  match s.pwr.sleep with
  | .active => 0
  | .idle => 2000
  | .exiting 1 => 2000
  | .pewter => 350000
  | .dark => 60000000
  | .entering k => if k = 3 then 60000000 else 350000
  | .exiting k => if k = 3 then 60000000 else 350000
/-- The hint of a DEFER for a wake of domain `d` (R346): its exit latency, with the package's where it sleeps. -/
def wakeTicks (s : State) (d : Nat) : Nat := max (readyTicks d) (exitTicks s)
/-- A request of an entry is outstanding in domain `d`: its originator's or its target's station lies there (R347). -/
def inDomain (d n : Nat) (e : NiEntry) : Bool :=
  !e.quar && !e.deferred && (decide (domainOf n = some d) || (e.waiting && decide (domainOf e.req.dstStn.toNat = some d)))
/-- The remaining drain time of domain `d` (R493) for a request of station `n` under TXID `x`, which is not itself outstanding there: the time left on the transaction timeout
of the oldest request outstanding in it, and at least 256 ticks. -/
def drainTicks (s : State) (d n x : Nat) : Nat :=
  let ages := s.ni.flatMap fun i => (i.2.entries.filter fun e => inDomain d i.1 e.2 && !(decide (i.1 = n) && decide (e.1 = x))).map fun e => ticksAfter s.tick e.2.first
  match ages with
  | [] => 256
  | a :: r => max 256 (1000 * getF s aNocCtrl 0 14 - r.foldl max a)
/-- The remaining reset time of the unit of station `n` in ticks (R346, R549), for the resets of tiles, quadrants and dies, in the tclk of the die's PLL and for a die also the
1,200 MHz of sclk; `none` while the PLL does not run. -/
def resetTicks (s : State) (n : Nat) : Option Nat :=
  let left (u : Nat) : Option Nat :=
    let i := u % 2 ^ 28
    let d := if u / 2 ^ 28 = 0 then dieOf i else if u / 2 ^ 28 = 1 then i / 4 else i
    let f := (tabGet {} d s.plls).mhz
    let total := max (600 * 2 ^ (u / 2 ^ 28) * 1000 / f) (if u / 2 ^ 28 = 2 then 2000 * 10 / 12 else 0)
    if f = 0 then none else some (total - ticksAfter s.tick (tabGet s.tick u s.resetAt))
  (s.resets.filter fun u => unitHas s u n).foldl (fun m u => match m, left u with | some a, some b => some (max a b) | _, _ => none) (some 256)
/-- A wake cause for a domain that is DRAINING cancels its drain (R493): of the causes of R528 only a BAR2 access is one for a unit that is not off. -/
def cancelDrain (d b : Nat) (s : State) : State := if b = 1 ∧ !getB s aPwrTherm 0 then powerUp d (wakeCause b s) else s
/-- The unit's clock is gated for IDLE (R524, R545). -/
def idleGated (s : State) (n : Nat) : Bool :=
  (decide (n < 1092) || decide (n = 1132)) && (match s.pwr.sleep with | .idle => true | .exiting 1 => true | _ => false)

/-- The tiles, the sequencers and the engines have no clock (R524): in IDLE, PEWTER and DARK, and until their exits are over. -/
def engineGated (s : State) : Bool := match s.pwr.sleep with | .active => false | .entering _ => false | _ => true
/-- A wake cause reaches a unit while it resets: it is held until the reset ends (R551). -/
def holdWake (n b : Nat) (s : State) : State := if s.heldWakes.contains (n, b) then s else { s with heldWakes := s.heldWakes ++ [(n, b)] }
/-- The answer of an NI for a unit that is not active (R34, R346, R348), or during a warm reset until the host port answers again (R547): the code, the hint,
and the state after what the request wakes; `b` is the wake cause that it is, and `who` its station and TXID. `none` where the unit serves the request. -/
def unitGateFor (who : Nat × Nat) (n b : Nat) (s : State) : Option (Byte × Nat × State) :=
  if !s.boot.cold && !s.boot.ended && decide (s.boot.step ≤ 13) then some (cDefer, hintOf s 256, tickFree s) else
  match unitState s n with
  | .active => if idleGated s n then some (cDefer, exitTicks s, wakeCause b s) else none
  | .draining => let d := (domainOf n).getD 0; some (cDefer, drainTicks s d who.1 who.2, cancelDrain d b s)
  | .resetting => some (match resetTicks s n with | some k => (cDefer, k, holdWake n b s) | none => (cDefer, hintOf s 256, tickFree (holdWake n b s)))
  | .failed => some (cOff, 0, s)
  | .suspended => some (cPart, 0, s)
  | .off =>
    match domainOf n with
    | some d =>
      if domSt s d = .ramping then some (cDefer, wakeTicks s d, s)
      else if wakeEnabled s d then some (cDefer, wakeTicks s d, powerUp d (wakeCause b s))
      else some (cOff, 0, s)
    | none => none
/-- The gate for an access that holds no entry of its own yet. -/
def unitGate (n b : Nat) (s : State) : Option (Byte × Nat × State) := unitGateFor (2047, 0) n b s
/-- The stacked memory with the cache of a tile's station is in service, or the answer for it (R34, R298, R348). -/
def memGateFor (who : Nat × Nat) (n b : Nat) (s : State) : Option (Byte × Nat × State) :=
  let d := memDomain (n / 272)
  if !s.boot.cold && !s.boot.ended && decide (s.boot.step ≤ 13) then some (cDefer, hintOf s 256, tickFree s) else
  match domSt s d with
  | .on => if idleGated s n then some (cDefer, exitTicks s, wakeCause b s) else none
  | .failed => some (cOff, 0, s)
  | .draining => some (cDefer, drainTicks s d who.1 who.2, cancelDrain d b s)
  | .ramping => some (cDefer, wakeTicks s d, s)
  | .retention => some (cDefer, wakeTicks s d, wakeCause b s)
  | _ => if wakeEnabled s d then some (cDefer, wakeTicks s d, powerUp d (wakeCause b s)) else some (cOff, 0, s)
/-- The gate for an access that holds no entry of its own yet. -/
def memGate (n b : Nat) (s : State) : Option (Byte × Nat × State) := memGateFor (2047, 0) n b s
/-- The station and TXID of a request. -/
def whoOf (q : Packet) : Nat × Nat := (q.srcStn.toNat, q.txid.toNat)
/-- Answer a request with what a gate gives. -/
def gateAnswer (n : Nat) (q : Packet) (x : Byte × Nat × State) : State := answer n q x.1 [] 0 x.2.1 x.2.2
/-- The answer of a station's NI for its unit; `none` where the unit serves the request (R346). -/
def gateUnit (n : Nat) (q : Packet) (s : State) : Option State := (unitGateFor (whoOf q) n (wakeBitOf q) s).map (gateAnswer n q)

/-- The post whose POST the NI of station `n` sent under a TXID is gone. -/
def dropPost (n x : Nat) (s : State) : State := { s with posts := s.posts.filter fun p => decide (tileStation s p.tile ≠ n) || decide (p.txid ≠ some x) }
/-- An originator's NI completes a request itself (R342): the entry is quarantined, or released when no request of it is outstanding; a post that it carried ends. -/
def ownComplete (n x : Nat) (code : Byte) (s : State) : State :=
  match entryOf s n x with
  | none => s
  | some e =>
    if e.quar then s
    else
      let s := { s with sent := .done n x code :: s.sent }
      let s := if e.use = .post then dropPost n x s else s
      if e.deferred then freeEntry n x s else putEntry n x { e with quar := true, waiting := false, flight := false } s

/-- Complete every outstanding request of a partition with TIMEOUT (R70). -/
def timeoutRequests (p : Nat) (s : State) : State :=
  (s.ni.flatMap fun i => (i.2.entries.filter fun e => e.2.req.tag.toNat = p && !e.2.quar).map fun e => (i.1, e.1)).foldl
    (fun s k => ownComplete k.1 k.2 cTimeout s) s

/-- A unit's NI completes every request outstanding to it with a code (R345, R535); at a reset it frees the quarantine of requests to it (R342). -/
def endStation (code : Byte) (n : Nat) (s : State) : State :=
  let hit := s.ni.flatMap fun i => (i.2.entries.filter fun e => e.2.req.dstStn.toNat = n).map fun e => (i.1, e.1, e.2)
  hit.foldl (fun s k =>
    if k.2.2.quar then (if code = cReset then freeEntry k.1 k.2.1 s else s)
    else if k.2.2.waiting then answer n k.2.2.req code [] 0 0 s else s) s
/-- A unit's NI completes every request outstanding to it with UNIT_RESET, frees the entries it originated and the quarantine of requests to it,
and takes the next epoch (R33, R342, R345). -/
def resetStation (n : Nat) (s : State) : State :=
  modNi n (fun i => { entries := [], epoch := (i.epoch + 1) % 256 }) (endStation cReset n s)
/-- A unit whose clock has stopped is FAILED until the next start (R535). -/
def failStation (n : Nat) (s : State) : State :=
  let s := modNi n (fun i => { i with epoch := (i.epoch + 1) % 256 }) (endStation cTimeout n s)
  if s.failedStns.contains n then s else { s with failedStns := n :: s.failedStns }

end Sys2Proof.Machine
end

