-- ==== Sys2Proof/Machine/BstOps.lean ====
section
/-!
DEFINITION. Machine/BstOps.lean: the board store and its cache (R306 to R325, R604).
-/
namespace Sys2Proof.Machine

/-- Change the board store. -/
def modBst (f : BstSt → BstSt) (s : State) : State := { s with bst := f s.bst }

/-- The active channels in order (R309). -/
def activeChans (s : State) : List Nat := (List.range 12).filter fun c => (tabGet {} c s.bst.chans).st = .trained
/-- The capacity of a channel in bytes (R306). -/
def chanBytes (s : State) : Nat :=
  (if s.bst.density = 1 then 2 * 2 ^ 30 else if s.bst.density = 2 then 3 * 2 ^ 30 else 0) * (if s.bst.clamshell then 2 else 1)
/-- The capacity of the board store (R309). -/
def bstCapacity (s : State) : Nat := (activeChans s).length * chanBytes s
/-- The channel of line `A` (R309). -/
def lineChan (s : State) (A : Nat) : Nat := (activeChans s).getD (A % (activeChans s).length) 0
/-- The device byte address of line `A`: channel and channel byte (R309). -/
def lineDev (s : State) (A : Nat) : Nat := lineChan s A * 2 ^ 33 + A / (activeChans s).length * 128

/-- The partition whose board-store region holds line `A` (R74, R314). -/
def linePart (s : State) (A : Nat) : Option Nat :=
  (s.parts.find? fun e => e.2.st ≠ .empty && decide (e.2.prec.bstBase ≤ 128 * A) && decide (128 * A < e.2.prec.bstBase + e.2.prec.bstSize)).map (·.1)
/-- The key slot of line `A` (R314). -/
def lineSlot (s : State) (A : Nat) : Nat := match linePart s A with | some p => (part s p).prec.keyId | none => 64
/-- The key of a slot. -/
def slotKey (s : State) (k : Nat) : List Byte := slice (tabGet [] k s.keys) 0 64

/-- The ciphertext of a line; a byte that nothing has written since the contents were lost is unspecified (R517, R548). -/
def devLine (s : State) (A : Nat) : List Byte :=
  (List.range 128).map fun i => (tabFind (lineDev s A + i) s.bst.dev).getD (Config.freeByte s.bst.devGen (lineDev s A + i))
/-- A line as read from the devices (R315). -/
def readDev (s : State) (A : Nat) : List Byte := xtsDecLine (slotKey s (lineSlot s A)) A (devLine s A)
/-- A whole line written to the devices under a key; a lost write of it ends (R312, R315). -/
def writeDevKey (key : List Byte) (A : Nat) (bs : List Byte) (s : State) : State :=
  let a := lineDev s A
  let ct := xtsEncLine key A bs
  modBst (fun b => { b with
    dev := (List.range 128).foldl (fun d i => tabPut (a + i) (ct.getD i 0) d) b.dev
    lost := b.lost.filter (· ≠ A) }) s
/-- A whole line written under its slot's key. -/
def writeDev (A : Nat) (bs : List Byte) (s : State) : State := writeDevKey (slotKey s (lineSlot s A)) A bs s

/-- The event of a line (R595). -/
def bstRec (s : State) (A detail : Nat) : LogRec :=
  { event := 0x09, sev := 1, tag := (linePart s A).getD 0x40, code := cPoison.toNat, station := 1120 + lineChan s A, detail := lineChan s A + detail, addr := 128 * A }

/-- Enter a line in the lost-write table (R312, R604): `true` where it is in it. An entry that fills the table marks the line's channel failed in the boot journal,
so that the next start skips it (R308, R312). -/
def loseLine (A : Nat) (s : State) : State × Bool :=
  if s.bst.lost.contains A then (s, true)
  else if 64 ≤ s.bst.lost.length then (logEvent (bstRec s A 256) (stick aBstStatus 1 s), false)
  else
    let s := modBst (fun b => { b with lost := b.lost ++ [A] }) s
    (if 64 ≤ s.bst.lost.length then stick aBstStatus 1 (journalFail 11 (lineChan s A) s) else s, true)

/-- The check of the next burst that the model carries out within one command: its three attempts do not all fail (R312, log entry 17). -/
def burstOk (A : Nat) (s : State) : State × Bool :=
  let c := lineChan s A
  match (tabGet {} c s.bst.chans).edc with
  | [] => (s, true)
  | b :: r => (modBst (fun x => { x with chans := tabSet {} c { tabGet {} c x.chans with edc := r } x.chans }) s, b)
/-- The burst of a whole-line write: `false` where the write is lost without an entry in the lost-write table (R312, R595). -/
def chanStore (key : List Byte) (A : Nat) (bs : List Byte) (s : State) : State × Bool :=
  match burstOk A s with
  | (s, true) => (writeDevKey key A bs s, true)
  | (s, false) => match loseLine A (stick aBstStatus 0 s) with | (s, true) => (logEvent (bstRec s A 0) s, true) | (s, false) => (s, false)

/-- A channel access is possible: the PHY domain is on and a channel is active (R325). -/
def phyReady (s : State) : Bool := decide (domSt s 28 = .on) && !(activeChans s).isEmpty
/-- The answer for an access that needs a channel while the PHY is off (R325, R348): its code, after asking for the domain where it may wake. -/
def phyRefuse (s : State) : State × Byte :=
  if domSt s 28 = .ramping ∨ domSt s 28 = .draining then (s, cDefer)
  else if domSt s 28 = .retention then (wakeCause 3 s, cDefer)
  else if domSt s 28 = .off ∧ wakeEnabled s 28 then (powerUp 28 s, cDefer) else (s, cOff)
/-- The hint of that answer to the request of station and TXID `who` (R346, R493). -/
def phyTicks (who : Nat × Nat) (s : State) : Nat := if domSt s 28 = .draining then drainTicks s 28 who.1 who.2 else wakeTicks s 28

/-! ### Sets and ways -/

/-- All sets of the cache (R316). -/
def totalSets (s : State) : Nat := (availTiles s).length * 128 * s.bst.units
/-- The region of partition `p`: first set and count. -/
def regionOf (s : State) (p : Nat) : Nat × Nat := match s.bst.regions.find? fun r => r.1 = p with | some r => r.2 | none => (0, 0)
/-- The set of a line (R318). -/
def lineSet (s : State) (A : Nat) : Option Nat :=
  match linePart s A with
  | some p => let r := regionOf s p; if r.2 = 0 then none else some (r.1 + A % r.2)
  | none => if s.bst.poolSize = 0 then none else some (s.bst.poolBase + A % s.bst.poolSize)
/-- The package scratchpad address of a way of a set (R316, R319). -/
def wayAddr (s : State) (j w : Nat) : Nat :=
  let av := availTiles s
  pkgAddr (av.getD (j % av.length) 0) (sliceBytes - cacheBytes s + 2048 * (j / av.length) + 128 * w)
/-- The tile of a set. -/
def setTile (s : State) (j : Nat) : Nat := (availTiles s).getD (j % (availTiles s).length) 0
/-- A set. -/
def setOf (s : State) (j : Nat) : CacheSet := tabGet {} j s.bst.sets
/-- Change a set. -/
def modSet (j : Nat) (f : CacheSet → CacheSet) (s : State) : State := modBst (fun b => { b with sets := tabSet {} j (f (tabGet {} j b.sets)) b.sets }) s
/-- The way of a set that holds line `A`. -/
def findWay (s : State) (j A : Nat) : Option Nat := ((setOf s j).ways.find? fun e => e.2.line = A).map (·.1)
/-- Make a way most recent. -/
def touchWay (j w : Nat) (s : State) : State := modSet j (fun c => { c with order := w :: c.order.filter (· ≠ w) }) s
/-- Invalidate a way. -/
def dropWay (j w : Nat) (s : State) : State := modSet j (fun c => { ways := tabDel w c.ways, order := c.order.filter (· ≠ w) }) s
/-- Set a way. -/
def putWay (j w : Nat) (x : Way) (s : State) : State := modSet j (fun c => { c with ways := tabPut w x c.ways }) s
/-- The way as held. -/
def wayOf (s : State) (j w : Nat) : Way := (tabFind w (setOf s j).ways).getD {}

/-- Write back a dirty way under a key (R312, R321, R323, R325, R604): `true` where the line is clean afterwards. -/
def writeBackKey (key : List Byte) (j w : Nat) (s : State) : State × Bool :=
  let x := wayOf s j w
  let a := wayAddr s j w
  if !x.dirty then (s, true)
  else if !phyReady s then ((phyRefuse s).1, false)
  else
    let s1 := touchRange 2 a 128 s
    if anyBad s a 128 then
      let r := loseLine x.line s1
      if r.2 then (putWay j w { x with dirty := false, pinned := false } r.1, true) else (putWay j w { x with pinned := true } r.1, false)
    else match chanStore key x.line (memBytes s a 128) s1 with
      | (s, true) => (putWay j w { x with dirty := false, pinned := false } s, true)
      | (s, false) => (putWay j w { x with pinned := true } s, false)
/-- Write back under the line's own key. -/
def writeBack (j w : Nat) (s : State) : State × Bool := writeBackKey (slotKey s (lineSlot s (wayOf s j w).line)) j w s

/-- The way that an allocation takes (R321): the lowest invalid way, or the least recent that is not pinned. -/
def victimWay (s : State) (j : Nat) : Option Nat :=
  let c := setOf s j
  match (List.range 16).find? fun w => (tabFind w c.ways).isNone with
  | some w => some w
  | none => c.order.reverse.find? fun w => !(wayOf s j w).pinned
/-- Free a way for an allocation; a victim whose write-back is not made is pinned and another is taken. -/
def allocWay : Nat → Nat → State → State × Option Nat
  | 0, _, s => (s, none)
  | fuel + 1, j, s =>
    match victimWay s j with
    | none => (s, none)
    | some w =>
      if (tabFind w (setOf s j).ways).isNone then (s, some w)
      else
        let r := writeBack j w s
        if r.2 then (dropWay j w r.1, some w) else allocWay fuel j r.1

/-- An allocation in a set would write a dirty line back while no channel can be reached (R325). -/
def allocBlocked (s : State) (j : Nat) : Bool :=
  !phyReady s && match victimWay s j with | some w => (wayOf s j w).dirty | none => false

/-! ### Accesses -/

/-- The outcome of a board-store access: code, bytes, and the words of the line, by number in it, that are poisoned. -/
structure BstRes where
  code : Byte := 0x01
  bytes : List Byte := []
  bad : List Nat := []
deriving DecidableEq, Repr, Inhabited

/-- A line read at its channel (R312): poisoned whole where a write of it was lost. -/
def chanRead (s : State) (A : Nat) : BstRes :=
  if s.bst.lost.contains A then ⟨cPoison, List.replicate 128 0, List.range 16⟩ else ⟨cDone, readDev s A, []⟩

/-- A line read at its channel, with the check of its burst (R312): POISON and EDC_FAIL after three failed attempts. -/
def chanFetch (A : Nat) (s : State) : State × BstRes :=
  match burstOk A s with
  | (s, true) => (s, chanRead s A)
  | (s, false) => (logEvent (bstRec s A 0) (stick aBstStatus 0 s), ⟨cPoison, List.replicate 128 0, List.range 16⟩)

/-- Fill a way with a line. -/
def fillWay (j w A : Nat) (r : BstRes) (dirty : Bool) (s : State) : State :=
  let a := wayAddr s j w
  let s := if r.bad.isEmpty then spWrite 2 a r.bytes s else spWriteMarked a r.bytes s
  touchWay j w (putWay j w { line := A, dirty := dirty } s)

/-- A read that misses (R320). -/
def missRead (tag hint A : Nat) (s : State) : State × BstRes :=
  if hint = 1 ∧ tag < 64 ∧ (lineSet s A).isNone then (stick aBstStatus 2 s, { code := cQuota })
  else if !phyReady s then let r := phyRefuse s; (r.1, { code := r.2 })
  else
    match chanFetch A s with
    | (s, res) =>
      match lineSet s A with
      | some j =>
        if hint = 1 then
          match allocWay 17 j s with
          | (s, some w) => (fillWay j w A res false s, res)
          | (s, none) => (s, res)
        else (s, res)
      | none => (s, res)

/-- The answer of the tile that holds a line's set, whose stacked memory is not in service (R34, R298, R348). -/
def lineGate (s : State) (A : Nat) : Option (State × Byte) :=
  (lineSet s A).bind fun j => (memGate (tileStation s (setTile s j)) 3 s).map fun x => (x.2.2, x.1)
/-- A read of line `A` under a hint (R320, R321, R323); LAST does not yet invalidate: see `endLast`. -/
def bstReadLine (tag hint A : Nat) (s : State) : State × BstRes :=
  match lineGate s A with
  | some x => (x.1, { code := x.2 })
  | none =>
  match (lineSet s A).bind fun j => (findWay s j A).map fun w => (j, w) with
  | some (j, w) =>
    let a := wayAddr s j w
    let s1 := touchRange 2 a 128 s
    let bad := (List.range 16).filter fun i => badWord s (a / 8 + i)
    if bad.isEmpty then (if hint = 1 then touchWay j w s1 else s1, ⟨cDone, memBytes s a 128, []⟩)
    else if (wayOf s j w).dirty then (if hint = 1 then touchWay j w s1 else s1, ⟨cPoison, memBytes s a 128, bad⟩)
    else missRead tag hint A (dropWay j w s1)
  | none => missRead tag hint A s

/-- The end of a LAST read of line `A`: it is invalidated without write-back (R320). -/
def endLast (A : Nat) (s : State) : State :=
  match (lineSet s A).bind fun j => (findWay s j A).map fun w => (j, w) with
  | some (j, w) => dropWay j w s
  | none => s

/-- The bytes of a line with a write merged in. -/
def mergeLine (line : List Byte) (o : Nat) (bs : List Byte) : List Byte := line.take o ++ bs ++ line.drop (o + bs.length)

/-- A write around the cache (R315, R604): `bad` says that the data carry poison. -/
def writeAround (A o : Nat) (bs : List Byte) (bad : Bool) (s : State) : State × Byte :=
  if !phyReady s then phyRefuse s
  else
    let res := chanRead s A
    let whole := decide (bs.length = 128)
    if !whole ∧ res.code = cPoison then (s, cPoison)
    else if bad then let r := loseLine A s; (r.1, if r.2 then cDone else cPoison)
    else (writeDev A (if whole then bs else mergeLine res.bytes o bs) s, cDone)

/-- A write around the cache that the model carries out within one command, with the checks of its bursts (R312). -/
def storeAround (A o : Nat) (bs : List Byte) (bad : Bool) (s : State) : State × Byte :=
  if !phyReady s then phyRefuse s
  else
    let whole := decide (bs.length = 128)
    match if whole then (s, {}) else chanFetch A s with
    | (s, res) =>
      if res.code = cPoison then (s, cPoison)
      else if bad then match loseLine A s with | (s, b) => (s, if b then cDone else cPoison)
      else match chanStore (slotKey s (lineSlot s A)) A (if whole then bs else mergeLine res.bytes o bs) s with | (s, b) => (s, if b then cDone else cPoison)

/-- A write that misses (R320, R321, R325). -/
def missWrite (tag hint A o : Nat) (bs : List Byte) (bad : Bool) (s : State) : State × Byte :=
  if hint ≠ 1 then storeAround A o bs bad s
  else
    match lineSet s A with
    | none => if tag < 64 then (stick aBstStatus 2 s, cQuota) else storeAround A o bs bad s
    | some j =>
      if allocBlocked s j ∨ (bs.length ≠ 128 ∧ !phyReady s) then phyRefuse s
      else
        match allocWay 17 j s with
        | (s, none) => storeAround A o bs bad s
        | (s, some w) =>
          if bs.length = 128 then (fillWay j w A ⟨cDone, bs, if bad then List.range 16 else []⟩ true s, cDone)
          else
            match chanFetch A s with
            | (s, res) =>
              let s := fillWay j w A res true s
              let a := wayAddr s j w
              let p := writePoisons s (a + o) bs.length
              (if bad then spWriteMarked (a + o) bs s else spWrite 2 (a + o) bs s, if p then cPoison else cDone)

/-- A write of bytes at offset `o` of line `A` under a hint (R320, R321); a hit on a line with an uncorrectable word, whichever bytes the write covers,
invalidates a clean line and misses, and completes with POISON on a dirty one, whose bytes it writes (R323). -/
def bstWriteLine (tag hint A o : Nat) (bs : List Byte) (bad : Bool) (s : State) : State × Byte :=
  match lineGate s A with
  | some x => x
  | none =>
  match (lineSet s A).bind fun j => (findWay s j A).map fun w => (j, w) with
  | some (j, w) =>
    let a := wayAddr s j w
    let poisoned := anyBad s a 128
    let s := if poisoned then touchRange 2 a 128 s else s
    if poisoned ∧ !(wayOf s j w).dirty then missWrite tag hint A o bs bad (dropWay j w s)
    else
      let s := if bad then spWriteMarked (a + o) bs s else spWrite 2 (a + o) bs s
      let s := putWay j w { wayOf s j w with dirty := true } s
      (if hint = 1 then touchWay j w s else s, if poisoned then cPoison else cDone)
  | none => missWrite tag hint A o bs bad s

/-- A byte of the board store as its next reader would see it: of the cached line, or of the devices. -/
def bstByte (s : State) (a : Nat) : Byte :=
  match (lineSet s (a / 128)).bind fun j => (findWay s j (a / 128)).map fun w => (j, w) with
  | some (j, w) => memByte s (wayAddr s j w + a % 128)
  | none => (chanRead s (a / 128)).bytes.getD (a % 128) 0

/-- The bytes `[a, a + n)` of the board store read line by line under a hint: the first code other than DONE and POISON ends it (R198, R320).
The poisoned 8-byte words are given by board-store word number. -/
def bstRead (tag hint a n : Nat) (s : State) : State × BstRes :=
  let lines := if n = 0 then [] else (List.range ((a + n - 1) / 128 - a / 128 + 1)).map (a / 128 + ·)
  let r := lines.foldl (fun (x : State × BstRes) A =>
    if x.2.code ≠ cDone ∧ x.2.code ≠ cPoison then x
    else
      let y := bstReadLine tag hint A x.1
      let c := if y.2.code = cDone then x.2.code else if x.2.code = cPoison ∧ y.2.code = cPoison then cPoison else y.2.code
      (y.1, ⟨c, x.2.bytes ++ y.2.bytes, x.2.bad ++ y.2.bad.map (16 * A + ·)⟩)) (s, {})
  (r.1, { r.2 with bytes := slice r.2.bytes (a % 128) n })

/-- Bytes written from board-store address `a` on, line by line, under a hint. -/
def bstWrite (tag hint a : Nat) (bs : List Byte) (bad : Bool) (s : State) : State × Byte :=
  let n := bs.length
  let lines := if n = 0 then [] else (List.range ((a + n - 1) / 128 - a / 128 + 1)).map (a / 128 + ·)
  lines.foldl (fun (x : State × Byte) A =>
    if x.2 ≠ cDone ∧ x.2 ≠ cPoison then x
    else
      let lo := max a (128 * A)
      let hi := min (a + n) (128 * A + 128)
      let y := bstWriteLine tag hint A (lo - 128 * A) ((bs.drop (lo - a)).take (hi - lo)) bad x.1
      (y.1, if y.2 = cDone then x.2 else y.2)) (s, cDone)

/-- Write back every dirty line of the sets `[lo, hi)`, each under its own key (R324). -/
def flushSets (lo hi : Nat) (s : State) : State :=
  (s.bst.sets.filter fun e => decide (lo ≤ e.1) && decide (e.1 < hi)).foldl (fun s e => e.2.ways.foldl (fun s w => (writeBack e.1 w.1 s).1) s) s
/-- A dirty line is held in the sets `[lo, hi)`. -/
def dirtyIn (lo hi : Nat) (s : State) : Bool := s.bst.sets.any fun e => decide (lo ≤ e.1 ∧ e.1 < hi) && e.2.ways.any fun w => w.2.dirty
/-- The dirty lines of the sets wait for the PHY, which has been asked for (R325): the state with the request, or `none` where they can be written back, or never will. -/
def flushWait (lo hi : Nat) (s : State) : Option State :=
  if dirtyIn lo hi s && !phyReady s && decide ((phyRefuse s).2 = cDefer) then some (phyRefuse s).1 else none
/-- Invalidate the sets `[lo, hi)`; a pinned line is discarded (R312). -/
def dropSets (lo hi : Nat) (s : State) : State := modBst (fun b => { b with sets := b.sets.filter fun e => e.1 < lo || hi ≤ e.1 }) s

/-- The lost-write entries of a channel. -/
def lostOf (s : State) (c : Nat) : Nat := s.bst.lost.countP fun A => lineChan s A = c
/-- BST_CHAN_c as it reads. -/
def chanView (s : State) (c : Nat) : Nat :=
  let x := tabGet {} c s.bst.chans
  (match x.st with | .absent => 0 | .trained => 1 | .failed => 2 | .training => 3) + 4 * b2n x.hot + 2 ^ 8 * x.failStep + 2 ^ 16 * lostOf s c
/-- BST_CONFIG as it reads. -/
def bstConfigView (s : State) : Nat :=
  s.bst.present + 2 ^ 12 * s.bst.density + 2 ^ 14 * b2n s.bst.clamshell + 2 ^ 16 * ((activeChans s).map (2 ^ ·)).sum + 2 ^ 28 * (activeChans s).length
    + 2 ^ 32 * (bstCapacity s / 2 ^ 26)
/-- The sets that no region holds: the pool as the last full load numbered it, and the sets freed since, which serve no line before the next (R317, R318). -/
def poolSets (s : State) : Nat := totalSets s - (s.bst.regions.map fun r => r.2.2).sum
/-- BST_CACHE_CFG as it reads. -/
def cacheCfgView (s : State) : Nat :=
  s.bst.units + 2 ^ 4 * totalSets s + 2 ^ 25 * (if s.bst.units = 0 then 0 else (availTiles s).length) + 2 ^ 36 * poolSets s

end Sys2Proof.Machine
end

