-- ==== Sys2Proof/Machine/Exact.lean ====
section
/-!
DEFINITION. Machine/Exact.lean: exact arithmetic on values, each operation followed by one rounding where its rule says so (R152, R157, R185, R233).
-/
namespace Sys2Proof.Machine

/-- The NaN of an operation without a valid result. -/
def vNan : Val := .nan false

/-- The exact sum of two finite values as sign, magnitude and exponent; an exact zero of unlike signs is positive (IEEE 754). -/
def addFin (sa : Bool) (ma : Nat) (ea : Int) (sb : Bool) (mb : Nat) (eb : Int) : Val :=
  let e := min ea eb
  let xa : Int := (ma * 2 ^ (ea - e).toNat : Nat)
  let xb : Int := (mb * 2 ^ (eb - e).toNat : Nat)
  let z := (if sa then -xa else xa) + (if sb then -xb else xb)
  if z = 0 then .fin (sa && sb) 0 0 else .fin (decide (z < 0)) z.natAbs e

/-- The exact sum. -/
def addV (a b : Val) : Val :=
  match a, b with
  | .nan s, _ => .nan s
  | _, .nan s => .nan s
  | .inf s, .inf t => if s = t then .inf s else vNan
  | .inf s, .fin _ _ _ => .inf s
  | .fin _ _ _, .inf s => .inf s
  | .fin sa ma ea, .fin sb mb eb => addFin sa ma ea sb mb eb

/-- The exact difference. -/
def subV (a b : Val) : Val :=
  match b with
  | .nan s => match a with | .nan t => .nan t | _ => .nan s
  | _ => addV a b.negate

/-- The exact product. -/
def mulV (a b : Val) : Val :=
  match a, b with
  | .nan s, _ => .nan s
  | _, .nan s => .nan s
  | .inf s, .inf t => .inf (s ^^ t)
  | .inf s, .fin t m _ => if m = 0 then vNan else .inf (s ^^ t)
  | .fin t m _, .inf s => if m = 0 then vNan else .inf (s ^^ t)
  | .fin sa ma ea, .fin sb mb eb => .fin (sa ^^ sb) (ma * mb) (ea + eb)

/-- `a * b + c`, exact. -/
def fmaV (a b c : Val) : Val := addV (mulV a b) c

/-- A value that rounds, in binary64 and narrower, as the quotient does: 70 bits or more of it and a sticky bit. -/
def divV (a b : Val) : Val :=
  match a, b with
  | .nan s, _ => .nan s
  | _, .nan s => .nan s
  | .inf _, .inf _ => vNan
  | .inf s, .fin t _ _ => .inf (s ^^ t)
  | .fin s _ _, .inf t => .fin (s ^^ t) 0 0
  | .fin sa ma ea, .fin sb mb eb =>
    if mb = 0 then (if ma = 0 then vNan else .inf (sa ^^ sb))
    else
      let k := 70 + Nat.log2 mb
      let q := ma * 2 ^ k / mb
      let st := if ma * 2 ^ k % mb = 0 then 0 else 1
      .fin (sa ^^ sb) (2 * q + st) (ea - eb - k - 1)

/-- The integer square root of `x`, by bits from bit `n - 1` down. -/
def isqrt : Nat → Nat → Nat → Nat
  | 0, _, r => r
  | n + 1, x, r => if (r + 2 ^ n) * (r + 2 ^ n) ≤ x then isqrt n x (r + 2 ^ n) else isqrt n x r

/-- A value that rounds as the square root does. -/
def sqrtV (a : Val) : Val :=
  match a with
  | .nan s => .nan s
  | .inf s => if s then vNan else .inf false
  | .fin s m e =>
    if m = 0 then .fin s 0 0
    else if s then vNan
    else
      let odd := e % 2 = 1
      let m' := (if odd then 2 * m else m) * 2 ^ 160
      let e' := (if odd then e - 1 else e) - 160
      let r := isqrt (Nat.log2 m' / 2 + 1) m' 0
      let st := if r * r = m' then 0 else 1
      .fin false (2 * r + st) (e' / 2 - 1)

/-- `a < b` on values that are not NaN; false with a NaN. Zeros are equal. -/
def ltV (a b : Val) : Bool :=
  match a, b with
  | .nan _, _ => false
  | _, .nan _ => false
  | .inf s, .inf t => s && !t
  | .inf s, .fin _ _ _ => s
  | .fin _ _ _, .inf t => !t
  | .fin _ _ _, .fin _ _ _ => match subV a b with | .fin s m _ => s && decide (m ≠ 0) | _ => false

/-- `a = b` as values; false with a NaN; +0 equals -0. -/
def eqV (a b : Val) : Bool := !a.isNan && !b.isNan && !ltV a b && !ltV b a

/-- The smaller value; a NaN operand gives NaN; -0 lies below +0. -/
def minV (a b : Val) : Val :=
  if a.isNan then a else if b.isNan then b
  else if a.isZero && b.isZero then (if a.neg? then a else b)
  else if ltV b a then b else a

/-- The larger value; a NaN operand gives NaN; -0 lies below +0. -/
def maxV (a b : Val) : Val :=
  if a.isNan then a else if b.isNan then b
  else if a.isZero && b.isZero then (if a.neg? then b else a)
  else if ltV a b then b else a

/-- Rounding to binary32 and binary64. -/
def rn32 (v : Val) : Val := rnTo fmtFp32 v
def rn64 (v : Val) : Val := rnTo fmtFp64 v

/-- Positive zero. -/
def vZero : Val := .fin false 0 0

/-- One fold step of R152: the compensated pair takes a binary64 value `t`. Where the sum is infinite or NaN the second term is +0, as R159 and R160 have it for a promotion (DEDUCED, log entry 13). -/
def foldPair (p : Val × Val) (t : Val) : Val × Val :=
  let x := addV p.1 t
  let h := rn64 x
  if h.isInf || h.isNan then (h, vZero) else (h, rn64 (addV p.2 (subV x h)))

/-- The exact sum of a list, from +0. -/
def sumV (l : List Val) : Val := l.foldl addV (.fin false 0 0)

/-- An exact zero taken as +0 (R157). -/
def posZero (v : Val) : Val := if v.isZero then vZero else v

end Sys2Proof.Machine
end

