-- ==== Sys2Proof/Machine/CellOps.lean ====
section
/-!
DEFINITION. Machine/CellOps.lean: the package in its cell: ranks, what it has heard, and routes (R391 to R409).
-/
namespace Sys2Proof.Machine

/-! ### Ranks and members -/

/-- The rank that this package holds. -/
def ownRank (s : State) : Option Nat :=
  match s.cell.slot, s.cell.map with
  | some k, some m => m.slots.findIdx? (· = k)
  | _, _ => none
/-- The member that partition `p` of this package is (R418). -/
def ownMember (s : State) (p : Nat) : Member := ⟨s.cell.tier, s.cell.cell, (ownRank s).getD 0, p⟩
/-- A member lies on this package. -/
def onPackage (s : State) (m : Member) : Bool := decide (m.tier = s.cell.tier ∧ m.cell = s.cell.cell ∧ m.rank = (ownRank s).getD 0)
/-- A member lies in another cell. -/
def otherCell (s : State) (m : Member) : Bool := !decide (m.tier = s.cell.tier ∧ m.cell = s.cell.cell)
/-- The cell runs in MAINT (R409). -/
def inMaint (s : State) : Bool := match s.cell.map with | some m => !m.full | none => true
/-- The unit address of a member's package (R29). -/
def memberUnit (m : Member) : Nat := 3 * 2 ^ 28 + m.rank + 2 ^ 4 * m.cell + 2 ^ 12 * m.tier
/-- Change the package's place in its cell. -/
def modCell (f : CellSt → CellSt) (s : State) : State := { s with cell := f s.cell }
/-- What is known of slot `k`. -/
def knowOf (s : State) (k : Nat) : SlotKnow := tabGet {} k s.cell.know
/-- The rank of slot `k`. -/
def slotRank (s : State) (k : Nat) : Option Nat := s.cell.map.bind fun m => m.slots.findIdx? (· = k)
/-- The slot that holds rank `r`. -/
def rankSlot (s : State) (r : Nat) : Option Nat :=
  match s.cell.map with
  | some m => let k := m.slots.getD r 31; if k < 18 then some k else none
  | none => none

/-! ### Ports -/

/-- A port. -/
def port (s : State) (n : Nat) : PortSt := tabGet {} n s.ports
/-- Change a port. -/
def modPort (n : Nat) (f : PortSt → PortSt) (s : State) : State := { s with ports := tabSet {} n (f (port s n)) s.ports }
/-- A port in ACTIVE. -/
def portUp (s : State) (n : Nat) : Bool := decide ((port s n).st = .active)
/-- The slot that an ACTIVE CELL port reaches (R374). -/
def portSlot (s : State) (n : Nat) : Option Nat :=
  let x := port s n
  if x.st = .active ∧ x.role = 1 then some (leAt x.peer 11 1) else none
/-- The ports in order. -/
def allPorts : List Nat := List.range 28

/-! ### Routes (R392, R403, R404, R407, R409) -/

/-- PRIMARY of slot `k`. -/
def primaryPort (s : State) (k : Nat) : Option Nat := allPorts.find? fun n => portSlot s n = some k
/-- VIA of slot `k`. -/
def viaSlot (s : State) (k : Nat) : Option Nat :=
  match s.cell.slot with
  | none => none
  | some me => ((List.range 18).map fun i => (me + k + 17 + i) % 18).find? fun v =>
      decide (v ≠ me ∧ v ≠ k) && (primaryPort s v).isSome && bitOf (leAt (knowOf s v).body 11 3) k
/-- ALT of slot `k`. -/
def altPort (s : State) (k : Nat) : Option Nat := (viaSlot s k).bind (primaryPort s)
/-- The port over which traffic to slot `k` goes. -/
def slotPort (s : State) (k : Nat) : Option Nat :=
  if s.cell.usingAlt.contains k then altPort s k
  else match primaryPort s k with | some n => some n | none => altPort s k

/-- MGMT_ONLY of LNK_CTRL. -/
def mgmtOnly (s : State) (n : Nat) : Bool := getB s (aLnkCtrl n) 1
/-- The management uplink of MAINT (R409). -/
def mgmtUplink (s : State) : Option Nat :=
  match allPorts.find? fun n => portUp s n && decide ((port s n).role = 2) with
  | some n => some n
  | none => allPorts.find? fun n => portUp s n && decide ((port s n).role = 3)
/-- The carrying list (R407 to R409). -/
def carrying (s : State) : List Nat := if inMaint s then (mgmtUplink s).toList else s.cell.carry
/-- The uplink for a rank and cell (R407). -/
def uplinkFor (s : State) (r c : Nat) : Option Nat := let l := carrying s; l[(r + c) % l.length]?

/-- A unit address names this package (R30, R395). -/
def unitHere (s : State) (u : Nat) : Bool :=
  decide (u = 0x3FFFFFFF) || (decide (u / 2 ^ 28 = 3) && s.cell.located && decide (ownRank s = some (u % 16)) && decide (u / 16 % 256 = s.cell.cell)
    && decide (u % 2 ^ 28 / 2 ^ 12 = s.cell.tier))
/-- A unit address names a package of the own cell, by its rank. -/
def unitRank (s : State) (u : Nat) : Option Nat :=
  if u / 2 ^ 28 = 3 ∧ u ≠ 0x3FFFFFFF ∧ s.cell.located ∧ u / 16 % 256 = s.cell.cell ∧ u % 2 ^ 28 / 2 ^ 12 = s.cell.tier then some (u % 16) else none
/-- The slot of the own cell that a unit address leads to. -/
def unitSlot (s : State) (u : Nat) : Option Nat := (unitRank s u).bind (rankSlot s)
/-- The port that the routing table names for a unit address of another package, cell or tier (R404, R407). -/
def unitPort (s : State) (u : Nat) : Option Nat :=
  match unitRank s u with
  | some r => (rankSlot s r).bind (slotPort s)
  | none =>
    match u / 2 ^ 28 with
    | 3 => uplinkFor s (u % 16) (u / 16 % 256)
    | 4 => uplinkFor s 0 (u % 256)
    | 5 => uplinkFor s 0 0
    | _ => none

/-! ### Hearing (R397, R400, R401) -/

/-- Slot `k` is heard: a record came on its direct link within the last 500 µs. -/
def heard (s : State) (k : Nat) : Bool := match (knowOf s k).recv with | some t => decide (ticksAfter s.tick t ≤ 500000) | none => false
/-- FIT of the latest record of slot `k`. -/
def fitSlot (s : State) (k : Nat) : Bool := bitOf (leAt (knowOf s k).body 3 1) 1
/-- This package is FIT: not in THERM_STOP, not in the safe state of a failed start (R396). -/
def ownFit (s : State) : Bool := !getB s aPwrTherm 0 && decide (s.boot.now.outcome ≠ 3)
/-- The slots heard, this package's own included. -/
def heardSlots (s : State) : List Nat := (List.range 18).filter fun k => decide (s.cell.slot = some k) || heard s k
/-- A slot is FIT, by its record or by this package's own state. -/
def slotFit (s : State) (k : Nat) : Bool := if s.cell.slot = some k then ownFit s else fitSlot s k
/-- The manager's slot (R400, R401). A package that ceased to manage when it adopted another's map takes that map's manager for manager while that one is fit to be
(DEDUCED, log entry 19). -/
def managerSlot (s : State) : Option Nat :=
  match s.cell.slot, s.cell.map with
  | none, _ => none
  | some _, none => (heardSlots s).find? (slotFit s)
  | some me, some m =>
    let fit (k : Nat) : Bool := m.slots.contains k && (if k = me then ownFit s else !(knowOf s k).lost && ((knowOf s k).body.isEmpty || fitSlot s k))
    if s.cell.ceased ∧ fit m.mgr then some m.mgr else (List.range 18).find? fit
/-- This package is manager. -/
def isManager (s : State) : Bool := s.cell.slot.isSome && decide (managerSlot s = s.cell.slot)
/-- The slots that a spare can be taken from, ascending: heard, FIT and without a rank (R411). -/
def spareSlots (s : State) : List Nat := (heardSlots s).filter fun k => slotFit s k && (slotRank s k).isNone && !(knowOf s k).lost
/-- The switch of an unheld rank is in progress (R412, R414). -/
def switchOn (s : State) (r : Nat) : Bool :=
  s.cell.moving.contains r && !(spareSlots s).isEmpty && (!isManager s || getB s aGlbCellCtrl 1)
/-- STATE of GLB_CELL_STATUS: 0 UNLOCATED, 1 FORMING, 2 COMPLETE, 3 DEGRADED (R415). -/
def cellState (s : State) : Nat :=
  match s.cell.slot, s.cell.map with
  | none, _ => 0
  | some _, none => 1
  | some _, some m => if (List.range 16).all fun r => decide (m.slots.getD r 31 < 18) then 2 else 3
/-- The other members of the cell: the slots that a record has come from and that are not lost. -/
def memberSlots (s : State) : List Nat :=
  (List.range 18).filter fun k => decide (s.cell.slot ≠ some k) && !(knowOf s k).body.isEmpty && !(knowOf s k).lost
/-- The cell version (R416). -/
def cellDzl (s : State) : Nat := (memberSlots s).foldl (fun v k => min v (leAt (knowOf s k).body 14 1)) 2
/-- `a` is ahead of `b` by 1 to 32,767, each modulo 2^16 (R399). -/
def serialAhead (a b : Nat) : Bool := let d := (a + 65536 - b % 65536) % 65536; decide (1 ≤ d ∧ d ≤ 32767)
/-- The higher of the highest TERM seen and another in serial order (R399, R401). -/
def higherTerm (a : Option Nat) (b : Nat) : Option Nat := match a with | some x => if serialAhead b x then some b else some x | none => some b
/-- Slot `k` is due to be lost (R397): 2 ms have passed since its last evidence, or since its last record with FIT where its records come without it. -/
def lostDue (s : State) (k : Nat) : Bool :=
  let x := knowOf s k
  decide (2000000 ≤ ticksAfter s.tick x.evid) || (!x.body.isEmpty && !fitSlot s k && decide (2000000 ≤ ticksAfter s.tick x.fitAt))

/-- GLB_ROUTE_s as it reads. -/
def routeView (s : State) (k : Nat) : Nat :=
  let x := knowOf s k
  (primaryPort s k).getD 31 + 2 ^ 8 * (altPort s k).getD 31 + 2 ^ 16 * (viaSlot s k).getD 31 + 2 ^ 21 * b2n (s.cell.usingAlt.contains k)
    + 2 ^ 22 * b2n (heard s k) + 2 ^ 23 * b2n x.lost + 2 ^ 24 * (slotRank s k).getD 0 + 2 ^ 28 * b2n (slotRank s k).isSome

/-- A link has changed state or a record has arrived: which slots go over ALT (R403, R404), and DUP_LINK (R392). -/
def reroute (s : State) : State :=
  let toAlt (k : Nat) : Bool :=
    if (primaryPort s k).isNone then (altPort s k).isSome
    else s.cell.usingAlt.contains k && (match altPort s k with
      | some n => ((port s n).fwd.any fun e => e.slot = some k) || ((port s n).wait.any fun e => unitSlot s e.1.dstUnit.toNat = some k)
      | none => false)
  let s := modCell (fun c => { c with usingAlt := (List.range 18).filter toAlt }) s
  let dup := (List.range 18).any fun k => decide (1 < allPorts.countP fun n => portSlot s n = some k)
  if dup then stick aGlbCellStatus 52 s else s

end Sys2Proof.Machine
end

