-- ==== Sys2Proof/Machine/Frame.lean ====
section
/-!
DEFINITION. Machine/Frame.lean: the bytes of a frame of a fabric link (R360), its AES-GCM protection (R388) and its frame check sequence.
-/
namespace Sys2Proof.Machine

/-! ### AES-GCM -/

/-- One step of a product in the field of 2^128 elements, whose bit 0 is the most significant of the block: the sum so far and the shifted factor. -/
def gcmStep (x : Nat) (y : Nat × Nat) (i : Nat) : Nat × Nat :=
  (if bitOf x (127 - i) then y.1 ^^^ y.2 else y.1, if bitOf y.2 0 then (y.2 / 2) ^^^ (0xE1 * 2 ^ 120) else y.2 / 2)
/-- The product of two blocks. -/
def gcmMul (x y : Nat) : Nat := ((List.range 128).foldl (gcmStep x) (0, y)).1
/-- A block of bytes as a number, most significant byte first. -/
def gcmVal (l : List Nat) : Nat := l.foldl (fun a b => 256 * a + b) 0
/-- Bytes filled with zeros to whole blocks. -/
def gcmPad (l : List Nat) : List Nat := l ++ List.replicate (16 * ceilDiv l.length 16 - l.length) 0
/-- The hash of the blocks of a list of bytes under a hash key. -/
def gcmHash (h : Nat) (l : List Nat) : Nat :=
  (List.range (l.length / 16)).foldl (fun a i => gcmMul (a ^^^ gcmVal ((l.drop (16 * i)).take 16)) h) 0
/-- The key stream of AES-GCM from counter 2 on, for `n` blocks. -/
def gcmStream (key iv : List Nat) (n : Nat) : List Nat := (List.range n).flatMap fun i => aesEnc key (iv ++ natsOf (beBytes 4 (i + 2)))
/-- AES-256-GCM: the ciphertext and the tag of a text under a key, an IV of 12 bytes and additional data. -/
def gcmSeal (key iv aad text : List Nat) : List Nat × List Nat :=
  let ct := xorList text (gcmStream key iv (ceilDiv text.length 16))
  let h := gcmVal (aesEnc key (List.replicate 16 0))
  let x := gcmHash h (gcmPad aad ++ gcmPad ct ++ natsOf (beBytes 8 (8 * aad.length)) ++ natsOf (beBytes 8 (8 * ct.length)))
  (ct, xorList (natsOf (beBytes 16 x)) (aesEnc key (iv ++ [0, 0, 0, 1])))

/-! ### Frames (R360, R388) -/

/-- One bit of the CRC-32 of IEEE 802.3, least significant bit first. -/
def crcStep (c : Nat) : Nat := if c % 2 = 1 then (c / 2) ^^^ 0xEDB88320 else c / 2
/-- The CRC-32 of IEEE 802.3. -/
def crc32 (l : List Byte) : Nat :=
  (l.foldl (fun c b => (List.range 8).foldl (fun c _ => crcStep c) (c ^^^ b.toNat)) 0xFFFFFFFF) ^^^ 0xFFFFFFFF

/-- The 64 bytes of a flit. -/
def flitBytes : Flit → List Byte
  | .head p => (encodeHeader p).flatMap fun w => leBytes 8 w.toNat
  | .body b => slice b 0 64
/-- SLOTMAP: the slots are filled from slot 1 on. -/
def slotMap (f : OutFrame) : Nat := 2 ^ f.slots.length - 1
/-- SLOTVC. -/
def slotVc (f : OutFrame) : Nat := ((f.slots.mapIdx fun i x => x.vc.toNat * 4 ^ i).sum)
/-- CTL: NAK, SWAP_REQ, SWAP_ACK and the lane of R359. -/
def ctlByte (f : OutFrame) : Nat := b2n f.nak + 2 * b2n f.swapReq + 4 * b2n f.swapAck + 16 * (f.lane % 16)
/-- Control bytes 0 to 43. -/
def controlBytes (f : OutFrame) : List Byte :=
  leBytes 1 f.ftype ++ leBytes 1 (slotMap f) ++ leBytes 2 (slotVc f) ++ leBytes 2 f.seq ++ leBytes 2 f.ack ++ leBytes 1 (ctlByte f) ++ leBytes 2 f.swapSeq
    ++ [0] ++ ((List.range 4).flatMap fun v => leBytes 1 (f.credit.getD v 0)) ++ leBytes 8 f.count ++ List.replicate 20 0
/-- Slots 1 to 8, empty slots as zeros. -/
def slotBytes (f : OutFrame) : List Byte := slice (f.slots.flatMap fun x => flitBytes x.flit) 0 512
/-- Slots and TAG as sent: under a key and a salt where the link is encrypted (R388). -/
def sealed (key : Option (List Byte × List Byte)) (f : OutFrame) : List Byte × List Byte :=
  match key with
  | none => (slotBytes f, List.replicate 16 0)
  | some k =>
    let z := gcmSeal (natsOf k.1) (natsOf (k.2 ++ leBytes 8 f.count)) (natsOf (controlBytes f)) (natsOf (slotBytes f))
    (bytesOf z.1, bytesOf z.2)
/-- The frame with TAG and FCS. -/
def sealFrame (key : Option (List Byte × List Byte)) (f : OutFrame) : OutFrame :=
  let z := sealed key f
  { f with tag := z.2, fcs := crc32 (controlBytes f ++ z.2 ++ z.1) }
/-- The 576 bytes of a frame as sent. -/
def frameBytes (key : Option (List Byte × List Byte)) (f : OutFrame) : List Byte :=
  let z := sealed key f
  controlBytes f ++ f.tag ++ leBytes 4 f.fcs ++ z.1

end Sys2Proof.Machine
end

