-- ==== Sys2Proof/Machine/LinkOps.lean ====
section
/-!
DEFINITION. Machine/LinkOps.lean: fabric ports: frames, replay, credits, forwarding entries, loss and training (R355 to R390).
-/
namespace Sys2Proof.Machine

/-- The station of a port (R329). -/
def portStn (n : Nat) : Nat := 1092 + n
/-- The flits of a packet (R331, R333): its header, then its data from byte ADDR mod 64 of the first data flit on. -/
def packetSlots (q : Packet) (data : List Byte) : List Slot :=
  let raw := if data.isEmpty then [] else List.replicate (q.addr.toNat % 64) 0 ++ data
  let k := ceilDiv raw.length 64
  { vc := q.vc, flit := .head { q with dflits := BitVec.ofNat 4 k } } :: (List.range k).map fun i => { vc := q.vc, flit := .body (slice raw (64 * i) 64) }
/-- The data of a packet from its data flits. -/
def packetData (q : Packet) (raw : List Byte) : List Byte := (raw.drop (q.addr.toNat % 64)).take (q.bytesM1.toNat + 1)
/-- Receive buffers for each VC (R366). -/
def linkBuffers : List Nat := [64, 1024, 1024, 2048]
/-- A list of counts with `k` added at `i`. -/
def addAt (i k : Nat) (l : List Nat) : List Nat := l.mapIdx fun j x => if j = i then x + k else x

/-! ### Sending -/

/-- Send a DATA, EMPTY or CLOSE frame with the control fields of the port's state (R360): a swap request or answer that is pending goes out in every control slot until it
is taken or the map changes (R359). A DATA frame that is held notes the credits that it took along. -/
def sendFrame (n : Nat) (f : OutFrame) (s : State) : State :=
  let x := port s n
  let c := x.freed.map (min 255)
  let f := { f with
    port := n, ftype := if f.ftype = 3 then 3 else b2n f.slots.isEmpty, ack := x.rxSeq, count := x.txCount + 1, credit := c
    swapReq := x.swapReq.isSome, swapAck := x.txSwap.isSome, swapSeq := (x.txSwap.getD (0, 0)).1
    lane := match x.swapReq with | some j => j | none => (x.txSwap.getD (0, 0)).2 }
  let key := if x.encrypted then some (x.keys.getD 0 [], x.keys.getD 1 []) else none
  let held (t : TxFrame) : TxFrame := if t.seq = f.seq ∧ !f.slots.isEmpty then { t with credit := c } else t
  { modPort n (fun x => { x with txCount := x.txCount + 1, freed := x.freed.map (· - 255), replay := x.replay.map held }) s with
    sent := .frame (sealFrame key f) :: s.sent }
/-- Send a TRAIN frame with a record in slot 1, and a TAG where it has one (R360, R374, R387); FCOUNT and the other control fields, which count from ACTIVATE on, are 0. -/
def sendTrain (n : Nat) (rec tag : List Byte) (s : State) : State :=
  let f : OutFrame := { port := n, ftype := 2, slots := [{ vc := 0, flit := .body rec }], tag := slice tag 0 16 }
  { s with sent := .frame { f with fcs := crc32 (controlBytes f ++ f.tag ++ slotBytes f) } :: s.sent }
/-- Send an EMPTY frame (R361). -/
def sendEmpty (n : Nat) (nak : Bool) (s : State) : State := sendFrame n { seq := (port s n).txSeq, nak := nak } s

/-- The transmit map changes at frame S (R359). -/
def txSwitch (n : Nat) (s : State) : State :=
  match (port s n).txSwap with
  | some (q, lane) =>
    if q = (port s n).txSeq then
      stick (aLnkStatus n) 22 (logEvent { event := 0x0A } (modPort n (fun x => { x with txIdle := lane, txSpare := false, txSwap := none }) s))
    else s
  | none => s

/-- The place in the queue of the flit to send next (R335, R366): MGMT first, then the other VCs in turn where the port carries them, each against a credit. -/
def nextTx (mgmt : Bool) (x : PortSt) : Option Nat :=
  let first (v : Nat) : Option Nat := if x.credits.getD v 0 = 0 then none else x.txq.findIdx? fun e => decide (e.vc.toNat = v)
  ([0] ++ (if mgmt then [] else (List.range 3).map fun i => (x.rr + i) % 3 + 1)).findSome? first
/-- Fill up to `k` slots of a frame with waiting flits (R366). -/
def fillSlots (mgmt : Bool) : Nat → PortSt → List Slot → PortSt × List Slot
  | 0, x, l => (x, l)
  | k + 1, x, l =>
    match nextTx mgmt x with
    | none => (x, l)
    | some i =>
      match x.txq[i]? with
      | none => (x, l)
      | some e =>
        let v := e.vc.toNat
        fillSlots mgmt k { x with
          txq := x.txq.eraseIdx i
          rr := if v = 0 then x.rr else v % 3
          credits := x.credits.mapIdx fun j c => if j = v then c - 1 else c } (l ++ [e])

/-- The owner of a port of a partition role: HOST_ADAPTER or STORAGE named by a PORT_MASK (R60). -/
def portOwner (s : State) (n : Nat) : Option Nat := stationOwner s (portStn n)
/-- The port carries only MGMT: MGMT_ONLY, or a partition role that the package owns (R377, R378). -/
def onlyMgmt (s : State) (n : Nat) : Bool := mgmtOnly s n || (decide (4 ≤ (port s n).role) && (portOwner s n).isNone)

/-- Send waiting flits while credits and the replay buffer admit them (R361, R363, R366, R378). -/
def linkPump : Nat → Nat → State → State
  | 0, _, s => s
  | fuel + 1, n, s =>
    let x := port s n
    if x.st ≠ .active ∨ 1024 ≤ x.replay.length then s
    else
      let z := fillSlots (onlyMgmt s n) 8 x []
      if z.2.isEmpty then s
      else
        let seq := (x.txSeq + 1) % 65536
        let s := modPort n (fun x => { x with
          txq := z.1.txq, rr := z.1.rr, credits := z.1.credits, txSeq := seq, replay := x.replay ++ [{ seq := seq, slots := z.2 }] }) s
        linkPump fuel n (sendFrame n { seq := seq, slots := z.2 } (txSwitch n s))

/-- Hand a packet to a port for its link. -/
def linkSend (n : Nat) (q : Packet) (data : List Byte) (s : State) : State :=
  let s := modPort n (fun x => { x with txq := x.txq ++ packetSlots q data }) s
  linkPump ((port s n).txq.length + 1) n s

/-! ### Requests from the link, and their answers (R377, R384, R405, R406) -/

/-- A response to a request received over a link returns over it, or is dropped after a loss (R384), or where the port carries only MGMT (R378). -/
def portRespond (n x : Nat) (rsp : Packet) (data : List Byte) (s : State) : State :=
  match entryOf s (portStn n) x with
  | some e =>
    match e.use with
    | .link lost src txid _ =>
      let s := freeEntry (portStn n) x s
      if lost then bump (aLnkLateDrops n) 1 (aLnkStatus n) 24 s
      else if onlyMgmt s n ∧ rsp.vc ≠ 0 then s
      else linkSend n { rsp with dstStn := BitVec.ofNat 11 src, txid := BitVec.ofNat 16 txid } data s
    | _ => s
  | none => s

/-- A forwarded request ends at its originator (R382): a station of this package, or the port that received it from its link. -/
def completeFwd (q : Packet) (code : Byte) (data : List Byte) (poison hint : Nat) (s : State) : State :=
  let k := q.srcStn.toNat
  if 1092 ≤ k ∧ k < 1120 ∧ (match entryOf s k q.txid.toNat with | some { use := .link .., .. } => true | _ => false) = true then
    portRespond (k - 1092) q.txid.toNat (rspOf s q.dstStn.toNat q code data poison hint) data s
  else answer q.dstStn.toNat q code data poison hint s

/-- The entries of a port's forwarding table (11_fabric_links.md, before R380). -/
def fwdCap : Nat := 4096
/-- Send a request over a port's link under a new forwarding entry (R380). -/
def forwardNow (n : Nat) (q : Packet) (data : List Byte) (s : State) : State :=
  let x := port s n
  linkSend n q data (modPort n (fun y => { y with fwd := y.fwd ++ [{ q := q, data := data, epoch := x.epoch, slot := unitSlot s q.dstUnit.toNat }] }) s)
/-- A request of the package for a port's link: while the forwarding table is full, or others wait, it waits behind them without a code (R26, R414). -/
def forward (n : Nat) (q : Packet) (data : List Byte) (s : State) : State :=
  if fwdCap ≤ (port s n).fwd.length ∨ !(port s n).wait.isEmpty then modPort n (fun x => { x with wait := x.wait ++ [(q, data)] }) s
  else forwardNow n q data s
/-- The oldest request that waits at a port takes a free place of its forwarding table. -/
def fwdNext (n : Nat) (s : State) : State :=
  match (port s n).wait with
  | [] => s
  | e :: r => if portUp s n ∧ (port s n).fwd.length < fwdCap then forwardNow n e.1 e.2 (modPort n (fun x => { x with wait := r }) s) else s

/-- A request that came over a CELL link for another member of the cell: it crosses no third link and is not retried (R405). -/
def cellCrossing (s : State) (q : Packet) : Bool :=
  let k := q.srcStn.toNat
  decide (1092 ≤ k ∧ k < 1120 ∧ (port s (k - 1092)).role = 1) && (unitRank s q.dstUnit.toNat).isSome
/-- The end of a forwarding entry of port `n` at a loss, or of a request that finds the port not ACTIVE (R382, R383). -/
def endForward (n : Nat) (q : Packet) (data : List Byte) (s : State) : State :=
  match (if q.retrySafe ∧ (q.opcode = 1 ∨ q.opcode = 3) ∧ !cellCrossing s q then unitPort s q.dstUnit.toNat else none) with
  | some m =>
    if m ≠ n ∧ portUp s m then (if onlyMgmt s m then completeFwd q cOff [] 0 0 s else forward m { q with retrySafe := false } data s)
    else completeFwd q cLinkLost [] 0 0 s
  | none => completeFwd q cLinkLost [] 0 0 s

/-- The answer of R414 for a rank of the own cell that no slot holds: DEFER while a switch is in progress, REFUSE_OFF when the cell is DEGRADED. -/
def unheldAnswer (q : Packet) (s : State) : Option State :=
  match unitRank s q.dstUnit.toNat with
  | some r =>
    if (rankSlot s r).isSome ∨ s.cell.map.isNone then none
    else if switchOn s r then some (completeFwd q cDefer [] 0 1000000 s)
    else some (completeFwd q cOff [] 0 0 s)
  | none => none

/-- A request leads out of this package over the routing table (R404, R407): its unit address is that of another package, cell or tier. -/
def routed (s : State) (u : Nat) : Bool := decide (3 ≤ u / 2 ^ 28) && decide (u ≠ 0x3FFFFFFF) && !unitHere s u
/-- The port that a request takes, which names port `n` by its station: that of the routing table for another package, cell or tier, so that a second link to a slot
carries nothing (R392, R404, R407). -/
def outPort (s : State) (n u : Nat) : Option Nat := if routed s u then unitPort s u else some n
/-- A request for which the routing table names no port (R383, R404, R409, R414). -/
def noRoute (q : Packet) (s : State) : State :=
  match unheldAnswer q s with
  | some s' => s'
  | none => completeFwd q (if q.vc ≠ 0 ∧ inMaint s ∧ (unitRank s q.dstUnit.toNat).isNone then cOff else cLinkLost) [] 0 0 s
/-- A request reaches a port from the mesh or from another port (R72, R377, R378, R383, R409, R414). -/
def portSend (n : Nat) (q : Packet) (data : List Byte) (s : State) : State :=
  match unheldAnswer q s with
  | some s' => s'
  | none =>
    if onlyMgmt s n ∧ q.vc ≠ 0 then completeFwd q cOff [] 0 0 s
    else if portUp s n then forward n q data s
    else endForward n q data s

/-- A request at the station of port `n`, in the order of R593 (R72, R346). -/
def portAccept (n : Nat) (data : List Byte) (q : Packet) (s : State) : State :=
  let own := portOwner s n
  if unitState s q.dstStn.toNat = .failed then answer q.dstStn.toNat q cOff [] 0 0 s
  else if own.isSome ∧ q.tag ≠ 0x40 ∧ own ≠ some q.tag.toNat then
    answer q.dstStn.toNat q cPart [] 0 0 (logEvent (reqRec q.dstStn.toNat q 0x02 cPart (own.getD 0x40)) s)
  else match gateUnit q.dstStn.toNat q s with
    | some s' => s'
    | none => portSend n q data s
/-- The station of the port that a request takes is its destination, also in its entry, which a response from there meets (R344). -/
def moveEntry (n : Nat) (q : Packet) (s : State) : State :=
  match entryOf s q.srcStn.toNat q.txid.toNat with
  | some e => putEntry q.srcStn.toNat q.txid.toNat { e with req := { e.req with dstStn := BitVec.ofNat 11 (portStn n) } } s
  | none => s
/-- A request to a port's station goes to the port of its route (R31, R404, R407). -/
def portRequest (data : List Byte) (q : Packet) (s : State) : State :=
  let u := q.dstUnit.toNat
  if u / 2 ^ 28 < 3 ∨ !unitForm u then unitRefuse q s
  else match outPort s (q.dstStn.toNat - 1092) u with
    | none => noRoute q s
    | some n => portAccept n data { q with dstStn := BitVec.ofNat 11 (portStn n) } (moveEntry n q s)
/-- A request to a port's station goes over its link; every other is served by `f`. -/
def viaPort (data : List Byte) (f : Packet → State → State) (q : Packet) (s : State) : State :=
  if 1092 ≤ q.dstStn.toNat ∧ q.dstStn.toNat < 1120 then portRequest data q s else f q s

/-- A read of a GATHER_DEMAND (R442): an RD whose OPARG is marked so, with RETRY_SAFE set or, once it was sent again (R382), cleared (log entry 13). -/
def isGather (q : Packet) : Bool := decide (q.opcode = 1) && decide (leAt q.oparg 8 1 = 1)
/-- Where a request received over a link goes (R406): the local station, unit and address, or the code that it completes with. A gather read over a CELL link or an uplink
goes to the tile that OPARG names, at its offset in the collective buffer; a partition that is not there refuses it (R73, R442). -/
def linkTarget (s : State) (n : Nat) (q : Packet) : Except Byte (Nat × Nat × Nat) :=
  let op := q.opcode.toNat
  let a := q.addr.toNat
  if op = 0x30 ∨ op = 0x31 then .ok (1132, q.dstUnit.toNat, a)
  else if 0x20 ≤ op ∧ op ≤ 0x22 then .ok (1134, q.dstUnit.toNat, a)
  else if 4 ≤ (port s n).role then
    if 1 ≤ op ∧ op ≤ 4 ∧ a / sliceBytes < 1024 then .ok (tileStation s (a / sliceBytes), a / sliceBytes, a % sliceBytes) else .error cFormat
  else if isGather q then
    match (part s (leAt q.oparg 0 4)).prec.tiles[leAt q.oparg 4 4]? with
    | some t => .ok (tileStation s t, t, workBytes s (leAt q.oparg 0 4) + a)
    | none => .error cPart
  else .error cFormat

/-- The buffers that held a packet are free (R366). -/
def freeBuffers (n : Nat) (q : Packet) (s : State) : State := modPort n (fun x => { x with freed := addAt q.vc.toNat (1 + q.dflits.toNat) x.freed }) s
/-- Every transaction entry of a port is held (R340). -/
def portFull (s : State) (n : Nat) : Bool := decide (entryCap s (portStn n) ≤ (niOf s (portStn n)).entries.length)
/-- A request that a port has received over its link takes a free transaction entry and is served (R377, R378, R384, R405 to R407). A unit address of levels 0 to 2 names
a unit of this package once it is located (R30), and one that names no unit is refused (R31). -/
def linkServe (n : Nat) (q : Packet) (data : List Byte) (s : State) : State :=
    let stn := portStn n
    let s := freeBuffers n q s
    let x := freeTxid s stn
    let use := NiUse.link false q.srcStn.toNat q.txid.toNat (port s n).epoch
    let q := { q with srcStn := BitVec.ofNat 11 stn, txid := BitVec.ofNat 16 x, reqEpoch := BitVec.ofNat 8 (niOf s stn).epoch }
    let q := { q with tag := tagFor s q }
    let take (q : Packet) : State := putEntry stn x { req := q, data := data, first := s.tick, flight := true, use := use } s
    let fail (code : Byte) : State := portRespond n x (rspOf s stn q code [] 0 0) [] (take q)
    let here := decide (q.dstUnit.toNat / 2 ^ 28 < 3) && s.cell.located
    if !unitForm q.dstUnit.toNat || (decide (q.dstUnit.toNat / 2 ^ 28 < 3) && !(here && unitExists s q.dstUnit.toNat)) then
      portRespond n x (rspOf s stn q cOff [] 0 0) [] (logEvent (reqRec stn q 0x01 cOff 0) (take q))
    else if here || unitHere s q.dstUnit.toNat then
      match linkTarget s n q with
      | .error c => fail c
      | .ok (d, u, a) =>
        let q := { q with dstStn := BitVec.ofNat 11 d, dstUnit := BitVec.ofNat 32 u, addr := BitVec.ofNat 64 a }
        { take q with sent := .packet q data :: s.sent }
    else
      let onward := if (port s n).role = 1 ∧ (unitRank s q.dstUnit.toNat).isSome then (unitSlot s q.dstUnit.toNat).bind (primaryPort s)
        else unitPort s q.dstUnit.toNat
      match onward with
      | some m => let q := { q with dstStn := BitVec.ofNat 11 (portStn m) }; portSend m q data (take q)
      | none => let q := { q with dstStn := BitVec.ofNat 11 stn }; noRoute q (take q)
/-- One packet that a port accepts from its link (R336, R340, R367, R378, R384): a request that finds no free entry, or others of its VC waiting for one, waits. -/
def linkDeliver (n : Nat) (q : Packet) (data : List Byte) (s : State) : State :=
  if onlyMgmt s n ∧ q.vc ≠ 0 then stick (aLnkStatus n) 23 (freeBuffers n q s)
  else if q.opcode = 0x10 then
    let s := freeBuffers n q s
    match (port s n).fwd.findIdx? fun e => decide (e.q.srcStn = q.dstStn ∧ e.q.txid = q.txid) with
    | none => bump (aLnkLateDrops n) 1 (aLnkStatus n) 24 s
    | some i =>
      let e := (port s n).fwd.getD i {}
      fwdNext n (reroute (completeFwd e.q q.code data q.poison.toNat q.retryAfter.toNat (modPort n (fun x => { x with fwd := x.fwd.eraseIdx i }) s)))
  else if portFull s n ∨ (port s n).rxq.any (fun e => decide (e.1.vc = q.vc)) then modPort n (fun x => { x with rxq := x.rxq ++ [(q, data)] }) s
  else linkServe n q data s

/-- A flit that a port accepts from its link (R331, R362): a packet is delivered with its last flit; data flits without a header are dropped. -/
def takeSlot (n : Nat) (x : Slot) (s : State) : State :=
  match x.flit with
  | .head p => if p.dflits = 0 then linkDeliver n p [] s else modPort n (fun y => { y with rxPart := tabPut x.vc.toNat (p, []) y.rxPart }) s
  | .body b =>
    match tabFind x.vc.toNat (port s n).rxPart with
    | none => s
    | some e =>
      let raw := e.2 ++ b
      if raw.length < 64 * e.1.dflits.toNat then modPort n (fun y => { y with rxPart := tabPut x.vc.toNat (e.1, raw) y.rxPart }) s
      else linkDeliver n e.1 (packetData e.1 raw) (modPort n (fun y => { y with rxPart := tabDel x.vc.toNat y.rxPart }) s)

/-- The place of the packet to serve next among those that wait for a transaction entry: the oldest of MGMT, then the oldest (R336). -/
def nextRx (l : List (Packet × List Byte)) : Nat := (l.findIdx? fun e => decide (e.1.vc = 0)).getD 0
/-- A packet that waited for a transaction entry takes one that is free (R340). -/
def linkRetake (n : Nat) (s : State) : State :=
  let i := nextRx (port s n).rxq
  match (port s n).rxq[i]? with
  | none => s
  | some e => if portFull s n then s else linkServe n e.1 e.2 (modPort n (fun x => { x with rxq := x.rxq.eraseIdx i }) s)
/-- What waits at a port for an entry or for a place of its forwarding table goes on, as far as it can. -/
def portPump (n : Nat) (s : State) : State :=
  let s := (List.range (port s n).rxq.length).foldl (fun s _ => linkRetake n s) s
  (List.range (port s n).wait.length).foldl (fun s _ => fwdNext n s) s

/-! ### Loss (R381 to R386) -/

/-- The transaction entries of a port: mark those of the link as lost (R384). -/
def loseEntries (n : Nat) (s : State) : State :=
  modNi (portStn n) (fun i => { i with entries := i.entries.map fun e =>
    (e.1, match e.2.use with | .link _ a b ep => { e.2 with use := .link true a b ep } | _ => e.2) }) s

/-- The timing and replay state that a loss or a new epoch discards (R382, R385). -/
def PortSt.cleared (x : PortSt) : PortSt :=
  { x with
    replay := [], txq := [], rxq := [], rxPart := [], remap := false, credits := [], freed := [], nak := false, swapReq := none, rxSwap := none, txSwap := none, authRun := 0
    encrypted := false, keys := [], keyOk := false, beacon := false }

/-- End every forwarding entry of a port, and every request that waits for one (R382, R383). -/
def endForwards (n : Nat) (resend : Bool) (s : State) : State :=
  let l := ((port s n).fwd.map fun e => (e.q, e.data)) ++ (port s n).wait
  let s := modPort n (fun x => { x with fwd := [], wait := [] }) s
  l.foldl (fun s e => if resend then endForward n e.1 e.2 s else completeFwd e.1 cLinkLost [] 0 0 s) s

/-- An ACTIVE link is lost (R381, R382, R595); a drained port sends CLOSE, which an encrypted link protects as its other frames (R386, R388). -/
def loseLink (n cause : Nat) (s : State) : State :=
  if !portUp s n then s
  else
    let s := if cause = 7 then sendFrame n { ftype := 3, seq := (port s n).txSeq } s else s
    let s := modPort n (fun x => { x.cleared with
      lostCause := cause
      closing := decide (cause = 7)
      st := if cause = 7 then .disabled else if (cause = 3 ∨ cause = 5 ∨ cause = 6) ∧ x.present then .laneLock else .detect }) s
    let s := stick (aLnkStatus n) 21 (bump (aLnkLosses n) 1 (aLnkStatus n) 24 s)
    let s := logEvent { event := 0x0B, sev := 1, code := cLinkLost.toNat, station := portStn n, detail := n + 2 ^ 8 * cause } s
    reroute (endForwards n true (loseEntries n s))

/-- A port goes dark with its bank (R355, R369): its state is DISABLED. -/
def darkPort (n : Nat) (s : State) : State := reroute (modPort n (fun x => { x.cleared with st := .disabled, closing := false }) s)

/-! ### Training (R369 to R376) -/

/-- A port in an attempt. -/
def inAttempt (x : PortSt) : Bool :=
  match x.st with
  | .laneLock | .laneMap | .fecAlign | .negotiate | .check | .key | .activate => true
  | _ => false

/-- The port enters DOWN (R370, R371). -/
def portDown (n reason : Nat) (s : State) : State :=
  let s := modPort n (fun x => { x.cleared with st := .down, reason := reason }) s
  let s := stick (aLnkStatus n) 20 s
  let s := logEvent { event := 0x0C, sev := 1, station := portStn n, detail := n + 2 ^ 8 * reason } s
  modCell (fun c => { c with downAt := some s.tick }) s

/-- An attempt fails (R370). -/
def attemptFail (n reason : Nat) (s : State) : State :=
  let k := (port s n).attempts + 1
  let s := modPort n (fun x => { x.cleared with attempts := k, reason := reason, st := .detect, beacon := true }) s
  if 3 ≤ k then portDown n reason s else s

/-- This end's capability record (R374). -/
def ownRecord (s : State) (n : Nat) : List Byte :=
  let x := port s n
  let loc := s.cell.slot.isSome
  let flags := b2n loc + 2 * b2n x.encReq + 4 + 8 * b2n (mgmtOnly s n)
  let hd := [1, 1, 0, 2, 0x2A, 4, x.role, n, flags] ++
    (if loc then [s.cell.tier, s.cell.cell, s.cell.slot.getD 0, (ownRank s).getD 0xFF] else [0, 0, 0, 0xFF]) ++ [x.epoch]
  hd.map (BitVec.ofNat 8) ++ List.replicate 18 0 ++ slice x.nonce 0 16 ++ List.replicate 16 0

/-- CHECK (R376): the reason of the first condition that fails. -/
def checkPeer (s : State) (n : Nat) : Option Nat :=
  let x := port s n
  let f (i : Nat) : Nat := leAt x.peer i 1
  let flags := f 8
  if f 1 ≠ 1 ∨ 2 < f 2 then some 0x06
  else if (if f 6 < 6 then f 4 ≠ 0x2A else f 4 ≠ 0 ∨ f 6 < 0x10 ∨ 0x12 < f 6) then some 0x07
  else if !((x.role = 1 ∧ f 6 = 1) ∨ ((x.role = 2 ∨ x.role = 3) ∧ f 6 = 0x10) ∨ (x.role = 4 ∧ f 6 = 0x11) ∨ (x.role = 5 ∧ f 6 = 0x12) : Bool) then some 0x08
  else if x.role = 1 ∧ (!bitOf flags 0 ∨ s.cell.slot.isNone ∨ f 9 ≠ s.cell.tier ∨ f 10 ≠ s.cell.cell) then some 0x09
  else if x.role = 1 ∧ (s.cell.slot = some (f 11) ∨ (x.expect ≠ 0xFF ∧ f 11 ≠ x.expect)) then some 0x0A
  else if (x.encReq ∨ bitOf flags 1) ∧ (!bitOf flags 2 ∨ min 2 (f 3) ≠ 2) then some 0x0B
  else none

/-- What KEY sends in slot 1 (R387): 64 zero bytes under the transmit key and salt with count 0, and the tag. -/
def keyRecord (x : PortSt) : List Byte × List Byte :=
  let z := gcmSeal (natsOf (x.keys.getD 0 [])) (natsOf (x.keys.getD 1 [] ++ List.replicate 8 0)) [] (List.replicate 64 0)
  (bytesOf z.1, bytesOf z.2)
/-- Credits and counts as ACTIVATE sets them, with the replay buffer empty (R366, R369). -/
def PortSt.activated (x : PortSt) : PortSt :=
  { x with
    credits := linkBuffers, freed := [0, 0, 0, 0], replay := [], txSeq := 0, rxSeq := 0, txCount := 0, rxCount := 0, nak := false, authRun := 0, rr := 0, rxPart := []
    remap := false }
/-- Enter a state of training (R369): NEGOTIATE takes a fresh NONCE, and NEGOTIATE and CHECK send the record in TRAIN frames (R374), KEY its confirmation (R387), ACTIVATE
EMPTY frames; of the frames that a state repeats the first is given. -/
def enterState (n : Nat) (t : TrainSt) (s : State) : State :=
  let s := modPort n (fun x => { x with st := t }) s
  match t with
  | .negotiate =>
    let s := tickFree (modPort n (fun x => { x with peer := [], nonce := (List.range 16).map fun i => Config.freeByte s.freeCount i }) s)
    sendTrain n (ownRecord s n) [] s
  | .check => sendTrain n (ownRecord s n) [] s
  | .key => let k := keyRecord (port s n); sendTrain n k.1 k.2 s
  | .activate => sendEmpty n false (modPort n PortSt.activated s)
  | _ => s

/-- Begin an attempt (R370). -/
def startAttempt (n : Nat) (s : State) : State := enterState n .laneLock (modPort n (fun x => { x with beacon := false, remap := false }) s)

/-- Whether a port with a role may train: its bank's domain is on, and an image is loaded or it is the boot port (R369, R379). -/
def portWanted (s : State) (n : Nat) : Bool :=
  decide (domSt s (24 + n / 7) = .on) && decide ((port s n).role ≠ 0) && (decide (reg s aImgActive ≠ 0) || (port s n).boot)
/-- A port leaves DISABLED when it may train, for WAIT_LOC or DETECT, and with light for LANE_LOCK (R369, R380). -/
def openPort (n : Nat) (s : State) : State :=
  if (port s n).st ≠ .disabled ∨ (port s n).closing ∨ !portWanted s n then s
  else
    let s := modPort n (fun x => { x with attempts := 0, st := if x.role = 1 ∧ !s.cell.located then .waitLoc else .detect }) s
    if (port s n).st = .detect ∧ (port s n).present then startAttempt n s else s

/-- LNK_STATUS as it reads, the bits that are not stored. -/
def linkView (s : State) (n : Nat) : Nat :=
  let x := port s n
  (match x.st with
    | .disabled => 0 | .waitLoc => 1 | .detect => 2 | .laneLock => 3 | .laneMap => 4 | .fecAlign => 5 | .negotiate => 6 | .check => 7 | .key => 8
    | .activate => 9 | .active => 10 | .down => 11)
    + 2 ^ 4 * x.attempts + 2 ^ 6 * b2n x.present + 2 ^ 7 * b2n x.boot + 2 ^ 8 * x.epoch + 2 ^ 16 * x.minor + 2 ^ 18 * b2n x.encrypted
    + 2 ^ 25 * x.lostCause + 2 ^ 32 * x.reason
/-- LNK_PEER as it reads. -/
def peerView (s : State) (n : Nat) : Nat :=
  let f (i : Nat) : Nat := leAt (port s n).peer i 1
  f 6 + 2 ^ 8 * f 9 + 2 ^ 16 * f 10 + 2 ^ 24 * f 11 + 2 ^ 32 * f 12 + 2 ^ 40 * f 13 + 2 ^ 48 * f 3 + 2 ^ 56 * f 8
/-- LNK_LANES as it reads. -/
def lanesView (s : State) (n : Nat) : Nat :=
  let x := port s n
  x.txIdle + 2 ^ 4 * b2n x.txSpare + 2 ^ 8 * x.rxIdle + 2 ^ 12 * b2n x.rxSpare

end Sys2Proof.Machine
end

