-- ==== Sys2Proof/Machine/Sha3.lean ====
section
/-!
DEFINITION. Machine/Sha3.lean: SHA3-256, HMAC and HKDF with it, as images (R45), digests (R482) and derived keys use them.
-/
namespace Sys2Proof.Machine

/-- Rotation of a lane to the left. -/
def rotl64 (x n : Nat) : Nat := (x * 2 ^ (n % 64)) % 2 ^ 64 + x / 2 ^ (64 - n % 64)

/-- The rotation offsets of lanes, lane (x, y) at x + 5 y. -/
def keccakRot : List Nat := [0, 1, 62, 28, 27, 36, 44, 6, 55, 20, 3, 10, 43, 25, 39, 41, 45, 15, 21, 8, 18, 2, 61, 56, 14]

/-- The round constants, rounds 0 to 11. -/
def keccakRcA : List Nat := [0x0000000000000001, 0x0000000000008082, 0x800000000000808A, 0x8000000080008000, 0x000000000000808B, 0x0000000080000001,
  0x8000000080008081, 0x8000000000008009, 0x000000000000008A, 0x0000000000000088, 0x0000000080008009, 0x000000008000000A]
/-- The round constants, rounds 12 to 23. -/
def keccakRcB : List Nat := [0x000000008000808B, 0x800000000000008B, 0x8000000000008089, 0x8000000000008003, 0x8000000000008002, 0x8000000000000080,
  0x000000000000800A, 0x800000008000000A, 0x8000000080008081, 0x8000000000008080, 0x0000000080000001, 0x8000000080008008]

/-- One round of Keccak-f[1600]. -/
def keccakRound (a : List Nat) (rc : Nat) : List Nat :=
  let g := fun (x y : Nat) => a.getD (x % 5 + 5 * (y % 5)) 0
  let c := (List.range 5).map fun x => g x 0 ^^^ g x 1 ^^^ g x 2 ^^^ g x 3 ^^^ g x 4
  let d := (List.range 5).map fun x => c.getD ((x + 4) % 5) 0 ^^^ rotl64 (c.getD ((x + 1) % 5) 0) 1
  let e := (List.range 25).map fun i => rotl64 (a.getD i 0 ^^^ d.getD (i % 5) 0) (keccakRot.getD i 0)
  -- pi: lane (y, 2 x + 3 y) takes lane (x, y); so lane (u, v) comes from x = (u + 3 v) mod 5, y = u
  let b := (List.range 25).map fun i => e.getD ((i % 5 + 3 * (i / 5)) % 5 + 5 * (i % 5)) 0
  let f := (List.range 25).map fun i =>
    let y := i / 5
    b.getD i 0 ^^^ ((2 ^ 64 - 1 - b.getD ((i + 1) % 5 + 5 * y) 0) &&& b.getD ((i + 2) % 5 + 5 * y) 0)
  match f with
  | x :: r => (x ^^^ rc) :: r
  | [] => []

/-- Keccak-f[1600]. -/
def keccakF (a : List Nat) : List Nat := (keccakRcA ++ keccakRcB).foldl keccakRound a

/-- The lanes of a block of 136 bytes. -/
def keccakLanes (l : List Byte) : List Nat := (List.range 25).map fun i => if i < 17 then leAt l (8 * i) 8 else 0

/-- Absorb blocks of 136 bytes. -/
def keccakAbsorb : Nat → List Byte → List Nat → List Nat
  | 0, _, a => a
  | n + 1, l, a => keccakAbsorb n (l.drop 136) (keccakF (List.zipWith (· ^^^ ·) a (keccakLanes (l.take 136))))

/-- SHA3-256. -/
def sha3 (m : List Byte) : List Byte :=
  let pad := 136 - m.length % 136
  let p : List Byte := if pad = 1 then [0x86] else 0x06 :: (List.replicate (pad - 2) 0 ++ [0x80])
  let l := m ++ p
  ((keccakAbsorb (l.length / 136) l (List.replicate 25 0)).take 4).flatMap (leBytes 8)

/-- HMAC with SHA3-256. -/
def hmac (key msg : List Byte) : List Byte :=
  let k := if 136 < key.length then sha3 key else key
  let k := k ++ List.replicate (136 - k.length) 0
  sha3 (k.map (· ^^^ 0x5c) ++ sha3 (k.map (· ^^^ 0x36) ++ msg))

/-- HKDF-Expand with SHA3-256: `n` blocks from block `i`. -/
def hkdfBlocks (prk info : List Byte) : Nat → Nat → List Byte → List Byte
  | 0, _, _ => []
  | n + 1, i, t =>
    let t' := hmac prk (t ++ info ++ [BitVec.ofNat 8 i])
    t' ++ hkdfBlocks prk info n (i + 1) t'

/-- HKDF with SHA3-256: `len` bytes from the input key, salt and info. -/
def hkdf (salt ikm info : List Byte) (len : Nat) : List Byte :=
  (hkdfBlocks (hmac salt ikm) info (ceilDiv len 32) 1 []).take len

end Sys2Proof.Machine
end

