-- ==== Sys2Proof/Machine/CollOps.lean ====
section
/-!
DEFINITION. Machine/CollOps.lean: the collective engine (R417 to R451): groups, member vectors, rounds, reductions, records and the end of a collective.
-/
namespace Sys2Proof.Machine

/-! ### Access to the engine's state -/

/-- The collectives of partition `p`. -/
def collPart (s : State) (p : Nat) : CollPart := tabGet {} p s.coll.parts
/-- Change the collectives of partition `p`. -/
def modColl (p : Nat) (f : CollPart → CollPart) (s : State) : State :=
  { s with coll := { s.coll with parts := tabSet {} p (f (collPart s p)) s.coll.parts } }
/-- Change the collective of partition `p` that runs. -/
def modRun (p : Nat) (f : Coll → Coll) (s : State) : State := modColl p (fun x => { x with run := x.run.map f }) s

/-- Posts queued over the package. -/
def collQueued (s : State) : Nat := (s.coll.parts.map fun e => e.2.queue.length).sum
/-- COLL_STATUS, the bits computed on read. -/
def collStatusView (s : State) : Nat :=
  collQueued s + 2 ^ 16 * s.coll.parts.countP (fun e => e.2.run.isSome) + 2 ^ 24 * s.coll.pend.length
/-- COLL_PART_p as it reads. -/
def collPartView (s : State) (p : Nat) : Nat :=
  let x := collPart s p
  x.queue.length + 8 * b2n x.fence + 16 * b2n x.run.isSome + 2 ^ 16 * x.lastSeq

/-! ### Member vectors (R421) -/

/-- The tile count of partition `p`. -/
def tileCount (s : State) (p : Nat) : Nat := (part s p).prec.tiles.length
/-- The package address of byte `b` of a vector of `L` bytes at offset `O`, in 64-byte units. -/
def vecAddr (s : State) (p O L b : Nat) : Nat :=
  let k := L / tileCount s p
  pkgAddr ((part s p).prec.tiles.getD (b / k) 0) (workBytes s p + 64 * O + b % k)
/-- The vector lies in the collective buffer. -/
def vecFits (s : State) (p O L : Nat) : Bool := decide (64 * O + L / tileCount s p ≤ collBytes s p)
/-- Pieces of bytes `[off, off + n)` within 64-byte lines of the vector: start and length. -/
def vecPieces (off n : Nat) : List (Nat × Nat) :=
  if n = 0 then [] else
    (List.range ((off + n - 1) / 64 - off / 64 + 1)).map fun i =>
      let lo := max off ((off / 64 + i) * 64)
      (lo, min (off + n) ((off / 64 + i + 1) * 64) - lo)
/-- Bytes of a vector. -/
def vecBytes (s : State) (p O L off n : Nat) : List Byte := (List.range n).map fun i => memByte s (vecAddr s p O L (off + i))
/-- The 64-byte pieces of a range that hold poison, by number in the range (R603). -/
def vecPoison (s : State) (p O L off n : Nat) : List Nat :=
  let ps := vecPieces off n
  (List.range ps.length).filter fun i => let x := ps.getD i (0, 0); anyBad s (vecAddr s p O L x.1) x.2
/-- Of `k` bytes from byte `b` on of a range that begins at `off`, one lies in an uncorrectable word. -/
def vecBad (s : State) (p O L off b k : Nat) : Bool := !(vecPoison s p O L (off + b) k).isEmpty
/-- The events of reading a range. -/
def vecTouch (p O L off n : Nat) (s : State) : State := (vecPieces off n).foldl (fun s x => touchRange 1 (vecAddr s p O L x.1) x.2 s) s
/-- Write bytes to a vector, marking the pieces in `bad` (R601, R602). -/
def vecWrite (p O L off : Nat) (bs : List Byte) (bad : List Nat) (s : State) : State :=
  let ps := vecPieces off bs.length
  (List.range ps.length).foldl (fun s i =>
    let x := ps.getD i (0, 0)
    let b := (bs.drop (x.1 - off)).take x.2
    if bad.contains i then spWriteMarked (vecAddr s p O L x.1) b s else spWrite 1 (vecAddr s p O L x.1) b s) s
/-- Copy bytes of one vector to another, with their marks. -/
def vecCopy (p O L off O' L' off' n : Nat) (s : State) : State :=
  vecWrite p O' L' off' (vecBytes s p O L off n) (vecPoison s p O L off n) (vecTouch p O L off n s)
/-- Leave unspecified bytes in a vector (R446). -/
def vecScramble (p O L : Nat) (s : State) : State :=
  vecWrite p O L 0 ((List.range L).map fun i => Config.freeByte s.freeCount i) [] (tickFree s)

/-! ### Groups (R418, R420) -/

/-- A group entry decoded; `none` where bits [31:26] are not 0. -/
def memberOf (w : Nat) : Option Member :=
  if fieldOf w 26 6 ≠ 0 then none else some ⟨fieldOf w 12 8, fieldOf w 4 8, fieldOf w 0 4, fieldOf w 20 6⟩
/-- Two members lie in one cell. -/
def sameCell (a b : Member) : Bool := decide (a.tier = b.tier ∧ a.cell = b.cell)
/-- The cell subgroup of member `i`, in table order. -/
def subgroupOf (c : Coll) (i : Nat) : List Nat :=
  (List.range c.members.length).filter fun j => sameCell (c.members.getD j {}) (c.members.getD i {})
/-- The first members of the cell subgroups, in table order. -/
def subgroupHeads (c : Coll) : List Nat := (List.range c.members.length).filter fun j => (subgroupOf c j).head? = some j
/-- Local index of member `i`. -/
def localIdx (c : Coll) (i : Nat) : Nat := (subgroupOf c i).findIdx (· = i)
/-- Subgroup index of member `i`. -/
def groupIdx (c : Coll) (i : Nat) : Nat := (subgroupHeads c).findIdx fun j => sameCell (c.members.getD j {}) (c.members.getD i {})
/-- The column of member `i`: the members with its local index, by subgroup. -/
def columnOf (c : Coll) (i : Nat) : List Nat := (subgroupHeads c).map fun h => (subgroupOf c h).getD (localIdx c i) 0
/-- Members in a subgroup, and subgroups. -/
def cOf (c : Coll) : Nat := (subgroupOf c c.me).length
def gOf (c : Coll) : Nat := (subgroupHeads c).length
/-- n of the group. -/
def nOf (c : Coll) : Nat := c.members.length
/-- The group is well formed for partition `p` (R418, R420). -/
def groupOk (s : State) (p : Nat) (c : Coll) : Bool :=
  (c.members.countP (· = ownMember s p) = 1) && (subgroupHeads c).all fun h => (subgroupOf c h).length = cOf c

/-! ### Operations (R424, R437) -/

/-- The operation reduces. -/
def reduces (c : Coll) : Bool := decide (c.op = 1 ∨ c.op = 2)
/-- Element size of a reduction. -/
def elemSize (c : Coll) : Nat := if c.rfmt % 2 = 1 then 8 else 4
/-- The element format of a reduction. -/
def elemFmt (c : Coll) : FloatFmt := if c.rfmt % 2 = 1 then fmtFp64 else fmtFp32
/-- ROP. -/
def ropOf (c : Coll) : Nat := fieldOf c.rfmt 2 2
/-- The sum is compensated (R439: COMP is ignored for MAX and MIN). -/
def compSum (c : Coll) : Bool := bitOf c.rfmt 1 && decide (ropOf c = 0)
/-- Bytes of an element of a partial that travels in phases 2 and 3 (R439). -/
def partSize (c : Coll) : Nat := if compSum c then 16 else elemSize c
/-- The length of the destination vector (R424). -/
def dstLen (c : Coll) : Nat :=
  match c.op with
  | 2 => c.vlen / nOf c
  | 3 => nOf c * c.vlen
  | 7 => 0
  | 8 => nOf c * c.vlen
  | _ => c.vlen
/-- The length of the staging vector (R440). -/
def stageLen (c : Coll) : Nat :=
  max ((cOf c - 1) * (c.vlen / cOf c)) ((gOf c - 1) * (partSize c / elemSize c) * (c.vlen / nOf c))
/-- The partition has INVAR set. -/
def invarOf (s : State) (p : Nat) : Bool := bitOf (part s p).prec.mode 0
/-- STAGE is used. -/
def staged (s : State) (p : Nat) (c : Coll) : Bool := reduces c && invarOf s p
/-- The last phase of the operation. -/
def lastPhase (c : Coll) : Nat := if c.op = 1 then 4 else if c.op = 2 then 2 else 1
/-- The peers of a phase (R437), without this member. -/
def phasePeers (c : Coll) : List Nat :=
  if reduces c then (if c.phase = 1 ∨ c.phase = 4 then subgroupOf c c.me else columnOf c c.me).filter (· ≠ c.me)
  else if c.op = 7 ∨ c.op = 8 then []
  else if c.op = 6 then (if c.me = c.root then (List.range (nOf c)).filter (· ≠ c.me) else [])
  else (List.range (nOf c)).filter (· ≠ c.me)
/-- The members whose data this member awaits in its phase. -/
def phaseSenders (c : Coll) : List Nat :=
  if c.op = 6 then (if c.me = c.root then [] else [c.root]) else phasePeers c
/-- The DONE records from a sender that end its data up to the phase. -/
def donesNeeded (c : Coll) : Nat := if c.phase = 4 ∨ c.phase = 3 then 2 else 1

/-! ### Reduction arithmetic (R439) -/

/-- A value in the pair of codes that the agents keep. -/
def pairCodes (c : Coll) (x : Val × Val) : Nat × Nat :=
  if compSum c then ((fmtFp64.encode false .rne x.1).code, (fmtFp64.encode false .rne x.2).code)
  else (((elemFmt c).encode false .rne (if x.1.isNan then vNan else x.1)).code, 0)
/-- The values of a kept pair. -/
def pairVals (c : Coll) (x : Nat × Nat) : Val × Val :=
  if compSum c then (fmtFp64.decode x.1, fmtFp64.decode x.2) else ((elemFmt c).decode x.1, vZero)
/-- A single contribution before any other. -/
def startPair (c : Coll) (t : Val) : Nat × Nat := pairCodes c (if compSum c then foldPair (vZero, vZero) t else (t, vZero))
/-- Fold a contribution into a partial (R439, R152). -/
def foldIn (c : Coll) (x : Nat × Nat) (t : Val) : Nat × Nat :=
  let a := pairVals c x
  pairCodes c (if compSum c then foldPair a t
    else if ropOf c = 0 then (rnTo (elemFmt c) (addV a.1 t), vZero)
    else if ropOf c = 1 then (maxV a.1 t, vZero) else (minV a.1 t, vZero))
/-- The value that a partial stands for. -/
def pairTotal (c : Coll) (x : Nat × Nat) : Val := let a := pairVals c x; if compSum c then addV a.1 a.2 else a.1
/-- The element code written to DST. -/
def finalCode (c : Coll) (x : Nat × Nat) : Nat :=
  let v := pairTotal c x
  ((elemFmt c).encode false .rne (if v.isNan then vNan else v)).code
/-- The bytes of partials in element format. -/
def finalBytes (c : Coll) (xs : List (Nat × Nat)) : List Byte := xs.flatMap fun x => leBytes (elemSize c) (finalCode c x)
/-- The bytes of partials as they travel in phases 2 and 3. -/
def partBytes (c : Coll) (xs : List (Nat × Nat)) : List Byte :=
  xs.flatMap fun x => if compSum c then leBytes 8 x.1 ++ leBytes 8 x.2 else leBytes (elemSize c) x.1
/-- Contributions read from bytes; an element of which `bad`, asked for its first byte and its length, says that poison affects it is NaN (R446). -/
def contribs (c : Coll) (pair : Bool) (bs : List Byte) (bad : Nat → Nat → Bool) : List Val :=
  let e := if pair then 16 else elemSize c
  (List.range (bs.length / e)).map fun i =>
    if bad (e * i) e then vNan
    else if pair then addV (fmtFp64.decode (leAt bs (16 * i) 8)) (fmtFp64.decode (leAt bs (16 * i + 8) 8))
    else (elemFmt c).decode (leAt bs (e * i) e)
/-- The own contribution of this phase: piece `l` of the source in phase 1. -/
def ownPiece (s : State) (p : Nat) (c : Coll) : List Val :=
  let n := c.vlen / cOf c
  let off := localIdx c c.me * n
  contribs c false (vecBytes s p c.src c.vlen off n) (vecBad s p c.src c.vlen off)
/-- Fold a list of contributions into partials. -/
def foldAll (c : Coll) (xs : List (Nat × Nat)) (ts : List Val) : List (Nat × Nat) := List.zipWith (foldIn c) xs ts
/-- The contributions of the senders of an Invar phase as staged, in sender order. -/
def stagedContribs (s : State) (p : Nat) (c : Coll) (pair : Bool) (elems k : Nat) : List Val :=
  let n := elems * (if pair then 16 else elemSize c)
  contribs c pair (vecBytes s p c.stage (stageLen c) (k * n) n) (vecBad s p c.stage (stageLen c) (k * n))
/-- An Invar fold (R440): ascending order of senders with the own partial in its place. -/
def invarFold (s : State) (p : Nat) (c : Coll) (pair : Bool) (own : List (Nat × Nat)) (pos count : Nat) : List (Nat × Nat) :=
  let get (i : Nat) : List Val :=
    if i = pos then own.map (pairTotal c) else stagedContribs s p c pair own.length (if i < pos then i else i - 1)
  (List.range (count - 1)).foldl (fun acc i => foldAll c acc (get (i + 1))) (if pos = 0 then own else (get 0).map (startPair c))

/-! ### Packets (R431, R434, R445)

The spec names what OPARG carries and not where in it, but for the count record of 16 bytes (R435); the layout is the model's (log entry 13): the kind in byte 0, CTAG at
byte 1 and the sender's index at byte 5, and for a READY its fields packed into the first 16 bytes, with the count record in the last 16. ADDR of a CCTL holds the partition of the member that it is for; for CDATA that partition stands in byte 7, and the phase in byte 8. -/

/-- An argument of 32 bytes. -/
def argOf (l : List Byte) : List Byte := slice l 0 32
/-- The count record of 16 bytes (R435): the count, the sender's index and the CTAG; an operation without counts has its VLEN in place of the count. -/
def countRec (r : ReadyRec) : List Byte := leBytes 8 (if r.op = 5 then r.count.toNat else r.vlen.toNat) ++ leBytes 4 r.index.toNat ++ leBytes 4 r.ctag.toNat
/-- The argument of a READY (R431): OP, RFMT, ROOT, T, the INVAR bit and, for ALL_TO_ALLV, VLEN in units of 64 bytes on each tile; the group hash; the count record. -/
def readyArg (r : ReadyRec) : List Byte :=
  let v := if r.op = 5 then r.vlen.toNat / (64 * r.t.toNat) else 0
  argOf (leBytes 8 (2 ^ 4 * (r.op.toNat % 16) + 2 ^ 8 * r.rfmt.toNat + 2 ^ 16 * r.root.toNat + 2 ^ 32 * (r.t.toNat % 2 ^ 11) + 2 ^ 43 * b2n r.invar + 2 ^ 44 * (v % 2 ^ 20))
    ++ leBytes 8 r.hash.toNat ++ countRec r)
/-- A packet of partition `p`'s collective to member `i`. -/
def collPacket (p : Nat) (c : Coll) (i op : Nat) (arg : List Byte) : Packet :=
  { vc := 3, opcode := BitVec.ofNat 6 op, tag := BitVec.ofNat 7 p, srcStn := 1132, dstUnit := BitVec.ofNat 32 (memberUnit (c.members.getD i {}))
    addr := BitVec.ofNat 64 (c.members.getD i {}).part, oparg := arg }
/-- Packets wait for their transaction entries (R340). -/
def collPut (ks : List CollPkt) (s : State) : State := { s with coll := { s.coll with outq := s.coll.outq ++ ks } }
/-- Queue a CCTL to member `i`. -/
def putCctl (p : Nat) (c : Coll) (i : Nat) (last : Bool) (arg : List Byte) (s : State) : State :=
  collPut [{ part := p, seq := c.seq, member := i, last := last, q := collPacket p c i 0x31 arg }] s
/-- The packets of a collective that has failed are not sent, but for its ABORTs. -/
def collUnsend (p seq : Nat) (s : State) : State :=
  { s with coll := { s.coll with outq := s.coll.outq.filter fun k => k.last || decide (k.part ≠ p) || decide (k.seq ≠ seq) } }

/-- The station that a packet of the engine goes to: the engine's own on this package, else the port of its route (R404, R407). -/
def collRoute (s : State) (q : Packet) : Option Nat :=
  if q.dstUnit.toNat < 2 ^ 28 then some (tileStation s q.dstUnit.toNat)
  else if q.dstUnit.toNat = memberUnit (ownMember s 0) then some 1132
  else (unitPort s q.dstUnit.toNat).map portStn
/-- A packet of the engine leaves under its entry (R382, R383, R414, R431, R442). -/
def collDispatch (x : Nat) (e : NiEntry) (s : State) : State :=
  let q := { e.req with dstStn := BitVec.ofNat 11 ((collRoute s e.req).getD 1132) }
  let s := putEntry 1132 x { e with req := q, flight := true, deferred := false } s
  match collRoute s q with
  | none => match unheldAnswer q s with | some s' => s' | none => completeFwd q cLinkLost [] 0 0 s
  | some d => if 1092 ≤ d ∧ d < 1120 then portRequest e.data q s else { s with sent := .packet q e.data :: s.sent }
/-- A packet of the engine opens its entry and leaves. -/
def collSend (q : Packet) (data : List Byte) (use : NiUse) (s : State) : State :=
  let x := freeTxid s 1132
  collDispatch x { req := { q with txid := BitVec.ofNat 16 x, reqEpoch := BitVec.ofNat 8 (niOf s 1132).epoch }, data := data, first := s.tick, use := use } s
/-- Send waiting packets while station 1132 has free entries (R340). -/
def collPump : Nat → State → State
  | 0, s => s
  | fuel + 1, s =>
    match s.coll.outq with
    | [] => s
    | k :: r => if niStalled s 1132 then s else collPump fuel (collSend k.q k.data (.coll k.part k.member k.seq) { s with coll := { s.coll with outq := r } })
/-- Send all that may be sent. -/
def collFlush (s : State) : State := collPump (s.coll.outq.length + 1) s

/-! ### Records and ends -/

/-- A sticky event of COLL_STATUS bit 40, 41 or 42, with COLL_FAULT_INFO (R450). -/
def collEvent (p : Nat) (code : Byte) (detail member ctag bit : Nat) (s : State) : State :=
  let s := if getF s aCollStatus 40 3 = 0 then
    setReg aCollFaultInfo (BitVec.ofNat 64 (p + 2 ^ 8 * code.toNat + 2 ^ 16 * detail + 2 ^ 32 * member + 2 ^ 48 * (ctag % 65536))) s else s
  stick aCollStatus bit s

/-- Write a completion record (R427): words 1 to 7, then word 0; `w2` is word 2 and `w4` word 4. Word 6 is the bytes of an ALL_TO_ALLV that has received its counts and
its data. A record that lies outside working memory is not written. -/
def collRecord (p : Nat) (c : Coll) (code : Byte) (detail member w2 w4 : Nat) (s : State) : State :=
  let a := pkgAddr c.tile c.cpl
  let w1 := leBytes 8 c.ctag ++ leBytes 8 w2 ++ leBytes 8 s.tick ++ leBytes 8 w4 ++ leBytes 8 member
    ++ leBytes 8 (if c.op = 5 ∧ 2 ≤ c.phase ∧ (code = cDone ∨ code = cPoison) then (c.ready.map Prod.snd).sum + c.counts.getD c.me 0 else 0) ++ leBytes 8 0
  let w0 := code.toNat + 2 ^ 8 * detail + 2 ^ 32 * c.seq + 2 ^ 63
  if workBytes s p < c.cpl + 64 ∨ c.cpl % 64 ≠ 0 then s else spWrite 1 a (leBytes 8 w0) (spWrite 1 (a + 8) w1 s)

/-- Mark the gated items that wait for a CTAG (R463). -/
def openGates (p ctag : Nat) (s : State) : State :=
  modPart p (fun x => { x with nq := x.nq.map fun i => if i.gate ∧ i.ctag = ctag then { i with gateDone := true } else i }) s

/-- ABORT to every other member of a collective that has not ended with its own result (R445); what else it would send stays unsent. -/
def collAborts (p : Nat) (c : Coll) (code : Byte) (s : State) : State :=
  if c.op = 8 then collUnsend p c.seq s
  else ((List.range (nOf c)).filter (· ≠ c.me)).foldl (fun s i => putCctl p c i true (argOf ([2] ++ leBytes 4 c.ctag ++ leBytes 2 c.me ++ [code])) s) (collUnsend p c.seq s)
/-- A collective ends (R444 to R449): record, counters, ABORT to the members, unspecified vectors after a failure. One that ends with POISON for a reason other than
its own data, with detail PEER, sends ABORT too (R445, R447; log entry 13). -/
def collFinish (p : Nat) (c : Coll) (code : Byte) (detail member : Nat) (s : State) : State :=
  let ok := code = cDone ∨ code = cPoison
  let s := if !ok ∧ c.fence.isSome then
      let s := if dstLen c = 0 then s else vecScramble p c.dst (dstLen c) s
      if staged s p c then vecScramble p c.stage (stageLen c) s else s
    else s
  let w2 := if (collPart s p).fence then (collPart s p).fenceTick else 0
  let w4 := if c.fence.isSome then ticksAfter c.lastReady w2 else 0
  let s := collRecord p c code detail member w2 w4 s
  let s := openGates p c.ctag s
  let s := if w2 ≠ 0 then bump (aCollWait p) w4 aCollStatus 44 s else s
  let s := if code = cDone then bump aCollDone 1 aCollStatus 44 s else bump aCollAborts 1 aCollStatus 44 s
  let s := modColl p (fun x => { x with lastSeq := c.seq }) s
  if ok then (if code = cPoison ∧ detail = 6 then collAborts p c code s else s)
  else
    let s := collEvent p code detail member c.ctag 40 s
    let s := if code = cTimeout then collEvent p code detail member c.ctag 41 s else s
    let s := if detail = 3 then collEvent p code detail member c.ctag 42 s else s
    let s := logEvent { event := 0x10, sev := 1, tag := p, code := code.toNat, station := 1132, detail := detail, addr := c.ctag } s
    collAborts p c code s

/-- Open the fence when nothing of the partition is queued or running (R430). -/
def openFence (p : Nat) (s : State) : State :=
  if (collPart s p).run.isNone ∧ (collPart s p).queue.isEmpty then modColl p (fun x => { x with held := false, fence := false }) s else s

/-- The collective that runs ends; those queued behind a failed one end with it (R447); then the fence may open. The next collective, where one
waits, is started by `collStep`. -/
def collEnd (p : Nat) (code : Byte) (detail member : Nat) (s : State) : State :=
  match (collPart s p).run with
  | none => s
  | some c =>
    let s := collFinish p c code detail member (modColl p (fun x => { x with run := none }) s)
    let s := if code = cDone then s
      else
        let q := (collPart s p).queue
        q.foldl (fun s c => collFinish p c code 6 member s) (modColl p (fun x => { x with queue := [] }) s)
    openFence p s

/-- End every collective of a partition, running and queued (R446); those behind the first end with detail PEER (R447). -/
def collEndAll (p : Nat) (code : Byte) (detail : Nat) (s : State) : State :=
  let s := collEnd p code detail 0xFFF s
  let q := (collPart s p).queue
  let s := modColl p (fun x => { x with queue := [] }) s
  collFlush (openFence p (match q with
    | [] => s
    | c :: r => r.foldl (fun s c => collFinish p c code 6 0xFFF s) (collFinish p c code detail 0xFFF s)))

/-! ### Rounds -/

/-- The READY that partition `p` sends to member `i` (R431, R435). -/
def readyOf (s : State) (p : Nat) (c : Coll) (i : Nat) : ReadyRec :=
  { ctag := BitVec.ofNat 32 c.ctag, hash := BitVec.ofNat 64 c.hash, op := BitVec.ofNat 8 c.op, rfmt := BitVec.ofNat 8 c.rfmt,
    vlen := BitVec.ofNat 64 c.vlen, root := BitVec.ofNat 16 c.root, t := BitVec.ofNat 16 (tileCount s p), index := BitVec.ofNat 16 c.me,
    invar := invarOf s p, count := BitVec.ofNat 64 (c.counts.getD i 0) }

/-- The pieces of `n` bytes for an offset `off` that one CDATA carries each (R333, R434): first byte and length, up to 8 data flits from ADDR mod 64 on. -/
def dataCuts (off n : Nat) : List (Nat × Nat) :=
  let a := 512 - off % 64
  (List.range (n / 512 + 2)).filterMap fun i =>
    let lo := if i = 0 then 0 else a + 512 * (i - 1)
    let hi := min n (a + 512 * i)
    if lo < hi then some (lo, hi - lo) else none
/-- The bits of POISON of a piece of `n` bytes whose ADDR is `off`: those of the flits that hold a poisoned byte, where `bad b k` tells it of `k` bytes from byte `b` on. -/
def flitBits (off n : Nat) (bad : Nat → Nat → Bool) : Nat :=
  ((List.range (ceilDiv (off % 64 + n) 64)).map fun i =>
    let lo := 64 * i - off % 64
    2 ^ i * b2n (bad lo (min n (64 * (i + 1) - off % 64) - lo))).sum
/-- Queue for member `i` data of a phase, the byte at `b` for offset `place b` (R434). -/
def putData (p : Nat) (c : Coll) (i : Nat) (place : Nat → Nat) (data : List Byte) (bad : Nat → Nat → Bool) (s : State) : State :=
  let arg := argOf ([3] ++ leBytes 4 c.ctag ++ leBytes 2 c.me ++ leBytes 1 (c.members.getD i {}).part ++ leBytes 1 c.phase)
  collPut ((dataCuts (place 0) data.length).map fun x =>
    let off := place x.1
    { part := p, seq := c.seq, member := i, data := (data.drop x.1).take x.2
      q := { collPacket p c i 0x30 arg with
        addr := BitVec.ofNat 64 off, bytesM1 := BitVec.ofNat 9 (x.2 - 1), dflits := BitVec.ofNat 4 (ceilDiv (off % 64 + x.2) 64)
        poison := BitVec.ofNat 8 (flitBits off x.2 fun b n => bad (x.1 + b) n) } }) s
/-- Queue DONE for member `i`. -/
def putDone (p : Nat) (c : Coll) (i : Nat) (s : State) : State := putCctl p c i false (argOf ([1] ++ leBytes 4 c.ctag ++ leBytes 2 c.me)) s
/-- Queue this member's READY for member `i`. -/
def putReady (p : Nat) (c : Coll) (i : Nat) (s : State) : State := putCctl p c i false (readyArg (readyOf s p c i)) s

/-- Note poison in the collective that runs. -/
def notePoison (p : Nat) (b : Bool) (s : State) : State := if b then modRun p (fun c => { c with poison := true }) s else s
/-- Queue for a member the data that this member owes it in the phase, then DONE (R434, R437). Without INVAR the offset of a contribution is that of its element in the
receiver's destination vector; the pieces of the first phase of a REDUCE_SCATTER are longer than that vector, and their offset counts within the piece (DESIGN CHOICE,
log entry 13). -/
def sendTo (p : Nat) (c : Coll) (i : Nat) (s : State) : State :=
  let raw (off n dOff : Nat) : State :=
    putDone p c i (putData p c i (dOff + ·) (vecBytes s p c.src c.vlen off n) (vecBad s p c.src c.vlen off)
      (vecTouch p c.src c.vlen off n (notePoison p (vecBad s p c.src c.vlen off 0 n) s)))
  let made (bs : List Byte) (place : Nat → Nat) : State := putDone p c i (putData p c i place bs (fun _ _ => false) s)
  let s := if c.op = 1 ∨ c.op = 2 then
      let np := c.vlen / cOf c
      let ns := np / gOf c
      let sub := ns / elemSize c
      let l := localIdx c c.me
      let g := groupIdx c c.me
      match c.phase with
      | 1 => let l' := localIdx c i; raw (l' * np) np (if invarOf s p then (if l < l' then l else l - 1) * np else if c.op = 1 then l' * np else 0)
      | 2 =>
        let g' := groupIdx c i
        made (partBytes c ((c.acc.drop (g' * sub)).take sub)) fun b =>
          if invarOf s p then (if g < g' then g else g - 1) * (sub * partSize c) + b
          else (if c.op = 1 then l * np + g' * ns else 0) + b / partSize c * elemSize c
      | 3 => made (partBytes c c.acc) fun b => l * np + g * ns + b / partSize c * elemSize c
      | _ => made (vecBytes s p c.dst c.vlen (l * np) np) (l * np + ·)
    else match c.op with
      | 3 => raw 0 c.vlen (c.me * c.vlen)
      | 4 => raw (i * (c.vlen / nOf c)) (c.vlen / nOf c) (c.me * (c.vlen / nOf c))
      | 5 => raw ((c.counts.take i).sum) (c.counts.getD i 0) 0
      | 6 => raw 0 c.vlen 0
      | _ => s
  modRun p (fun c => { c with sentTo := i :: c.sentTo }) s

/-- Where the blocks of ALL_TO_ALLV from sender `i` begin (R436). -/
def blockBase (c : Coll) (i : Nat) : Nat :=
  ((List.range i).map fun j => if j = c.me then c.counts.getD j 0 else ((c.ready.find? fun r => r.1 = j).getD (0, 0)).2).sum

/-- Of `k` bytes from byte `b` on of received data, one came in a poisoned flit. -/
def flitBad (d : CollData) (b k : Nat) : Bool :=
  let a := d.offset % 64
  (List.range 9).any fun i => bitOf d.poison.toNat i && decide (64 * i < a + b + k ∧ a + b < 64 * (i + 1))
/-- The 64-byte pieces of a vector from byte `base` on, by number, that poisoned flits of received data meet. -/
def badPieces (base : Nat) (d : CollData) : List Nat :=
  let a := d.offset % 64
  let ps := vecPieces base d.data.length
  (List.range ps.length).filter fun k =>
    let x := ps.getD k (0, 0)
    (List.range 8).any fun i => bitOf d.poison.toNat i && decide (64 * i - a < x.1 - base + x.2 ∧ x.1 - base < 64 * (i + 1) - a)
/-- Take received data of the phase (R434, R437, R440). -/
def takeData (p : Nat) (c : Coll) (d : CollData) (s : State) : State :=
  let bad := badPieces d.offset d
  let s := notePoison p (!bad.isEmpty) s
  if reduces c then
    let np := c.vlen / cOf c
    if d.phase = 1 ∨ d.phase = 2 then
      if staged s p c then vecWrite p c.stage (stageLen c) d.offset d.data bad s
      else
        let pair := decide (d.phase = 2) && compSum c
        let i := if c.op = 1 then (d.offset - localIdx c c.me * np) / elemSize c
          else d.offset / elemSize c + (if d.phase = 2 then groupIdx c c.me * (np / gOf c / elemSize c) else 0)
        let ts := contribs c pair d.data (flitBad d)
        modRun p (fun c => { c with acc := c.acc.take i ++ foldAll c (c.acc.drop i) ts ++ c.acc.drop (i + ts.length) }) s
    else if d.phase = 3 then
      let ts := contribs c (compSum c) d.data (flitBad d)
      vecWrite p c.dst c.vlen d.offset (ts.flatMap fun v => leBytes (elemSize c) ((elemFmt c).encode false .rne (if v.isNan then vNan else v)).code) [] s
    else if np = 0 then s else vecWrite p c.dst c.vlen d.offset d.data bad s
  else if c.op = 5 then vecWrite p c.dst (dstLen c) (blockBase c d.sender + d.offset) d.data (badPieces (blockBase c d.sender + d.offset) d) s
  else vecWrite p c.dst (dstLen c) d.offset d.data bad s

/-- What a member does at the start of the first phase: its own copy, or its own contribution. -/
def phaseInit (p : Nat) (s : State) : State :=
  match (collPart s p).run with
  | none => s
  | some c =>
    let cp (off off' n : Nat) : State := notePoison p (!(vecPoison s p c.src c.vlen off n).isEmpty) (vecCopy p c.src c.vlen off c.dst (dstLen c) off' n s)
    match c.op with
    | 3 => cp 0 (c.me * c.vlen) c.vlen
    | 4 => cp (c.me * (c.vlen / nOf c)) (c.me * (c.vlen / nOf c)) (c.vlen / nOf c)
    | 6 => if c.me = c.root ∧ c.src ≠ c.dst then cp 0 0 c.vlen else notePoison p (decide (c.me = c.root) && !(vecPoison s p c.src c.vlen 0 c.vlen).isEmpty) s
    | 8 => cp 0 (c.me * c.vlen) c.vlen
    | 1 | 2 =>
      let n := c.vlen / cOf c
      let off := localIdx c c.me * n
      let s := vecTouch p c.src c.vlen off n (notePoison p (!(vecPoison s p c.src c.vlen 0 c.vlen).isEmpty) s)
      modRun p (fun c => { c with acc := (ownPiece s p c).map (startPair c) }) s
    | _ => s

/-- The end of a phase of a reduction: fold, keep, write. -/
def phaseFold (p : Nat) (c : Coll) (s : State) : State :=
  let np := c.vlen / cOf c
  let ns := np / gOf c
  let sub := ns / elemSize c
  let l := localIdx c c.me
  let g := groupIdx c c.me
  match c.phase with
  | 1 =>
    let acc := if staged s p c ∧ 1 < cOf c then invarFold s p c false c.acc l (cOf c) else c.acc
    modRun p (fun c => { c with acc := acc }) s
  | 2 =>
    let own := (c.acc.drop (g * sub)).take sub
    let acc := if gOf c = 1 then own else if staged s p c then invarFold s p c (compSum c) own g (gOf c) else own
    let s := modRun p (fun c => { c with acc := acc }) s
    if c.op = 2 then vecWrite p c.dst (dstLen c) 0 (finalBytes c acc) [] s
    else vecWrite p c.dst c.vlen (l * np + g * ns) (finalBytes c acc) [] s
  | _ => s

/-- Whether the phase that the collective of partition `p` is in has ended: all is sent, and every sender's data is complete. -/
def phaseOver (s : State) (p : Nat) (c : Coll) : Bool :=
  (s.coll.outq.all fun k => decide (k.part ≠ p ∨ k.seq ≠ c.seq)) && (phasePeers c).all (fun i => c.sentTo.contains i) && (phaseSenders c).all (fun i => decide (donesNeeded c ≤ tabGet 0 i c.dones))

/-- Every other member's READY came. -/
def allReady (c : Coll) : Bool := ((List.range (nOf c)).filter (· ≠ c.me)).all fun i => c.ready.any fun r => r.1 = i

/-- One move of the collective that runs: send what may be sent, or end the phase; `none` when nothing can be done. -/
def collMove (p : Nat) (s : State) : Option State :=
  match (collPart s p).run with
  | none => none
  | some c =>
    if c.op = 8 then (if c.reads.isEmpty ∧ c.out = 0 then some (collEnd p (if c.poison then cPoison else cDone) 0 0xFFF s) else none)
    else if c.op = 7 then (if allReady c then some (collEnd p cDone 0 0xFFF s) else none)
    else if c.op = 5 ∧ !allReady c then none
    else if c.op = 5 ∧ c.phase = 1 then
      let total := (c.ready.map Prod.snd).sum + c.counts.getD c.me 0
      let got := (List.range (nOf c)).map fun j => if j = c.me then c.counts.getD j 0 else ((c.ready.find? fun r => r.1 = j).getD (0, 0)).2
      let s := spWrite 1 (pkgAddr c.tile (c.countOff + 8 * nOf c)) (got.flatMap (leBytes 8)) s
      if c.vlen < total then some (collEnd p cQuota 5 0xFFF s)
      else
        let own := c.counts.getD c.me 0
        let s := notePoison p (vecBad s p c.src c.vlen ((c.counts.take c.me).sum) 0 own) s
        let s := vecCopy p c.src c.vlen ((c.counts.take c.me).sum) c.dst (dstLen c) (blockBase c c.me) own s
        some (modRun p (fun c => { c with phase := 2 }) s)
    else
      match (phasePeers c).find? fun i => !c.sentTo.contains i && c.ready.any fun r => r.1 = i with
      | some i => some (sendTo p c i s)
      | none =>
        match c.early.find? fun d => d.phase = c.phase with
        | some d => some (takeData p c d (modRun p (fun c => { c with early := c.early.erase d }) s))
        | none =>
          if !phaseOver s p c then none
          else
            let s := if reduces c then phaseFold p c s else s
            if !reduces c ∨ c.phase = lastPhase c then some (collEnd p (if c.poison then cPoison else cDone) 0 0xFFF s)
            else some (modRun p (fun c => { c with phase := c.phase + 1, sentTo := [] }) s)

/-- Move the collective on as far as it goes. -/
def collRun : Nat → Nat → State → State
  | 0, _, s => s
  | fuel + 1, p, s => match collMove p s with | some s' => collRun fuel p s' | none => s

/-- Enough moves for every member, phase and early record. -/
def collFuel (s : State) (p : Nat) : Nat :=
  match (collPart s p).run with | some c => 5 * nOf c + c.early.length + 8 | none => 0

/-- A READY that arrived at a tick is checked and taken by the collective that runs (R419, R427, R432). One from the pending table that names no other member of the group is dropped: it has been
answered (log entry 13). -/
def takeReady (p : Nat) (c : Coll) (r : ReadyRec) (t : Nat) (s : State) : State :=
  let i := r.index.toNat
  if nOf c ≤ i ∨ i = c.me ∨ !bitOf (part s p).prec.peerMask (c.members.getD i {}).part then s
  else if r.hash.toNat ≠ c.hash ∨ r.op.toNat ≠ c.op ∨ r.rfmt.toNat ≠ c.rfmt ∨ r.vlen.toNat ≠ c.vlen ∨ r.root.toNat ≠ c.root
      ∨ r.t.toNat ≠ tileCount s p ∨ r.invar ≠ invarOf s p then collEnd p cFormat 3 i s
  else modRun p (fun c => { c with ready := if c.ready.any fun x => x.1 = i then c.ready else c.ready ++ [(i, r.count.toNat)], lastReady := if 0 < tickDiff t c.lastReady then t else c.lastReady }) s

/-- Read requests of a GATHER_DEMAND (R442): member, offset within its source, length; cut at tiles and at 512 bytes. -/
def gatherReads (s : State) (p : Nat) (c : Coll) : List (Nat × Nat × Nat) :=
  let k := c.vlen / tileCount s p
  ((List.range (nOf c)).filter (· ≠ c.me)).flatMap fun m => (List.range (tileCount s p)).flatMap fun t =>
    (List.range (ceilDiv k 512)).map fun i => (m, t * k + 512 * i, min 512 (k - 512 * i))

/-- Issue the reads for which station 1132 has free entries (R340, R442). OPARG names the member's partition and the tile by its index, and is marked as that of a gather
read; ADDR of one that leaves the package is an offset in the collective buffer, to which the member's package adds its own W (DESIGN CHOICE, log entry 13). -/
def gatherIssue : Nat → Nat → State → State
  | 0, _, s => s
  | fuel + 1, p, s =>
    match (collPart s p).run with
    | none => s
    | some c =>
      match c.reads with
      | [] => s
      | (m, off, n) :: rest =>
        if niStalled s 1132 then s
        else
          let mem := c.members.getD m {}
          let k := c.vlen / tileCount s p
          let here := onPackage s mem
          let q : Packet := {
            opcode := 0x01, tag := BitVec.ofNat 7 p, retrySafe := true, srcStn := 1132
            dstUnit := BitVec.ofNat 32 (if here then (part s mem.part).prec.tiles.getD (off / k) 0 else memberUnit mem)
            addr := BitVec.ofNat 64 ((if here then workBytes s mem.part else 0) + 64 * c.src + off % k), bytesM1 := BitVec.ofNat 9 (n - 1)
            oparg := leBytes 4 mem.part ++ leBytes 4 (off / k) ++ [1] ++ List.replicate 23 0 }
          let use := NiUse.gather p c.seq m (vecAddr s p c.dst (dstLen c) (m * c.vlen + off))
          gatherIssue fuel p (collSend q [] use (modRun p (fun c => { c with reads := rest, out := c.out + 1 }) s))

/-- Move the collective and its reads: what it queues is sent, and then a phase whose last packet has left may end. -/
def collGo (p : Nat) (s : State) : State :=
  let s := match (collPart s p).run with | some c => gatherIssue (c.reads.length + 1) p s | none => s
  (List.range 5).foldl (fun s _ => collFlush (collRun (collFuel s p) p s)) s

/-- A pending record is partition `p`'s for a CTAG. -/
def pendHit (p ctag : Nat) (e : Nat × PendRec) : Bool :=
  decide (e.1 = p) && (match e.2 with | .ready r _ => decide (r.ctag.toNat = ctag) | .abort _ t _ => decide (t = ctag))
/-- The pending records of partition `p` with a CTAG. -/
def pendFor (s : State) (p ctag : Nat) : List PendRec := (s.coll.pend.filter (pendHit p ctag)).map (·.2)
/-- Remove them. -/
def pendDrop (p ctag : Nat) (s : State) : State :=
  { s with coll := { s.coll with pend := s.coll.pend.filter fun e => !pendHit p ctag e } }

/-- The next queued collective of a fenced partition starts (R429, R431, R438, R445). -/
def collStart (p : Nat) (s : State) : State :=
  match (collPart s p).queue with
  | [] => openFence p s
  | c :: rest =>
    let t := (collPart s p).fenceTick
    let c := { c with fence := some t, lastReady := t }
    let s := openGates p c.ctag (modColl p (fun x => { x with run := some c, queue := rest }) s)
    let maint := inMaint s && c.members.any (otherCell s)
    if c.op = 8 ∧ maint then collEnd p cOff 7 0xFFF s
    else if c.op = 8 then collGo p (modRun p (fun c => { c with reads := gatherReads s p c }) (phaseInit p s))
    else
      let s := ((List.range (nOf c)).filter (· ≠ c.me)).foldl (fun s i => putReady p c i s) s
      if maint then collEnd p cOff 7 0xFFF s
      else
        let recs := pendFor s p c.ctag
        let s := phaseInit p (pendDrop p c.ctag s)
        let s := recs.foldl (fun s r =>
          match (collPart s p).run with
          | none => s
          | some c => if c.fence.isNone then s else
            match r with
            | .ready r t => takeReady p c r t s
            | .abort i _ code => collEnd p code 6 i s) s
        collGo p s

/-- After a command: start every queued collective of a fenced partition whose engine is idle. -/
def collNext : Nat → Nat → State → State
  | 0, _, s => s
  | fuel + 1, p, s =>
    let x := collPart s p
    if x.fence ∧ x.run.isNone ∧ !x.queue.isEmpty then collNext fuel p (collStart p s) else collFlush s

/-- A packet of a collective is answered (R446): any code but DONE and POISON ends the collective that sent it, with that code. -/
def collAnswer (p i seq : Nat) (code : Byte) (s : State) : State :=
  match (collPart s p).run with
  | some c => if c.seq = seq ∧ code ≠ cDone ∧ code ≠ cPoison then collNext 6 p (collEnd p code 0 i s) else s
  | none => s
/-- An entry of station 1132 is free again: the packets and reads that waited for one go out, and the collectives move on (R340). -/
def collWake (s : State) : State :=
  s.coll.parts.foldl (fun s e => match (collPart s e.1).run with | some _ => collNext 6 e.1 (collGo e.1 s) | none => s) (collFlush s)

/-- Apply `f` and let the partition's collectives go on. -/
def withColl (p : Nat) (f : State → State) (s : State) : State := collNext 6 p (collGo p (f s))

end Sys2Proof.Machine
end

