-- ==== Sys2Proof/Machine/SolvMath.lean ====
section
/-!
DEFINITION. Machine/SolvMath.lean: the arithmetic of the solver sequencers (R253, R263 to R281): norms, residuals, stopping rules, certificates and gradients.
Vectors and values are FP64 codes. The spec fixes the methods, the tests, the counts and the order of norms and inner products; the roundings inside a sum of products
and of a quotient, the side of GMRES's preconditioner and the centring and length of a Newton step it leaves open, and they are opaque constants of Config (log entry 15).
-/
namespace Sys2Proof.Machine

/-! ### Descriptor fields (R253) -/

def dMethod (b : List Byte) : Nat := leAt b 0 1
def dPrecond (b : List Byte) : Nat := leAt b 1 1
def dGmres (b : List Byte) : Nat := leAt b 2 1
def dQmask (b : List Byte) : Nat := leAt b 4 2
def dBsz (b : List Byte) : Nat := leAt b 6 1
def dRefine (b : List Byte) : Nat := leAt b 7 1
def dN (b : List Byte) : Nat := leAt b 8 8
def dNnz (b : List Byte) : Nat := leAt b 16 8
def dKl (b : List Byte) : Nat := leAt b 16 4
def dKu (b : List Byte) : Nat := leAt b 20 4
def dTslots (b : List Byte) : Nat := leAt b 24 4
def dMaxit (b : List Byte) : Nat := leAt b 28 4
def dRtol (b : List Byte) : Nat := leAt b 32 8
def dAtol (b : List Byte) : Nat := leAt b 40 8
def dPivtol (b : List Byte) : Nat := leAt b 48 8
def dSbase (b : List Byte) : Nat := leAt b 56 8
def dSlen (b : List Byte) : Nat := leAt b 64 8
def dSrc (b : List Byte) : Nat := leAt b 72 8
def dRhsOff (b : List Byte) : Nat := 64 * leAt b 80 4
def dXOff (b : List Byte) : Nat := 64 * leAt b 84 4
def dGOff (b : List Byte) : Nat := 64 * leAt b 88 4
def dLamOff (b : List Byte) : Nat := 64 * leAt b 92 4
def dVgradOff (b : List Byte) : Nat := 64 * leAt b 96 4
def dOutOff (b : List Byte) : Nat := 64 * leAt b 100 4
def dFmt (b : List Byte) (o : Nat) : Fmt := ⟨leAt b o 1 % 16, bitOf (leAt b o 1) 4⟩
def dOutCopy (b : List Byte) : Bool := bitOf (leAt b 106 1) 7
def dAccBase (b : List Byte) : Nat := leAt b 108 1
def dAccCount (b : List Byte) : Nat := leAt b 109 1
def dQpM (b : List Byte) : Nat := leAt b 116 2
def dQpP (b : List Byte) : Nat := leAt b 118 2
/-- CSR methods, direct methods and QP. -/
def isCsr (b : List Byte) : Bool := decide (dMethod b ≤ 2)
def isDirect (b : List Byte) : Bool := decide (dMethod b = 3 ∨ dMethod b = 4)
def isQp (b : List Byte) : Bool := decide (dMethod b = 5)

/-! ### Rows and entries (R244, R255) -/

/-- The rows of position `j` of `n` tiles: first row and count (R244). -/
def rowsAt (b : List Byte) (n j : Nat) : Nat × Nat :=
  if isQp b then (0, if j = 0 then dN b else 0)
  else
    let k := if dMethod b = 4 then dBsz b else 1
    let r := dN b / k
    (j * r / n * k, ((j + 1) * r / n - j * r / n) * k)
/-- The pieces of a vector of the problem's rows: tile, first row, rows. -/
def rowPieces (pr : Problem) : List (Nat × Nat × Nat) :=
  (List.range pr.tiles.length).map fun j => let r := rowsAt pr.desc pr.tiles.length j; (pr.tiles.getD j 0, r.1, r.2)
/-- A band position lies in the matrix (R255: entry (i, j) at position j - i + KU of its row). -/
def bandIn (b : List Byte) (i k : Nat) : Bool := decide (dKu b ≤ i + k) && decide (i + k - dKu b < dN b)
/-- The blocks of block row `br` that lie in the matrix (R255): 0 sub-diagonal, 1 diagonal, 2 super-diagonal. -/
def blockCols (b : List Byte) (br : Nat) : List Nat := (List.range 3).filter fun q => decide (1 ≤ br + q) && decide (br + q - 1 < dN b / dBsz b)
/-- The stored entries of row `i` of the matrix, in the order of storage: column and value. -/
def rowTerms (pr : Problem) (i : Nat) : List (Nat × Nat) :=
  let b := pr.desc
  if isCsr b then
    let k := pr.rowPtr.getD i 0
    let z := pr.rowPtr.getD (i + 1) 0 - k
    List.zip ((pr.colIdx.drop k).take z) ((pr.vals.drop k).take z)
  else if dMethod b = 3 then
    let w := dKl b + dKu b + 1
    ((List.range w).filter fun q => bandIn b i q).map fun q => (i + q - dKu b, pr.vals.getD (i * w + q) 0)
  else
    let z := dBsz b
    (blockCols b (i / z)).flatMap fun q => (List.range z).map fun j => ((i / z + q - 1) * z + j, pr.vals.getD ((i / z * 3 + q) * (z * z) + i % z * z + j) 0)

/-! ### FP64 arithmetic -/

/-- The value of an FP64 code, and the code of a value rounded to nearest. -/
def f64 (c : Nat) : Val := fmtFp64.decode c
def c64 (v : Val) : Nat := (fmtFp64.encode false .rne v).code
/-- The FP64 code of 1. -/
def one64 : Nat := c64 (.fin false 1 0)
/-- The code of the negated value. -/
def neg64 (c : Nat) : Nat := c64 (f64 c).negate
/-- `a` is at most `b`; false with a NaN. -/
def leV (a b : Val) : Bool := !a.isNan && !b.isNan && !ltV b a

/-- A sum of products in FP64: 0 for none, the other factor where the only product has the factor 1. -/
def sumP (l : List (Nat × Nat)) : Nat :=
  match l with
  | [] => 0
  | [p] => if p.1 = one64 then p.2 else Config.sumProd [p]
  | l => Config.sumProd l

/-- RSUM of a row under R186: groups of 32 summed exactly, rounded, folded into a pair; hi + lo. -/
def rsumV (vs : List Val) : Val :=
  let p := (chunksOf 32 vs.length vs).foldl (fun p g => foldPair p (rn64 (sumV g))) (vZero, vZero)
  addV p.1 p.2
/-- The inner product of two vectors (R263): each tile's partial under R186, folded in ascending order of the tile list and rounded once. -/
def dotV (pr : Problem) (xs ys : List Nat) : Val :=
  let part (r : Nat × Nat × Nat) : Val :=
    rn64 (rsumV (List.zipWith (fun a b => rn64 (mulV (f64 a) (f64 b))) ((xs.drop r.2.1).take r.2.2) ((ys.drop r.2.1).take r.2.2)))
  let p := ((rowPieces pr).map part).foldl foldPair (vZero, vZero)
  rn64 (addV p.1 p.2)
/-- The inner product of two vectors of a QP, which runs on one tile (R244, R263). -/
def dotQ (xs ys : List Nat) : Val :=
  let p := foldPair (vZero, vZero) (rn64 (rsumV (List.zipWith (fun a b => rn64 (mulV (f64 a) (f64 b))) xs ys)))
  rn64 (addV p.1 p.2)
/-- The 2-norm of a vector (R263). -/
def normV (pr : Problem) (xs : List Nat) : Val := rn64 (sqrtV (dotV pr xs xs))
/-- The largest magnitude of a vector; a NaN counts as the largest. -/
def infNorm (xs : List Nat) : Val := xs.foldl (fun m x => maxV m (f64 x).abs) vZero

/-- `A x`, or its transpose times `x`, whose contributions by tile are summed in ascending order of the tile list (R278). -/
def applyA (pr : Problem) (adj : Bool) (x : List Nat) : List Nat :=
  if !adj then (List.range (dN pr.desc)).map fun i => sumP ((rowTerms pr i).map fun e => (e.2, x.getD e.1 0))
  else (List.range (dN pr.desc)).map fun j =>
    c64 ((((rowPieces pr).map fun r =>
      (List.range r.2.2).flatMap fun k => ((rowTerms pr (r.2.1 + k)).filter fun e => e.1 = j).map fun e => (e.2, x.getD (r.2.1 + k) 0)).filter (· ≠ [])).foldl
        (fun a l => rn64 (addV a (f64 (sumP l)))) vZero)
/-- `y + a x`. -/
def axpy (y : List Nat) (a : Nat) (x : List Nat) : List Nat := List.zipWith (fun yi xi => sumP [(one64, yi), (a, xi)]) y x
/-- `b - v`. -/
def subVec (b v : List Nat) : List Nat := List.zipWith (fun x y => c64 (subV (f64 x) (f64 y))) b v
/-- tau of R263. -/
def tauOf (b : List Byte) (norm : Val) : Val := maxV (rn64 (mulV (f64 (dRtol b)) norm)) (f64 (dAtol b))
/-- The quotient in FP64. -/
def quo64 (a b : Val) : Nat := c64 (divV a b)

/-! ### Triangular factors (R253, R264, R273, R278) -/

/-- A row of a matrix that is factored: its number, its entries by column, its multipliers by step, and, once it is a pivot row, its entries of U by column. -/
structure FacRow where
  row : Nat := 0
  a : Tab Nat := []
  l : Tab Nat := []
  u : Tab Nat := []
deriving DecidableEq, Repr, Inhabited
/-- The factors of a matrix: the pivot rows by step, and the pivots, each with the largest magnitude among the other candidates of its column. -/
structure Factors where
  rows : List FacRow := []
  pivots : List (Nat × Nat) := []
deriving DecidableEq, Repr, Inhabited

/-- Column `j` of a row after the steps that gave the rows `done`; `keep` confines the factors to the structure of the matrix. -/
def facEntry (done : List FacRow) (keep : Bool) (r : FacRow) (j : Nat) : Option Nat :=
  let ps := r.l.filterMap fun e => ((done[e.1]?).bind fun d => tabFind j d.u).map fun u => (neg64 e.2, u)
  match tabFind j r.a with
  | some v => some (sumP ((one64, v) :: ps))
  | none => if keep ∨ ps.isEmpty then none else some (sumP ps)
/-- The first row of the largest magnitude. -/
def pivotOf (l : List (FacRow × Nat)) : Option (FacRow × Nat) :=
  l.foldl (fun m x => match m with | some y => if ltV (f64 y.2).abs (f64 x.2).abs then some x else m | none => some x) none
/-- A pivot row with its part of U. -/
def pivotRow (done : List FacRow) (keep : Bool) (k : Nat) (r : FacRow) : FacRow :=
  let cols := r.a.map (·.1) ++ r.l.flatMap fun e => ((done[e.1]?).map fun d => d.u.map (·.1)).getD []
  { r with u := ((cols.filter fun j => decide (k ≤ j)).eraseDups).filterMap fun j => (facEntry done keep r j).map fun v => (j, v) }
/-- Elimination with partial pivoting among the rows that `cand` admits at a step; `keep` confines it to the structure (ILU(0)). -/
def factorLoop (cand : Nat → Nat → Bool) (keep : Bool) : Nat → Nat → List FacRow → Factors → Factors
  | 0, _, _, f => f
  | fuel + 1, k, rest, f =>
    let at_ (r : FacRow) : Nat := (facEntry f.rows keep r k).getD 0
    match pivotOf ((rest.filter fun r => cand k r.row).map fun r => (r, at_ r)) with
    | none => f
    | some p =>
      let others := rest.filter fun r => decide (r.row ≠ p.1.row)
      let left := others.map fun r => match facEntry f.rows keep r k with | some c => { r with l := r.l ++ [(k, Config.ratio c p.2)] } | none => r
      factorLoop cand keep fuel (k + 1) left
        { rows := f.rows ++ [pivotRow f.rows keep k p.1], pivots := f.pivots ++ [(p.2, c64 (infNorm ((others.filter fun r => cand k r.row).map at_)))] }
/-- The factors of rows given by their entries. -/
def factored (cand : Nat → Nat → Bool) (keep : Bool) (rows : List (List (Nat × Nat))) : Factors :=
  factorLoop cand keep rows.length 0 (rows.mapIdx fun i a => { row := i, a := a }) {}
/-- A dense matrix: every remaining row is a candidate (R273). -/
def dense (rows : List (List (Nat × Nat))) : Factors := factored (fun _ _ => true) false rows

/-- A solve with the factors: L, then U. -/
def Factors.solve (f : Factors) (b : List Nat) : List Nat :=
  let y := f.rows.foldl (fun y r => y ++ [sumP ((one64, b.getD r.row 0) :: r.l.map fun e => (neg64 e.2, y.getD e.1 0))]) []
  let x := (f.rows.mapIdx fun k r => (k, r)).foldr (fun kr (x : Tab Nat) =>
    tabPut kr.1 (Config.ratio (sumP ((one64, y.getD kr.1 0) :: ((kr.2.u.filter fun e => decide (e.1 ≠ kr.1)).map fun e => (neg64 e.2, tabGet 0 e.1 x)))) (tabGet 0 kr.1 kr.2.u)) x) []
  (List.range f.rows.length).map fun k => tabGet 0 k x
/-- A solve with the transposed factors: the transpose of U, then that of L, with the pivots in reverse (R278). -/
def Factors.solveT (f : Factors) (g : List Nat) : List Nat :=
  let us := f.rows.map (·.u)
  let w := (List.range f.rows.length).foldl (fun (w : List Nat) k =>
    w ++ [Config.ratio (sumP ((one64, g.getD k 0) :: (w.mapIdx fun j v => ((us.getD j []).filter fun e => decide (e.1 = k)).map fun e => (neg64 e.2, v)).flatten)) (tabGet 0 k (us.getD k []))]) []
  let v := (List.range f.rows.length).foldr (fun k (v : Tab Nat) =>
    tabPut k (sumP ((one64, w.getD k 0) :: v.flatMap fun e => (((f.rows.getD e.1 {}).l).filter fun l => decide (l.1 = k)).map fun l => (neg64 l.2, e.2))) v) []
  (List.range f.rows.length).map fun i => match f.rows.findIdx? fun r => r.row = i with | some k => tabGet 0 k v | none => 0

/-! ### What a solve comes to -/

/-- The end of a solve: outcome and detail (R249, R276), ITERATIONS, final residual norm or measure, solution, and a QP's iterate. -/
structure SolveEnd where
  outcome : Nat := 0
  detail : Nat := 0
  iters : Nat := 0
  resid : Nat := 0
  x : List Nat := []
  iter : List Nat := []
deriving DecidableEq, Repr, Inhabited

/-- The data of a solve or an adjoint: the problem's arrays, the vector read, the starting point, and a QP's iterate. -/
def solveArrays (pr : Problem) (adj : Bool) (v : List Nat) : List (List Nat) :=
  [pr.rowPtr, pr.colIdx, pr.vals, pr.qpA, pr.qpb, pr.qpG, pr.qph, v, if adj then pr.lamPrev else pr.xPrev, pr.iter]
/-- A linear solve: the problem, the transpose or not, right-hand side and tau. -/
structure LinCtx where
  pr : Problem
  adj : Bool
  b : List Nat
  tau : Val
deriving Repr

/-- `b - A x`. -/
def LinCtx.residual (c : LinCtx) (x : List Nat) : List Nat := subVec c.b (applyA c.pr c.adj x)
/-- The residual norm meets the test. -/
def LinCtx.meets (c : LinCtx) (r : List Nat) : Bool := leV (normV c.pr r) c.tau
/-- The diagonal blocks of the preconditioner: first row and size. Blocks of BSZ begin at each tile's first row, since each tile keeps those of its own rows (R256); ILU(0)
has one block a tile (R253). -/
def precondBlocks (pr : Problem) : List (Nat × Nat) :=
  let z := dBsz pr.desc
  (rowPieces pr).flatMap fun r =>
    if dPrecond pr.desc = 2 then (List.range (ceilDiv r.2.2 z)).map fun k => (r.2.1 + z * k, min z (r.2.2 - z * k)) else [(r.2.1, r.2.2)]
/-- The entries of a diagonal block, by row of the block. -/
def blockTerms (pr : Problem) (lo n : Nat) : List (List (Nat × Nat)) :=
  (List.range n).map fun i => ((rowTerms pr (lo + i)).filter fun e => decide (lo ≤ e.1 ∧ e.1 < lo + n)).map fun e => (e.1 - lo, e.2)
/-- The preconditioner applied (R253), or its transpose (R278). -/
def LinCtx.precond (c : LinCtx) (r : List Nat) : List Nat :=
  let p := dPrecond c.pr.desc
  if p = 0 then r
  else if p = 1 then r.mapIdx fun i x => Config.ratio x (((rowTerms c.pr i).find? fun e => e.1 = i).map (·.2) |>.getD 0)
  else (precondBlocks c.pr).flatMap fun b =>
    let f := if p = 2 then dense (blockTerms c.pr b.1 b.2) else factored (fun k row => decide (row = k)) true (blockTerms c.pr b.1 b.2)
    let x := (r.drop b.1).take b.2
    if c.adj then f.solveT x else f.solve x
/-- The number of applications reaches MAXIT (R264). -/
def LinCtx.spent (c : LinCtx) (n : Nat) : Bool := decide (dMaxit c.pr.desc ≤ n)
/-- The solve ends with an outcome. -/
def LinCtx.done (c : LinCtx) (o n : Nat) (x r : List Nat) : SolveEnd := { outcome := o, iters := n, resid := c64 (normV c.pr r), x := x }

/-- R265: a test met on a recurrence or estimate is confirmed on the true residual; otherwise the method restarts from it by `again`. -/
def LinCtx.confirm (c : LinCtx) (n : Nat) (x : List Nat) (again : Nat → List Nat → List Nat → SolveEnd) : SolveEnd :=
  let r := c.residual x
  if c.meets r then c.done 0 (n + 1) x r else if c.spent (n + 1) then c.done 2 (n + 1) x r else again (n + 1) x r

/-! ### PCG (R264) -/

/-- The steps of PCG: applications so far, x, r, search direction and r·z; without a direction it starts from r. -/
def pcgLoop (c : LinCtx) : Nat → Nat → List Nat → List Nat → Option (List Nat × Val) → SolveEnd
  | 0, n, x, r, _ => c.done 2 n x r
  | fuel + 1, n, x, r, dir =>
    let z := c.precond r
    let rz := dotV c.pr r z
    if leV rz vZero then c.done 3 n x r
    else
      let p := match dir with | some d => axpy z (quo64 rz d.2) d.1 | none => z
      let q := applyA c.pr c.adj p
      if c.spent (n + 1) then c.done 2 (n + 1) x r
      else
        let pq := dotV c.pr p q
        if leV pq vZero then c.done 3 (n + 1) x r
        else
          let a := quo64 rz pq
          let x := axpy x a p
          let r := axpy r (neg64 a) q
          if c.meets r then c.confirm (n + 1) x fun n x r => pcgLoop c fuel n x r none
          else pcgLoop c fuel (n + 1) x r (some (p, rz))

/-! ### BICGSTAB (R264, R266) -/

/-- What a step of BICGSTAB takes over: shadow residual, direction, A times it, rho, alpha and omega; `again` says that the last step restarted by R266. -/
structure BiState where
  shadow : List Nat
  p : List Nat
  v : List Nat
  rho : Val
  alpha : Nat
  omega : Nat
  again : Bool := false
deriving Repr

/-- |a·r| <= 2^-52 |a| |r| (R266). -/
def biSmall (c : LinCtx) (a r : List Nat) : Bool := leV (dotV c.pr a r).abs ((mulV (normV c.pr a) (normV c.pr r)).scale (-52))

/-- The steps of BICGSTAB: applications so far, x, r and what the last step left. -/
def biLoop (c : LinCtx) : Nat → Nat → List Nat → List Nat → Option BiState → SolveEnd
  | 0, n, x, r, _ => c.done 2 n x r
  | fuel + 1, n, x, r, st =>
    let shadow := match st with | some y => y.shadow | none => r
    let small := biSmall c shadow r
    if small ∧ (match st with | some y => y.again | none => false) = true then c.done 3 n x r
    else
      let st := if small then none else st
      let shadow := if small then r else shadow
      let rho := dotV c.pr shadow r
      let p := match st with
        | none => r
        | some y => axpy r (c64 (rn64 (mulV (f64 (quo64 rho y.rho)) (f64 (quo64 (f64 y.alpha) (f64 y.omega)))))) (axpy y.p (neg64 y.omega) y.v)
      let ph := c.precond p
      let v := applyA c.pr c.adj ph
      if c.spent (n + 1) then c.done 2 (n + 1) x r
      else
        let a := quo64 rho (dotV c.pr shadow v)
        let s := axpy r (neg64 a) v
        let restart := fun n x r => biLoop c fuel n x r none
        if c.meets s then c.confirm (n + 1) (axpy x a ph) restart
        else
          let sh := c.precond s
          let t := applyA c.pr c.adj sh
          if c.spent (n + 2) then c.done 2 (n + 2) x s
          else
            let w := quo64 (dotV c.pr t s) (dotV c.pr t t)
            if (f64 w).isZero then c.done (if c.meets s then 0 else 3) (n + 2) (axpy x a ph) s
            else
              let x := axpy (axpy x a ph) w sh
              let r := axpy s (neg64 w) t
              if c.meets r then c.confirm (n + 2) x restart
              else biLoop c fuel (n + 2) x r (some { shadow := shadow, p := p, v := v, rho := rho, alpha := a, omega := w, again := small })

/-! ### GMRES (R264, R265) -/

/-- A cycle of GMRES: the basis, the columns of R with the rotations that made them, the entries of the rotated right-hand side that are final, the Givens estimate, and the last
subdiagonal entry. -/
structure GmSt where
  basis : List (List Nat) := []
  cols : List (List Nat) := []
  rots : List (Nat × Nat) := []
  rhs : List Nat := []
  estimate : Nat := 0
  subdiag : Nat := 0
deriving Repr
/-- A cycle begins from a residual. -/
def LinCtx.gmBegin (c : LinCtx) (r : List Nat) : GmSt :=
  let r := if Config.gmresLeft then c.precond r else r
  let beta := c64 (normV c.pr r)
  { basis := [r.map fun x => Config.ratio x beta], estimate := beta }
/-- The entries of a column of the Hessenberg matrix and what is left of the vector: the Gram-Schmidt steps. -/
def LinCtx.gmOrth (c : LinCtx) (vs : List (List Nat)) (w : List Nat) : List Nat × List Nat :=
  vs.foldl (fun y v =>
    let h := c64 (dotV c.pr (if Config.gmresClassical then w else y.2) v)
    (y.1 ++ [h], axpy y.2 (neg64 h) v)) ([], w)
/-- The rotations made so far applied to a column. -/
def rotateCol (rots : List (Nat × Nat)) (h : List Nat) : List Nat :=
  (rots.mapIdx fun i g => (i, g)).foldl (fun l ig =>
    let a := l.getD ig.1 0
    let b := l.getD (ig.1 + 1) 0
    (l.set ig.1 (sumP [(ig.2.1, a), (ig.2.2, b)])).set (ig.1 + 1) (sumP [(neg64 ig.2.2, a), (ig.2.1, b)])) h
/-- An Arnoldi step with its rotation. -/
def LinCtx.gmStep (c : LinCtx) (st : GmSt) : GmSt :=
  let v := st.basis.getLast?.getD []
  let w := if Config.gmresLeft then c.precond (applyA c.pr c.adj v) else applyA c.pr c.adj (c.precond v)
  let o := c.gmOrth st.basis w
  let sub := c64 (normV c.pr o.2)
  let col := rotateCol st.rots o.1
  let j := st.rots.length
  let g := Config.givens (col.getD j 0) sub
  { basis := st.basis ++ [o.2.map fun x => Config.ratio x sub], cols := st.cols ++ [col.set j (sumP [(g.1, col.getD j 0), (g.2, sub)])], rots := st.rots ++ [g],
    rhs := st.rhs ++ [sumP [(g.1, st.estimate)]], estimate := sumP [(neg64 g.2, st.estimate)], subdiag := sub }
/-- The iterate where the cycle ends. -/
def LinCtx.gmEnd (c : LinCtx) (x : List Nat) (st : GmSt) : List Nat :=
  let y := (List.range st.rhs.length).foldr (fun k (y : Tab Nat) =>
    tabPut k (Config.ratio (sumP ((one64, st.rhs.getD k 0) :: y.map fun e => (neg64 ((st.cols.getD e.1 []).getD k 0), e.2))) ((st.cols.getD k []).getD k 0)) y) []
  let d := (List.range x.length).map fun i => sumP ((List.range st.rhs.length).map fun k => (tabGet 0 k y, (st.basis.getD k []).getD i 0))
  List.zipWith (fun a b => c64 (addV (f64 a) (f64 b))) x (if Config.gmresLeft then d else c.precond d)
/-- The steps of GMRES(m): applications so far, the step within the cycle, the x and r that the cycle started from, and the cycle. -/
def gmresLoop (c : LinCtx) : Nat → Nat → Nat → List Nat → List Nat → GmSt → SolveEnd
  | 0, n, _, x, r, _ => c.done 2 n x r
  | fuel + 1, n, j, x, r, st =>
    let y := c.gmStep st
    if c.spent (n + 1) then c.done 2 (n + 1) x r
    else if leV (f64 y.estimate).abs c.tau ∨ (f64 y.subdiag).isZero = true ∨ dGmres c.pr.desc ≤ j + 1 then
      c.confirm (n + 1) (c.gmEnd x y) fun n x r => gmresLoop c fuel n 0 x r (c.gmBegin r)
    else gmresLoop c fuel (n + 1) (j + 1) x r y

/-! ### Direct methods (R264) -/

/-- The factors of a direct method (R264): partial pivoting inside the band, which reaches KU rows below the diagonal (R255), or inside each diagonal block. -/
def directFactors (pr : Problem) : Factors :=
  let b := pr.desc
  factored (if dMethod b = 3 then fun k row => decide (row ≤ k + dKu b) else fun k row => decide (row / dBsz b = k / dBsz b)) false ((List.range (dN b)).map (rowTerms pr))
/-- A solve with the factors of a direct method, or with the transposed ones (R278). -/
def LinCtx.direct (c : LinCtx) (r : List Nat) : List Nat := let f := directFactors c.pr; if c.adj then f.solveT r else f.solve r
/-- A pivot is too small: its magnitude is at most PIVTOL times the largest magnitude in its column below the diagonal. -/
def singularAt (b : List Byte) (p : Nat × Nat) : Bool := leV (f64 p.1).abs (mulV (f64 (dPivtol b)) (f64 p.2).abs)
/-- Refinement: `k` steps have been made (R264). -/
def refineLoop (c : LinCtx) : Nat → Nat → List Nat → SolveEnd
  | 0, k, x => c.done 2 k x (c.residual x)
  | fuel + 1, k, x =>
    let r := c.residual x
    if c.meets r then c.done 0 k x r
    else if dRefine c.pr.desc ≤ k ∨ c.spent k then c.done 2 k x r
    else
      let d := c.direct r
      refineLoop c fuel (k + 1) (List.zipWith (fun a b => c64 (addV (f64 a) (f64 b))) x d)
/-- A direct method: factored, solved and refined. An adjoint uses the factors of the forward solve. -/
def directSolve (c : LinCtx) : SolveEnd :=
  let b := c.pr.desc
  if !c.adj && (directFactors c.pr).pivots.any (singularAt b) then { outcome := 4 }
  else
    let x := (c.direct c.b ++ List.replicate (dN b) 0).take (dN b)
    if dRefine b = 0 then c.done 0 0 x (c.residual x) else refineLoop c 4 0 x

/-- A linear solve from a starting point (R264 to R267). The residual that an iterative method starts from is an application of A and a true residual. -/
def linSolve (c : LinCtx) (x0 : List Nat) : SolveEnd :=
  let b := c.pr.desc
  if isDirect b then directSolve c
  else
    let fuel := 2 * dMaxit b + 2
    c.confirm 0 x0 fun n x r =>
      match dMethod b with
      | 0 => pcgLoop c fuel n x r none
      | 1 => biLoop c fuel n x r none
      | _ => gmresLoop c fuel n 0 x r (c.gmBegin r)

/-! ### Quadratic programs (R273 to R276, R280) -/

/-- An iterate of a QP: x, multipliers of the equalities and of the inequalities, slacks. -/
structure QpIter where
  x : List Nat := []
  nu : List Nat := []
  mu : List Nat := []
  s : List Nat := []
deriving DecidableEq, Repr, Inhabited

/-- The iterate that a problem keeps, from its list of codes; what it lacks is zero. -/
def qpIter (b : List Byte) (l : List Nat) : QpIter :=
  let n := dN b
  let m := dQpM b
  let p := dQpP b
  let at_ (o k : Nat) : List Nat := (List.range k).map fun i => l.getD (o + i) 0 % 2 ^ 64
  ⟨at_ 0 n, at_ n m, at_ (n + m) p, at_ (n + m + p) p⟩
/-- The codes of an iterate. -/
def QpIter.codes (i : QpIter) : List Nat := i.x ++ i.nu ++ i.mu ++ i.s

/-- Row `i` of a row-major matrix of `n` columns, and column `j` of one of `m` rows. -/
def matRow (a : List Nat) (n i : Nat) : List Nat := (a.drop (i * n)).take n
def matCol (a : List Nat) (n m j : Nat) : List Nat := (List.range m).map fun i => a.getD (i * n + j) 0
/-- Products of a row-major matrix of `m` rows and `n` columns, and of its transpose, as the terms of each sum. -/
def matTerms (a : List Nat) (m n : Nat) (x : List Nat) : List (List (Nat × Nat)) := (List.range m).map fun i => List.zip (matRow a n i) x
def matTTerms (a : List Nat) (m n : Nat) (y : List Nat) : List (List (Nat × Nat)) := (List.range n).map fun j => List.zip (matCol a n m j) y

/-- The residuals of R275 at an iterate: of the equalities, of the inequalities, and the gradient of the Lagrangian. -/
def qpPrimal (pr : Problem) (i : QpIter) : List Nat × List Nat :=
  let b := pr.desc
  ((List.zip (matTerms pr.qpA (dQpM b) (dN b) i.x) pr.qpb).map fun e => sumP (e.1 ++ [(neg64 one64, e.2)]),
   (List.zip (matTerms pr.qpG (dQpP b) (dN b) i.x) (List.zip i.s pr.qph)).map fun e => sumP (e.1 ++ [(one64, e.2.1), (neg64 one64, e.2.2)]))
def qpDual (pr : Problem) (q : List Nat) (i : QpIter) : List Nat :=
  let b := pr.desc
  (List.range (dN b)).map fun j => sumP (List.zip (matRow pr.vals (dN b) j) i.x ++ [(one64, q.getD j 0)]
    ++ List.zip (matCol pr.qpA (dN b) (dQpM b) j) i.nu ++ List.zip (matCol pr.qpG (dN b) (dQpP b) j) i.mu)
/-- RTOL times one and a norm, and ATOL. -/
def qpBound (b : List Byte) (v : Val) : Val := addV (mulV (f64 (dRtol b)) (addV (.fin false 1 0) v)) (f64 (dAtol b))
/-- The three conditions of R275. -/
def qpConverged (pr : Problem) (q : List Nat) (i : QpIter) : Bool :=
  let b := pr.desc
  let r := qpPrimal pr i
  let bound := qpBound b (infNorm (pr.qpb ++ pr.qph))
  i.mu.all (fun m => leV vZero (f64 m)) && i.s.all (fun s => ltV vZero (f64 s))
    && leV (infNorm r.1) bound && leV (infNorm r.2) bound && leV (infNorm (qpDual pr q i)) (qpBound b (infNorm q))
    && leV (divV (dotQ i.mu i.s) (.fin false (max (dQpP b) 1) 0)) (addV (f64 (dRtol b)) (f64 (dAtol b)))

/-- 2^-30 and 2^-40 (R276). -/
def eps30 : Val := .fin false 1 (-30)
/-- The PRIMAL certificate holds of directions for the multipliers, with its measure. -/
def primalCert (pr : Problem) (nu mu : List Nat) : Option Nat :=
  let b := pr.desc
  let at_ := (List.range (dN b)).map fun j => sumP (List.zip (matCol pr.qpA (dN b) (dQpM b) j) nu ++ List.zip (matCol pr.qpG (dN b) (dQpP b) j) mu)
  let v := rn64 (addV (dotQ pr.qpb nu) (dotQ pr.qph mu))
  if mu.all (fun m => leV vZero (f64 m)) ∧ leV (infNorm at_) eps30 = true ∧ ltV v vZero = true ∧ eqV (infNorm (nu ++ mu)) (.fin false 1 0) = true then some (c64 v.negate) else none
/-- The DUAL certificate holds of a direction, with its measure. -/
def dualCert (pr : Problem) (q d : List Nat) : Option Nat :=
  let b := pr.desc
  let prod (a : List Nat) (m : Nat) : List Nat := (matTerms a m (dN b) d).map sumP
  let v := dotQ q d
  if leV (infNorm (prod pr.vals (dN b))) eps30 = true ∧ leV (infNorm (prod pr.qpA (dQpM b))) eps30 = true
      ∧ (prod pr.qpG (dQpP b)).all (fun x => leV (f64 x) eps30) ∧ ltV v vZero = true ∧ eqV (infNorm d) (.fin false 1 0) = true then some (c64 v.negate) else none
/-- 2^-40, the diagonal regularisation, and its value in the rows of the multipliers (R276). -/
def reg40 : Nat := c64 (.fin false 1 (-40))
def regDual : Nat := if Config.regNegative then neg64 reg40 else reg40
/-- The dense KKT system of a Newton step (R273, R276), by rows: P with the transposes of A and G, then A, then G with the slacks over their multipliers. -/
def kktRows (pr : Problem) (i : QpIter) : List (List (Nat × Nat)) :=
  let b := pr.desc
  let n := dN b
  let m := dQpM b
  let p := dQpP b
  let at_ (o : Nat) (l : List Nat) : List (Nat × Nat) := l.mapIdx fun k v => (o + k, v)
  ((List.range n).map fun j => at_ 0 ((matRow pr.vals n j).mapIdx fun k v => if k = j then sumP [(one64, v), (one64, reg40)] else v)
      ++ at_ n (matCol pr.qpA n m j) ++ at_ (n + m) (matCol pr.qpG n p j))
    ++ ((List.range m).map fun k => at_ 0 (matRow pr.qpA n k) ++ [(n + k, regDual)])
    ++ (List.range p).map fun k => at_ 0 (matRow pr.qpG n k) ++ [(n + m + k, sumP [(neg64 one64, Config.ratio (i.s.getD k 0) (i.mu.getD k 0)), (one64, regDual)])]
/-- A Newton step (R273): the pivots of its system, each with the largest magnitude of its column, the next iterate, and the directions whose certificates are tested. -/
structure Newton where
  pivots : List (Nat × Nat) := []
  next : QpIter := {}
  nu : List Nat := []
  mu : List Nat := []
  d : List Nat := []
deriving Repr
/-- The arrays of a QP with its right-hand side and its iterate. -/
def qpArrays (pr : Problem) (q : List Nat) (i : QpIter) : List (List Nat) := [pr.vals, pr.qpA, pr.qpb, pr.qpG, pr.qph, q, i.codes]
/-- The Newton step at an iterate: the KKT system factored with partial pivoting and solved. -/
def newtonStep (pr : Problem) (q : List Nat) (i : QpIter) : Newton :=
  let b := pr.desc
  let n := dN b
  let m := dQpM b
  let rows := kktRows pr i
  let f := dense rows
  let dir := f.solve (Config.kktRhs b (qpArrays pr q i))
  let y := Config.qpStep b (qpArrays pr q i ++ [dir])
  { pivots := f.pivots.mapIdx fun k p => (p.1, c64 (infNorm (rows.map fun r => tabGet 0 k r)))
    next := ⟨axpy i.x y.primal (dir.take n), axpy i.nu y.dual ((dir.drop n).take m), axpy i.mu y.dual (dir.drop (n + m)), axpy i.s y.primal y.slack⟩
    nu := y.nu, mu := y.mu, d := y.d }
/-- A certificate that a Newton step meets (R276): the detail and its measure. -/
def qpCertificate (pr : Problem) (q : List Nat) (y : Newton) : Option (Nat × Nat) :=
  match y.pivots.find? fun p => ltV (f64 p.1).abs ((f64 p.2).abs.scale (-40)) with
  | some p => some (0x22, c64 (f64 p.1).abs)
  | none => match primalCert pr y.nu y.mu with
    | some m => some (0x20, m)
    | none => (dualCert pr q y.d).map fun m => (0x21, m)

/-- The Newton steps of a QP (R273, R275, R276): `k` have been made. -/
def qpLoop (pr : Problem) (q : List Nat) : Nat → Nat → QpIter → SolveEnd
  | 0, k, i => { outcome := 2, iters := k, resid := c64 (infNorm (qpDual pr q i)), x := i.x, iter := i.codes }
  | fuel + 1, k, i =>
    if qpConverged pr q i then { outcome := 0, iters := k, resid := c64 (infNorm (qpDual pr q i)), x := i.x, iter := i.codes }
    else if dMaxit pr.desc ≤ k then { outcome := 2, iters := k, resid := c64 (infNorm (qpDual pr q i)), x := i.x, iter := i.codes }
    else
      let y := newtonStep pr q i
      match qpCertificate pr q y with
      | some e => { outcome := 5, detail := e.1, iters := k + 1, resid := e.2, x := i.x, iter := i.codes }
      | none => qpLoop pr q fuel (k + 1) (qpIter pr.desc y.next.codes)

/-- The starting point of a QP: its last iterate, with each slack and each multiplier below 2^-20 (1 + the largest magnitude of h) raised to it (R269). -/
def qpStart (pr : Problem) : QpIter :=
  let i := qpIter pr.desc pr.iter
  let low := rn64 ((addV (.fin false 1 0) (infNorm pr.qph)).scale (-20))
  let up (c : Nat) : Nat := if ltV (f64 c) low then c64 low else c
  { i with nu := i.nu.map up, mu := i.mu.map up, s := i.s.map up }
/-- A QP solved with at most `steps` Newton steps. -/
def qpSolve (pr : Problem) (q : List Nat) (steps : Nat) : SolveEnd := qpLoop pr q steps 0 (qpStart pr)

/-- The products of R280: `(u xᵀ + w dᵀ)` row-major, with the factor of each row. -/
def outerSum (u x w d : List Nat) (scale : Nat → Val → Val) : List Nat :=
  ((List.range u.length).flatMap fun i => (List.range x.length).map fun j =>
    c64 (scale i (f64 (sumP [(u.getD i 0, x.getD j 0), (w.getD i 0, d.getD j 0)]))))
/-- The system of R280 at the iterate that a QP keeps, by rows, on d_x, d_mu and d_nu. -/
def qpAdjRows (pr : Problem) : List (List (Nat × Nat)) :=
  let b := pr.desc
  let n := dN b
  let m := dQpM b
  let p := dQpP b
  let i := qpIter b pr.iter
  let at_ (o : Nat) (l : List Nat) : List (Nat × Nat) := l.mapIdx fun k v => (o + k, v)
  ((List.range n).map fun j => at_ 0 (matRow pr.vals n j) ++ at_ n ((matCol pr.qpG n p j).mapIdx fun k v => sumP [(v, i.mu.getD k 0)]) ++ at_ (n + p) (matCol pr.qpA n m j))
    ++ ((List.range p).map fun k => at_ 0 (matRow pr.qpG n k) ++ [(n + k, sumP (List.zip (matRow pr.qpG n k) pr.xPrev ++ [(neg64 one64, pr.qph.getD k 0)]))])
    ++ (List.range m).map fun k => at_ 0 (matRow pr.qpA n k)
/-- The solution of that system for -g (R280). -/
def qpAdjoint (pr : Problem) (g : List Nat) : List Nat := (dense (qpAdjRows pr)).solve (g.map neg64)
/-- The gradients of a QP (R280) from the solution of its system: those written at LAM_OFF, and those of P, G and A written at VGRAD_OFF. -/
def qpGradients (pr : Problem) (dx dmu dnu : List Nat) : List Nat × List Nat :=
  let i := qpIter pr.desc pr.iter
  let x := pr.xPrev
  (dx ++ List.zipWith (fun m d => c64 (mulV (f64 m) (f64 d)).negate) i.mu dmu ++ dnu.map neg64,
   outerSum dx x x dx (fun _ v => v.scale (-1)) ++ outerSum dmu x i.mu dx (fun k v => mulV (f64 (i.mu.getD k 0)) v) ++ outerSum dnu x i.nu dx (fun _ v => v))

/-- A forward solve (R263 to R267, R273 to R276). -/
def forwardSolve (pr : Problem) (b : List Nat) : SolveEnd :=
  if isQp pr.desc then qpSolve pr b (dMaxit pr.desc + 1)
  else if (normV pr b).isZero then { x := List.replicate (dN pr.desc) 0 }
  else linSolve { pr := pr, adj := false, b := b, tau := tauOf pr.desc (normV pr b) } pr.xPrev
/-- A linear adjoint (R278). -/
def adjointSolve (pr : Problem) (g : List Nat) : SolveEnd := linSolve { pr := pr, adj := true, b := g, tau := tauOf pr.desc (normV pr g) } pr.lamPrev

end Sys2Proof.Machine
end

