-- ==== Sys2Proof/Machine/Flags.lean ====
section
/-!
DEFINITION. Machine/Flags.lean: the conversion flags and counter of a tile (R97, R101, R103, R109, R111), seeds and random bits (R92, R173, R477), and rounding selectors (R94).
-/
namespace Sys2Proof.Machine

/-- Record the events of conversions on tile `t`: SAT and TILE_SAT_COUNT, NAN_INT, SCALE_CLAMP (R97, R101, R88). -/
def recordCvt (t : Nat) (e : CvtEv) (s : State) : State :=
  let s := if 0 < e.sats then bump (aTileSatCount t) e.sats (aTileCvtStatus t) 4 (stick (aTileCvtStatus t) 0 s) else s
  let s := if e.nanInt then stick (aTileCvtStatus t) 1 s else s
  if e.clamp then stick (aTileCvtStatus t) 2 s else s

/-- RMODE and SATMODE of a TILE_CVT word as it stood at issue (R94, R96, R108). -/
def cvtRmode (cvt : Word) : Bool := bitOf cvt.toNat 0
def cvtSatmode (cvt : Word) : Bool := bitOf cvt.toNat 1
/-- Whether a rounding selector is stochastic under a TILE_CVT word (R94). -/
def isStoch (sel : Nat) (cvt : Word) : Bool := decide (sel = 2) || (decide (sel = 0) && cvtRmode cvt)

/-- The key of a seed index for partition `p` (R92, R477). -/
def seedKey (s : State) (p idx : Nat) : List Byte :=
  match (part s p).seeds with
  | some l => slice (l.getD idx []) 0 16
  | none => List.replicate 16 0
/-- A seed index at or above COUNT sets SEED_RANGE (R477). -/
def noteSeed (p idx : Nat) (s : State) : State :=
  match (part s p).seeds with
  | some l => if l.length ≤ idx then stick (aImgAudit p) 17 s else s
  | none => s

/-- The rounding of element `i` under a selector: seed key, step and stream number (R91 to R94). -/
def roundOf (stoch : Bool) (key : List Byte) (step q i : Nat) : Rnd := if stoch then .sr (replayBits key step (q % 2 ^ 24) i) else .rne

end Sys2Proof.Machine
end

