-- ==== Sys2Proof/Machine/MatrixDesc.lean ====
section
/-!
DEFINITION. Machine/MatrixDesc.lean: matrix descriptors, the checks at issue, slot order, and completion (R117 to R121, R129, R141 to R151, R163, R165, R169, R634).
-/
namespace Sys2Proof.Machine

/-! ### Descriptor fields (R117) -/

/-- The 128 bits of a descriptor. -/
def mxBits (w0 w1 : Word) : Nat := w0.toNat + 2 ^ 64 * w1.toNat
def mxOfmtA (x : Nat) : Fmt := ⟨fieldOf x 0 4, bitOf x 4⟩
def mxOfmtB (x : Nat) : Fmt := ⟨fieldOf x 5 4, bitOf x 9⟩
def mxSfmtA (x : Nat) : Fmt := ⟨fieldOf x 10 4, bitOf x 4⟩
def mxSfmtB (x : Nat) : Fmt := ⟨fieldOf x 14 4, bitOf x 9⟩
def mxElec (x : Nat) : Nat := fieldOf x 18 2
def mxAcc (x : Nat) : Bool := bitOf x 20
def mxSlot (x : Nat) : Nat := fieldOf x 24 6
def mxM (x : Nat) : Nat := 8 * (fieldOf x 30 4 + 1)
def mxN (x : Nat) : Nat := 8 * (fieldOf x 34 4 + 1)
def mxK (x : Nat) : Nat := fieldOf x 38 16 + 1
def mxChunkLen (x : Nat) : Nat := 32 * (fieldOf x 54 5 + 1)
def mxRnd (x : Nat) : Nat := fieldOf x 59 2
def mxIrq (x : Nat) : Bool := bitOf x 61
def mxBaseA (x : Nat) : Nat := 64 * fieldOf x 64 19
def mxBaseB (x : Nat) : Nat := 64 * fieldOf x 83 19
def mxLdA (x : Nat) : Nat := 64 * fieldOf x 102 12
def mxLdB (x : Nat) : Nat := 64 * fieldOf x 114 12
/-- The binding that a descriptor names. -/
def mxBind (x : Nat) : SlotBind := ⟨fieldOf x 21 3, fieldOf x 30 4, fieldOf x 34 4⟩

/-- The operand class of a format (R113): 0 4-bit, 1 6-bit or 8-bit, 2 16-bit, 3 FP32, 4 FP64. -/
def fmtClass (f : Fmt) : Nat :=
  match f.code with
  | 8 => 0 | 11 => 0 | 2 => 2 | 3 => 2 | 1 => 3 | 0 => 4 | _ => 1
/-- The class of an operation (R113). -/
def mxClass (x : Nat) : Nat := max (fmtClass (mxOfmtA x)) (fmtClass (mxOfmtB x))
/-- D of R112. -/
def mxD (x : Nat) : Nat :=
  match mxClass x with
  | 0 => 256 | 1 => 128 | 2 => 64 | 3 => 16 | _ => if mxElec x = 2 then 8 else 4
/-- Both operands are INT8 or INT4. -/
def mxInt (x : Nat) : Bool := (mxOfmtA x).isInt && (mxOfmtB x).isInt
/-- The number of chunks (R122). -/
def mxChunks (x : Nat) : Nat := ceilDiv (mxK x) (mxChunkLen x)

/-- The slot formats allowed by R116. -/
def afmtAllowed (x : Nat) : Bool :=
  let a := fieldOf x 21 3
  if mxInt x then decide (a = 4)
  else match mxClass x with
    | 3 => decide (a ≤ 3)
    | 4 => decide (a = 2 ∨ a = 3)
    | _ => decide (a ≤ 1)

/-- A reserved format code, INT32 as an operand or a stored format, or a reserved selector: the first check of R120, which sets FMT_FAULT (R78 and its table;
for INT32 named only as a stored format DEDUCED: R78 says that it is no stored operand, log entry 14). -/
def mxFmtBad (x : Nat) : Bool :=
  decide (mxRnd x = 3) || [mxOfmtA x, mxOfmtB x, mxSfmtA x, mxSfmtB x].any fun f => f.reserved || f.isInt32
/-- The checks of R120 pass. -/
def mxDescOk (x : Nat) : Bool :=
  !mxFmtBad x
    && (if 3 ≤ mxClass x then decide (mxElec x = 1 ∨ (mxElec x = 2 ∧ mxClass x = 4)) else decide (mxElec x = 0))
    && afmtAllowed x && decide (mxSlot x < (mxBind x).avail)
    && (!(mxSfmtA x).blockScaled || decide ((mxSfmtA x).bytes (mxK x) ≤ mxLdA x))
    && (!(mxSfmtB x).blockScaled || decide ((mxSfmtB x).bytes (mxK x) ≤ mxLdB x))
    && decide (fieldOf x 62 2 = 0 ∧ fieldOf x 126 2 = 0)

/-- The end of an operand's bytes and scales in the slice (R118, R121). -/
def operandEnd (f : Fmt) (base ld rows k : Nat) : Nat :=
  if f.blockScaled then base + rows * ld + rows * ceilDiv k 32 else base + (rows - 1) * ld + f.bytes k
/-- The operands lie in working memory (R121). -/
def mxInRange (w x : Nat) : Bool :=
  decide (operandEnd (mxSfmtA x) (mxBaseA x) (mxLdA x) (mxM x) (mxK x) ≤ w) && decide (operandEnd (mxSfmtB x) (mxBaseB x) (mxLdB x) (mxN x) (mxK x) ≤ w)

/-! ### Slot order (R145 to R150, R165) -/

/-- Two extents overlap (R144). -/
def extentsMeet (i : Nat) (a : SlotBind) (j : Nat) (b : SlotBind) : Bool :=
  decide (i * a.bytes < (j + 1) * b.bytes) && decide (j * b.bytes < (i + 1) * a.bytes)
/-- The cause of an ACC_FORMAT_FAULT of a matrix descriptor, where it takes one (R146, R148): 1 FORMAT, 2 SHAPE, 3 OVERLAP. -/
def mxSlotFault (s : State) (t k : Nat) (b : SlotBind) : Option Nat :=
  match slotLatest (accSlot s t k) with
  | some c => if c.afmt ≠ b.afmt then some 1 else if c ≠ b then some 2 else none
  | none => if (tile s t).acc.any (fun e => decide (e.1 ≠ k) && (slotHeld e.2).any fun c => extentsMeet k b e.1 c) then some 3 else none

/-- An operation takes ACC_FORMAT_FAULT (R149, R169). -/
def accFault (t k cause source : Nat) (b : SlotBind) (seq : Nat) (s : State) : State :=
  let s := if getB s (aAccStatus t) 8 then s
    else setReg (aAccFaultInfo t) (BitVec.ofNat 64 (k + 2 ^ 8 * cause + 2 ^ 11 * source + 2 ^ 16 * b.afmt + 2 ^ 19 * b.mb + 2 ^ 23 * b.nb + 2 ^ 32 * seq)) s
  stick (aAccStatus t) 8 s

/-- A free is placed for each slot named that is bound at that place (R150). -/
def placeFrees (t : Nat) (mask : Word) (s : State) : State :=
  (List.range 64).foldl (fun s k =>
    if bitOf mask.toNat k ∧ (slotLatest (accSlot s t k)).isSome then modSlot t k (fun a => { a with order := a.order ++ [.free] }) s else s) s

/-- A free whose earlier operations are complete takes effect (R150, R163). -/
def freeEffect (t k : Nat) (s : State) : State :=
  match (accSlot s t k).order with
  | .free :: rest => modSlot t k (fun _ => { order := rest }) s
  | _ => s

/-! ### Issue (R120, R121, R126, R141, R225) -/

/-- A descriptor takes its place in the order of its slot, or ACC_FORMAT_FAULT (R149, R163): `source` is 0 for the core's, 2 for a sequencer's (R169). -/
def slotEnter (t x source seq : Nat) (s : State) : State × Option Byte :=
  match mxSlotFault s t (mxSlot x) (mxBind x) with
  | some c => (accFault t (mxSlot x) c source (mxBind x) seq s, some cFormat)
  | none =>
    (modSlot t (mxSlot x) (fun a =>
      let a := if mxAcc x then a else { a with isat := false, poison := false, inf := false }
      { a with order := a.order ++ [.mx seq (mxBind x)] }) s, none)

/-- The code of a descriptor that is not executed (R634), and the events of its check. -/
def mxCheck (t x seq : Nat) (s : State) : State × Option Byte :=
  if !mxDescOk x then (s, some cFormat)
  else if !mxInRange (tileW s t) x then (s, some cPart)
  else slotEnter t x 0 seq s

/-- The next 16-bit sequence number (R141). -/
def nextSeq (n : Nat) : Nat := (n + 1) % 65536

/-- A descriptor enters the queue of a tile that has room; the core keeps its number among its last 64 (R227). -/
def mxEnter (t : Nat) (w0 w1 : Word) (s : State) : State :=
  let seq := (tile s t).mxSeq
  match mxCheck t (mxBits w0 w1) seq s with
  | (s, skip) =>
    let e : MxEntry := { w0 := w0, w1 := w1, seq := seq, cvt := reg s (aTileCvt t), rng := reg s (aTileMxRng t), step := (tile s t).step, skip := skip }
    modTile t (fun y => { y with
      mxq := y.mxq ++ [e]
      mxSeq := nextSeq seq
      core := { y.core with mxCodes := ((seq, none) :: y.core.mxCodes.filter fun c => c.1 ≠ seq).take 64 } }) s

/-! ### Completion (R124, R129, R634) -/

/-- What a descriptor that has left the queue records with its code: slot order, status, interrupt. A sequencer's is never refused for its fields. -/
def mxRecord (t : Nat) (e : MxEntry) (code : Byte) (s : State) : State :=
  let x := mxBits e.w0 e.w1
  let s := if e.skip.isSome then s
    else modSlot t (mxSlot x) (fun a => { a with order := a.order.filter fun o => match o with | .mx q _ => decide (q ≠ e.seq) | _ => true }) s
  let s := if e.skip.isSome ∧ e.solv.isNone ∧ !mxDescOk x then
      let s := stick (aTileMxStatus t) 8 s
      if mxFmtBad x then stick (aTileCvtStatus t) 3 s else s
    else if e.skip = some cPart then stick (aTileMxStatus t) 9 s else s
  let s := putF (aTileMxStatus t) 16 8 code.toNat (putF (aTileMxStatus t) 32 16 e.seq s)
  let s := if code = cPoison then stick (aTileMxStatus t) 10 s else s
  if mxIrq x then stick (aTileCoreStatus t) 16 s else s
/-- The head descriptor leaves the queue with its code: record of the core, and what it records. -/
def mxComplete (t : Nat) (e : MxEntry) (code : Byte) (s : State) : State :=
  mxRecord t e code (modTile t (fun y => { y with
    mxq := y.mxq.drop 1
    mxRun := none
    core := { y.core with mxCodes := y.core.mxCodes.map fun c => if c.1 = e.seq then (c.1, some code) else c } }) s)

/-- The operations of a slot's order before a descriptor. -/
def slotBefore (a : AccSlot) (seq : Nat) : List SlotOp := a.order.takeWhile fun o => match o with | .mx q _ => decide (q ≠ seq) | _ => true

end Sys2Proof.Machine
end

