-- ==== Sys2Proof/Machine/StreamDesc.lean ====
section
/-!
DEFINITION. Machine/StreamDesc.lean: stream descriptors, their chain blocks and the checks at issue (R171 to R191, R194, R202, R204).
-/
namespace Sys2Proof.Machine

/-! ### Descriptor fields (R174) -/

/-- The 256 bits of a descriptor. -/
def stBits (ws : List Word) : Nat := ws.foldr (fun w a => w.toNat + 2 ^ 64 * a) 0
def stNin (x : Nat) : Nat := fieldOf x 0 3
def stNout (x : Nat) : Nat := fieldOf x 3 2
def stStages (x : Nat) : Nat := fieldOf x 5 3 + 1
def stRnd (x : Nat) : Nat := fieldOf x 8 2
def stIrq (x : Nat) : Bool := bitOf x 10
def stSeed (x : Nat) : Nat := fieldOf x 12 8
def stStream (x : Nat) : Nat := fieldOf x 20 24
def stChain (x : Nat) : Nat := 64 * fieldOf x 44 19
def stCols (x : Nat) : Nat := fieldOf x 64 22 + 1
def stRows (x : Nat) : Nat := fieldOf x 86 16 + 1
def stWprec (x : Nat) : Nat := fieldOf x 102 2
def stMask (x : Nat) : Nat := fieldOf x 104 4
def stMsrc (x : Nat) : Nat := fieldOf x 108 2
def stFill (x : Nat) : Nat := fieldOf x 110 2
def stQ0 (x : Nat) : Nat := fieldOf x 128 22
def stK0 (x : Nat) : Nat := fieldOf x 150 22
def stMp0 (x : Nat) : Nat := fieldOf x 192 22
def stMp1 (x : Nat) : Nat := fieldOf x 214 22

/-- The working precision (R171). -/
def wprecFmt (k : Nat) : FloatFmt :=
  match k with | 0 => fmtFp32 | 1 => fmtFp64 | 2 => fmtBf16 | _ => fmtFp16
/-- Lanes of a working precision (R171). -/
def wprecLanes (k : Nat) : Nat :=
  match k with | 0 => 64 | 1 => 32 | _ => 128

/-- A stream record (R177): `kind` 0 LOCAL, 1 REMOTE, 2 BSTORE, 3 ACC; `bcast` 0 FULL, 1 ROW, 2 COL, 3 SCALAR. -/
structure StreamRec where
  kind : Nat
  bcast : Nat
  fmt : Fmt
  bits : Bool
  hint : Nat
  resv : Nat
  sel : Nat
  base : Nat
  pitch : Nat
  scaleOff : Nat
deriving DecidableEq, Repr, Inhabited

/-- The stream record at byte `o` of a chain block. -/
def streamRecAt (chain : List Byte) (o : Nat) : StreamRec :=
  let x := leAt chain o 16
  { kind := fieldOf x 0 3, bcast := fieldOf x 3 2, fmt := ⟨fieldOf x 5 4, bitOf x 9⟩, bits := bitOf x 10, hint := fieldOf x 11 2, resv := fieldOf x 13 3,
    sel := fieldOf x 16 20, base := fieldOf x 36 37, pitch := fieldOf x 73 25, scaleOff := fieldOf x 98 30 }

/-- The input and output records of a descriptor (R175). -/
def stIns (x : Nat) (chain : List Byte) : List StreamRec := (List.range (stNin x)).map fun j => streamRecAt chain (16 * j)
def stOuts (x : Nat) (chain : List Byte) : List StreamRec := (List.range (stNout x)).map fun n => streamRecAt chain (64 + 16 * n)

/-- The tile, slot and binding that SEL names (R177). -/
def recTile (r : StreamRec) : Nat := r.sel % 1024
def recSlot (r : StreamRec) : Nat := r.sel % 64
def recBind (r : StreamRec) : SlotBind := ⟨fieldOf r.sel 6 3, fieldOf r.sel 9 4, fieldOf r.sel 13 4⟩
/-- The start of the scale array (R177). -/
def recScale (r : StreamRec) : Nat := r.base + 64 * r.scaleOff

/-- A stage record (R182). -/
structure StageRec where
  op : Nat
  sels : List Nat
  cidx : Nat
  tap : Nat
  out0 : Bool
  out1 : Bool
  aux : Nat
  resv : Nat
deriving DecidableEq, Repr, Inhabited

/-- The operands that an opcode uses (R184); `none` for a reserved opcode. -/
def stageArity (op : Nat) : Option Nat :=
  match op with
  | 0x00 => some 1 | 0x01 => some 2 | 0x02 => some 2 | 0x03 => some 2 | 0x04 => some 3 | 0x05 => some 2 | 0x06 => some 2 | 0x07 => some 1
  | 0x08 => some 1 | 0x09 => some 3 | 0x0A => some 1 | 0x0B => some 2 | 0x0C => some 2 | 0x0D => some 3
  | 0x10 => some 1 | 0x11 => some 2 | 0x12 => some 1 | 0x13 => some 1 | 0x14 => some 1 | 0x15 => some 1 | 0x16 => some 1 | 0x17 => some 1
  | 0x18 => some 1 | 0x19 => some 1 | 0x20 => some 1 | 0x21 => some 1 | 0x22 => some 1 | 0x23 => some 1
  | 0x28 => some 1 | 0x29 => some 0 | 0x2A => some 0 | 0x2B => some 0 | _ => none
/-- The latency of an opcode in tclk (R184). -/
def stageLatency (op : Nat) : Nat :=
  match op with
  | 0x01 => 2 | 0x02 => 2 | 0x03 => 2 | 0x04 => 4 | 0x09 => 2 | 0x20 => 4 | 0x21 => 2 | 0x22 => 2 | 0x23 => 4 | 0x28 => 6
  | 0x10 => 8 | 0x11 => 8 | 0x12 => 8 | 0x13 => 8
  | 0x14 => 6 | 0x15 => 6 | 0x16 => 6 | 0x17 => 6 | 0x18 => 6 | 0x19 => 6 | _ => 1
/-- A special-function stage, a row reduction, a gather (R184). -/
def opSf (op : Nat) : Bool := decide (0x10 ≤ op ∧ op ≤ 0x19)
def opRed (op : Nat) : Bool := decide (0x20 ≤ op ∧ op ≤ 0x22)
def opGather (op : Nat) : Bool := decide (op = 0x28)

/-- The stage record at byte `o` of a chain block; `sels` keeps the selectors of the operands used. -/
def stageAt (chain : List Byte) (o : Nat) : StageRec :=
  let x := leAt chain o 8
  let op := fieldOf x 0 6
  { op := op, sels := [fieldOf x 6 3, fieldOf x 9 3, fieldOf x 12 3].take ((stageArity op).getD 0), cidx := fieldOf x 15 4, tap := fieldOf x 19 3,
    out0 := bitOf x 22, out1 := bitOf x 23, aux := fieldOf x 24 2, resv := fieldOf x 26 38 }
/-- The stages of a descriptor. -/
def stStageRecs (x : Nat) (chain : List Byte) : List StageRec := (List.range (stStages x)).map fun k => stageAt chain (96 + 8 * k)

/-- The input stream that selector `sel` names at stage `k` (R183). -/
def selInput (k sel : Nat) : Option Nat := if 1 ≤ sel ∧ sel ≤ 4 then some (sel - 1) else if sel = 0 ∧ k = 0 then some 0 else none
/-- The earlier stage that selector `sel` names at stage `k` (R183). -/
def selStage (k sel tap : Nat) : Option Nat := if sel = 0 ∧ 0 < k then some (k - 1) else if sel = 6 then some tap else none
/-- The stage sets output `n`. -/
def stageOut (g : StageRec) (n : Nat) : Bool := if n = 0 then g.out0 else g.out1
/-- The stage that feeds output `n`. -/
def feedOf (gs : List StageRec) (n : Nat) : Nat := (gs.findIdx? fun g => stageOut g n).getD 0
/-- The table streams (R184). -/
def stTables (gs : List StageRec) : List Nat := (gs.filter fun g => opGather g.op).map (·.aux)
/-- The input streams that stages select; another is never read (log entry 16). -/
def stUsed (gs : List StageRec) : List Nat :=
  ((gs.mapIdx fun k g => g.sels.filterMap (selInput k)).flatten).eraseDups

/-! ### Places (R178, R179, R193) -/

/-- The bytes of one packed row of `n` elements of a stream. -/
def recRowBytes (r : StreamRec) (n : Nat) : Nat := if r.bits then ceilDiv n 8 else r.fmt.bytes n
/-- The byte ranges of a stream over the rectangle, the scale array last. -/
def recSpans (r : StreamRec) (rows cols : Nat) : List (Nat × Nat) :=
  if r.kind = 3 then []
  else
    let data :=
      if r.bits then
        match r.bcast with
        | 0 => (List.range rows).map fun i => (r.base + i * r.pitch, r.base + i * r.pitch + ceilDiv cols 8)
        | 1 => [(r.base, r.base + ceilDiv rows 8)]
        | 2 => [(r.base, r.base + ceilDiv cols 8)]
        | _ => [(r.base, r.base + 1)]
      else
        match r.bcast with
        | 0 => (List.range rows).map fun i => (r.base + i * r.pitch, r.base + i * r.pitch + r.fmt.bytes cols)
        | 1 => (List.range rows).map fun i => (r.base + i * r.pitch, r.base + i * r.pitch + r.fmt.bytes 1)
        | 2 => [(r.base, r.base + r.fmt.bytes cols)]
        | _ => [(r.base, r.base + r.fmt.bytes 1)]
    if r.fmt.blockScaled ∧ !r.bits then
      let n := match r.bcast with | 0 => ceilDiv cols 32 * rows | 1 => ceilDiv rows 32 | 2 => ceilDiv cols 32 | _ => 1
      data ++ [(recScale r, recScale r + n)]
    else data
/-- The end of a stream's bytes. -/
def recEnd (r : StreamRec) (rows cols : Nat) : Nat := ((recSpans r rows cols).map (·.2)).foldl max 0
/-- The memory a stream lies in: a slice, the board store, or none. -/
def recSpace (t : Nat) (r : StreamRec) : Option Nat :=
  match r.kind with | 0 => some t | 1 => some (recTile r) | 2 => some 1024 | _ => none
/-- Two lists of byte ranges share a byte. -/
def spansMeet (a b : List (Nat × Nat)) : Bool := a.any fun x => b.any fun y => decide (x.1 < y.2) && decide (y.1 < x.2)
/-- Two streams share a byte. -/
def recsMeet (t rows cols : Nat) (a b : StreamRec) : Bool :=
  (recSpace t a).isSome && recSpace t a = recSpace t b && spansMeet (recSpans a rows cols) (recSpans b rows cols)

/-! ### Checks at issue (R188 to R191, R194) -/

/-- A reserved value or field of the descriptor itself (R174, R190). -/
def stFieldsBad (x : Nat) : Bool :=
  decide (4 < stNin x ∨ stNout x = 0 ∨ stNout x = 3 ∨ stRnd x = 3 ∨ 5 < stMask x ∨ stFill x = 3)
    || decide (fieldOf x 11 1 ≠ 0 ∨ fieldOf x 63 1 ≠ 0 ∨ fieldOf x 112 16 ≠ 0 ∨ fieldOf x 172 20 ≠ 0 ∨ fieldOf x 236 20 ≠ 0)
/-- A record that uses its format names a reserved one (R78, R190). -/
def recFmtBad (r : StreamRec) : Bool := decide (r.kind < 3) && !r.bits && r.fmt.reserved
/-- A reserved value or field of a record (R177, R190). -/
def recFieldsBad (r : StreamRec) : Bool :=
  decide (3 < r.kind ∨ r.resv ≠ 0) || (decide (r.kind = 2) && decide (r.hint = 3)) || recFmtBad r
    || (match r.kind with
        | 1 => decide (r.sel / 1024 ≠ 0)
        | 3 => decide (r.sel / 2 ^ 17 ≠ 0 ∨ 4 < fieldOf r.sel 6 3)
        | _ => decide (r.sel ≠ 0))
/-- The alignment of R180 fails. -/
def recMisaligned (r : StreamRec) : Bool :=
  if r.kind = 3 ∨ r.bits then false
  else
    let n := if 8 ≤ r.fmt.width then r.fmt.width / 8 else if r.fmt.width = 6 then 3 else 1
    decide (r.base % n ≠ 0) || (decide (r.bcast ≤ 1) && decide (r.pitch % n ≠ 0))
/-- A stage holds a reserved value (R182, R184). -/
def stageFieldsBad (g : StageRec) : Bool := (stageArity g.op).isNone || decide (11 < g.cidx ∨ g.resv ≠ 0)
/-- The stream that an invalid selector of stage `k` names, 7 where it names none (R183, R188). -/
def selFault (ins : List StreamRec) (gs : List StageRec) (k : Nat) (g : StageRec) (sel : Nat) : Option Nat :=
  if sel = 5 then none
  else match selInput k sel with
    | some j => if ins.length ≤ j then some 7 else if (stTables gs).contains j || (ins.getD j default).bits then some j else none
    | none =>
      match selStage k sel g.tap with
      | some i => if i < k ∧ !opRed (gs.getD i default).op then none else some 7
      | none => some 7
/-- What R188 asks of a table stream. -/
def tableOk (ins : List StreamRec) (j : Nat) : Bool := match ins[j]? with | some r => decide (r.kind = 0 ∧ r.bcast = 2) && !r.bits | none => false
/-- What R188 asks of output `n`, beyond the one stage that feeds it. -/
def outputOk (ins : List StreamRec) (gs : List StageRec) (n : Nat) (o : StreamRec) : Bool :=
  decide (o.kind ≠ 3) && !o.bits && decide (o.bcast = if opRed (gs.getD (feedOf gs n) default).op then 1 else 0)
    && (decide (o.kind ≠ 2)
      || (match gs, ins with
          | [g], [i] => decide (g.op = 0 ∧ g.sels ≠ [5] ∧ i.kind = 0 ∧ i.fmt = o.fmt ∧ i.bcast = o.bcast)
          | _, _ => false))
/-- What R188 asks of input `j`: the shape of an ACC input, a BITS input only as the mask. -/
def inputOk (x j : Nat) (r : StreamRec) : Bool :=
  (decide (r.kind ≠ 3) || decide (stRows x = 8 * ((recBind r).mb + 1) ∧ stCols x = 8 * ((recBind r).nb + 1) ∧ r.bcast = 0))
    && (!r.bits || (decide (4 ≤ stMask x) && decide (j = stMsrc x)))
/-- The stream of a clause of R188 that does not hold: the table, output or input that the clause is about, 7 where it is about none (log entry 16). -/
def chainFault (x : Nat) (ins outs : List StreamRec) (gs : List StageRec) : Option Nat :=
  let first (l : List (Option Nat)) : Option Nat := l.findSome? id
  first [
    first ((gs.mapIdx fun k g => g.sels.map (selFault ins gs k g)).flatten),
    if gs.countP (fun g => opSf g.op) ≤ 4 ∧ gs.countP (fun g => opGather g.op) ≤ 2 then none else some 7,
    (stTables gs).find? fun j => !tableOk ins j,
    ((List.range 2).find? fun n => decide (gs.countP (fun g => stageOut g n) ≠ if n < outs.length then 1 else 0)).map
      fun n => if n < outs.length then 4 + n else 7,
    first (outs.mapIdx fun n o => if outputOk ins gs n o then none else some (4 + n)),
    if ins.countP (fun r => r.kind = 3) ≤ 1 then none else some 7,
    if decide (4 ≤ stMask x) && (match ins[stMsrc x]? with | some r => !r.bits | none => true) then some 7 else none,
    first (ins.mapIdx fun j r => if inputOk x j r then none else some j)]
/-- The output whose byte ranges R189 forbids; 7 where two outputs overlap. -/
def overlapFault (t x : Nat) (ins outs : List StreamRec) (gs : List StageRec) : Option Nat :=
  let m := recsMeet t (stRows x) (stCols x)
  if (match outs with | [a, b] => m a b | _ => false) = true then some 7
  else (outs.findIdx? fun o => (ins.mapIdx fun j i => m o i
      && !(!(stTables gs).contains j && decide (o.kind = 0 ∧ i.kind = 0 ∧ o.bcast = 0 ∧ i.bcast = 0 ∧ o.base = i.base ∧ o.pitch = i.pitch
          ∧ o.fmt.code = i.fmt.code ∧ o.scaleOff = i.scaleOff))).any id).map (4 + ·)
/-- The mask positions of R194 fit. -/
def maskPosOk (x : Nat) : Bool :=
  decide (stMask x = 0 ∨ stMask x = 4) || decide (stQ0 x + stRows x ≤ 4194304 ∧ stK0 x + stCols x ≤ 4194304)

/-- The first record, 0 to 3 input or 4 to 5 output, that a test marks. -/
def badRec (f : StreamRec → Bool) (ins outs : List StreamRec) : Option Nat :=
  match ins.findIdx? f with
  | some j => some j
  | none => (outs.findIdx? f).map (· + 4)
/-- The stream of the board-store path that would convert to or from INT32, which R78 and R104 exclude: an input of KIND BSTORE in INT32, or an INT32 output of a
single PASS of such an input (DEDUCED that it is a format fault, log entry 16; a copy to the board store converts nothing, R105). -/
def boardInt32 (x : Nat) (ins outs : List StreamRec) (gs : List StageRec) : Option Nat :=
  match ins.findIdx? fun i => decide (i.kind = 2) && !i.bits && i.fmt.isInt32 with
  | some j => some j
  | none =>
    let transfer := match gs with
      | [g] => decide (g.op = 0) && ((g.sels.head?.bind (selInput 0)).any fun j => decide ((ins.getD j default).kind = 2) && decide (j < stNin x))
      | _ => false
    if transfer then (outs.findIdx? fun o => o.fmt.isInt32).map (4 + ·) else none
/-- The stream that a format fault names (R190), where there is one; 7 where none is to blame. -/
def stFormatFault (t x : Nat) (chain : List Byte) : Option Nat :=
  let ins := stIns x chain
  let outs := stOuts x chain
  let gs := stStageRecs x chain
  match badRec recFieldsBad ins outs with
  | some j => some j
  | none =>
    if gs.any stageFieldsBad then some 7
    else match chainFault x ins outs gs with
      | some j => some j
      | none =>
        match badRec recMisaligned ins outs with
        | some j => some j
        | none =>
          if !maskPosOk x then some 7
          else match boardInt32 x ins outs gs with
          | some j => some j
          | none => match if stFill x = 2 then outs.findIdx? fun o => o.fmt.blockScaled else none with
            | some n => some (4 + n)
            | none => overlapFault t x ins outs gs
/-- The stream that reaches outside its range (R191). -/
def stRangeFault (s : State) (t x : Nat) (chain : List Byte) : Option Nat :=
  let lim (r : StreamRec) : Nat :=
    if r.kind ≤ 1 then tileWC s t else match ownerOf s t with | some p => (part s p).prec.bstSize | none => 0
  badRec (fun r => decide (r.kind ≠ 3 ∧ lim r < recEnd r (stRows x) (stCols x))) (stIns x chain) (stOuts x chain)

/-- The cause of an ACC_FORMAT_FAULT of a stream read (R148): 1 FORMAT, 2 SHAPE, 4 UNBOUND. -/
def rdSlotFault (s : State) (t k : Nat) (b : SlotBind) : Option Nat :=
  match slotLatest (accSlot s t k) with
  | some c => if c.afmt ≠ b.afmt then some 1 else if c ≠ b then some 2 else none
  | none => some 4

/-! ### Issue (R176, R202, R204, R226) -/

/-- The constants of a chain block in the working precision, with the number that overflow (R176). -/
def stConsts (x : Nat) (satmode : Bool) (chain : List Byte) : List Nat × Nat :=
  let rs := (List.range 12).map fun k => (wprecFmt (stWprec x)).encode satmode .rne (fmtFp64.decode (leAt chain (160 + 8 * k) 8))
  (rs.map (·.code), rs.countP (·.sat))

/-- The descriptor's own fields of the first format fault: fields (R174, R190), then records and chain. -/
def stFault (t x : Nat) (chain : List Byte) : Option Nat := if stFieldsBad x then some 7 else stFormatFault t x chain
/-- FMT_FAULT of a descriptor whose chain block was read (R78, R190): a reserved rounding selector, a reserved code in a record that NIN and NOUT name, of four and of two at most
(R175), or INT32 on the board-store path. -/
def stFmtFault (x : Nat) (chain : List Byte) : Bool :=
  decide (stRnd x = 3) || ((stIns x chain).take 4 ++ (stOuts x chain).take 2).any recFmtBad || (boardInt32 x (stIns x chain) (stOuts x chain) (stStageRecs x chain)).isSome
/-- The entry of a descriptor after its checks: descriptor fields, chain block, records and chain, ranges, slot. The chain block is read, and its constants are
converted, in the tclk of issue whatever the descriptor's own fields are (R176); a fault of those fields goes before POISON and RANGE of the block (log entry 16). -/
def stCheck (t : Nat) (e : StEntry) (s : State) : State × StEntry :=
  let x := stBits e.ws
  let w := tileW s t
  if w < stChain x + 256 then
    (s, if stFieldsBad x then { e with skip := some cFormat, cause := 1, stream := 7, fmtFault := decide (stRnd x = 3) } else { e with skip := some cPart, cause := 2, stream := 7 })
  else
    let a := pkgAddr t (stChain x)
    let s' := touchRange 0 a 256 s
    if anyBad s a 256 then
      (s', if stFieldsBad x then { e with skip := some cFormat, cause := 1, stream := 7, fmtFault := decide (stRnd x = 3) } else { e with skip := some cPoison })
    else
      let chain := memBytes s a 256
      let k := stConsts x (cvtSatmode e.cvt) chain
      let s' := recordCvt t { sats := k.2 } s'
      let e := { e with chain := chain, consts := k.1 }
      match stFault t x chain with
      | some j => (s', { e with skip := some cFormat, cause := 1, stream := j, fmtFault := stFmtFault x chain })
      | none =>
        match stRangeFault s' t x chain with
        | some j => (s', { e with skip := some cPart, cause := 2, stream := j })
        | none =>
          match (stIns x chain).find? fun r => r.kind = 3 with
          | none => (s', e)
          | some r =>
            match rdSlotFault s' t (recSlot r) (recBind r) with
            | some c => (accFault t (recSlot r) c 1 (recBind r) 0 s', { e with skip := some cFormat })
            | none => (modSlot t (recSlot r) (fun a => { a with order := a.order ++ [.rd e.seq] }) s', e)

/-- A descriptor enters the queue of a tile that has room; the core keeps its number among its last 64 (R227). -/
def stEnter (t : Nat) (ws : List Word) (s : State) : State :=
  let seq := (tile s t).stSeq
  let r := stCheck t { ws := ws, seq := seq, cvt := reg s (aTileCvt t), step := (tile s t).step } s
  modTile t (fun y => { y with
    stq := y.stq ++ [r.2]
    stSeq := nextSeq seq
    core := { y.core with stCodes := ((seq, none) :: y.core.stCodes.filter fun c => c.1 ≠ seq).take 64 } }) r.1

/-! ### Completion (R204, R635) -/

/-- The place of a descriptor's read in slot order ends (R165). -/
def dropRead (t : Nat) (e : StEntry) (s : State) : State :=
  match (stIns (stBits e.ws) e.chain).find? fun r => r.kind = 3 with
  | some r => modSlot t (recSlot r) (fun a => { a with order := a.order.filter fun o => match o with | .rd q => decide (q ≠ e.seq) | _ => true }) s
  | none => s

/-- What a descriptor that has left the queue records with its code: slot order, status, interrupt. -/
def stRecord (t : Nat) (e : StEntry) (code : Byte) (s : State) : State :=
  let s := dropRead t e s
  let s := putF (aStrmStatus t) 16 8 code.toNat (putF (aStrmStatus t) 32 16 e.seq s)
  if stIrq (stBits e.ws) then stick (aTileCoreStatus t) 17 s else s
/-- The head descriptor leaves the queue with its code. -/
def stComplete (t : Nat) (e : StEntry) (code : Byte) (s : State) : State :=
  stRecord t e code (modTile t (fun y => { y with
    stq := y.stq.drop 1
    stRun := false
    core := { y.core with stCodes := y.core.stCodes.map fun c => if c.1 = e.seq then (c.1, some code) else c } }) s)

/-- The cause of STRM_FAULT_INFO of a refusal. -/
def causeOf (code : Byte) : Nat := if code = cQuota then 5 else if code = cTimeout then 6 else if code = cReset then 7 else 4
/-- The first fault after the fault bits were clear is kept (R209); a sequencer's descriptor adds 8 to `stream`, which is bit 7, SEQUENCER. -/
def stFaultInfo (t cause stream elem cols seq : Nat) (s : State) : State :=
  if getB s (aStrmStatus t) 8 ∨ getB s (aStrmStatus t) 9 ∨ getB s (aStrmStatus t) 11 then s
  else setReg (aStrmFaultInfo t) (BitVec.ofNat 64 (cause + 2 ^ 4 * stream + 2 ^ 8 * (elem / cols) + 2 ^ 24 * (elem % cols) + 2 ^ 48 * seq)) s

end Sys2Proof.Machine
end

