-- ==== Sys2Proof/Machine/SeqOps.lean ====
section
/-!
DEFINITION. Machine/SeqOps.lean: the descriptors that a solver sequencer issues into the queues of its problem's tiles (R126, R141, R202, R204, R283, R284). The
spec fixes neither their number nor their fields, which are opaque constants of Config (log entry 15).
-/
namespace Sys2Proof.Machine

/-- The matrix engine works for the problem (R254): block Jacobi, BTRI_LU, QP. -/
def usesMatrix (b : List Byte) : Bool := decide (dMethod b = 4 ∨ dMethod b = 5) || (isCsr b && decide (dPrecond b = 2))
/-- The descriptors that a solve or an adjoint issues, by position in the tile list: on each tile with rows one stream descriptor at least, which reads its part of the vector. -/
def seqPlan (pr : Problem) (adj : Bool) (v : List Nat) : List (Nat × Nat) :=
  (List.range pr.tiles.length).map fun j =>
    let k := Config.seqCount adj pr.desc (solveArrays pr adj v) j
    (if usesMatrix pr.desc ∧ dAccCount pr.desc ≠ 0 then k.1 else 0, if (rowsAt pr.desc pr.tiles.length j).2 = 0 then k.2 else max 1 k.2)
/-- One stream descriptor on each tile with rows (R248, R282). -/
def rowPlan (pr : Problem) : List (Nat × Nat) :=
  (List.range pr.tiles.length).map fun j => (0, if (rowsAt pr.desc pr.tiles.length j).2 = 0 then 0 else 1)

/-- The entry belongs to command `c` of sequencer `d`. -/
def ownSeq (d : Nat) (c : SolvCmd) (o : Option (Nat × Nat)) : Bool := decide (o = some (d, c.seq))
/-- A descriptor of the command is in a queue. -/
def seqQueued (s : State) (d : Nat) (c : SolvCmd) (pr : Problem) : Bool :=
  pr.tiles.any fun t => ((tile s t).mxq.any fun e => ownSeq d c e.solv) || ((tile s t).stq.any fun e => ownSeq d c e.solv)
/-- A descriptor of the command is in a queue or has yet to be issued. -/
def seqPending (s : State) (d : Nat) (c : SolvCmd) (pr : Problem) : Bool := seqQueued s d c pr || c.left.any fun l => decide (l ≠ (0, 0))

/-- A matrix descriptor of a command enters the queue of the tile at position `j` (R126, R141, R283): FP64, rounded to nearest, on a slot of the problem's range. -/
def seqEnterMx (d : Nat) (c : SolvCmd) (pr : Problem) (j k : Nat) (s : State) : State :=
  let b := pr.desc
  let t := pr.tiles.getD j 0
  let f := Config.seqDesc b j k
  let seq := (tile s t).mxSeq
  let w0 : Word := BitVec.ofNat 64 (2 ^ 18 * leAt b 3 1 + 2 ^ 21 * (2 + f % 2) + 2 ^ 24 * (dAccBase b + k % dAccCount b) + 2 ^ 30 * (f / 2 % 256) + 2 ^ 59)
  let w1 : Word := BitVec.ofNat 64 f
  let r := slotEnter t (mxBits w0 w1) 2 seq s
  modTile t (fun y => { y with
    mxq := y.mxq ++ [{ w0 := w0, w1 := w1, seq := seq, cvt := reg s (aTileCvt t), step := y.step, skip := r.2, solv := some (d, c.seq) }]
    mxSeq := nextSeq seq }) r.1
/-- A stream descriptor of a command enters the queue of the tile at position `j` (R202, R204); once the command has its result it writes the converted copy (R282). -/
def seqEnterSt (d : Nat) (c : SolvCmd) (pr : Problem) (j k : Nat) (s : State) : State :=
  let t := pr.tiles.getD j 0
  modTile t (fun y => { y with
    stq := y.stq ++ [{ ws := [0, 0, 0, BitVec.ofNat 64 (Config.seqDesc pr.desc j k)], seq := y.stSeq, cvt := reg s (aTileCvt t), step := y.step, solv := some (d, c.seq),
                       conv := c.fin.isSome }]
    stSeq := nextSeq y.stSeq }) s

/-- The sequencer presents descriptors of a command, as many as the queues have room for (R126, R202); with what is then left. -/
def seqIssue (d : Nat) (c : SolvCmd) (pr : Problem) (s : State) : State × List (Nat × Nat) :=
  (c.left.mapIdx fun j l => (j, l)).foldl (fun y jl =>
    let t := pr.tiles.getD jl.1 0
    let m := min jl.2.1 (8 - (tile y.1 t).mxq.length)
    let n := min jl.2.2 (16 - (tile y.1 t).stq.length)
    let s := (List.range m).foldl (fun s i => seqEnterMx d c pr jl.1 (jl.2.1 - i) s) y.1
    let s := (List.range n).foldl (fun s i => seqEnterSt d c pr jl.1 (jl.2.2 - i) s) s
    (s, y.2 ++ [(jl.2.1 - m, jl.2.2 - n)])) (s, [])

/-- A sequencer's matrix descriptor at the head of the queue completes with its code (R126, R129, R142). -/
def seqEndMx (t : Nat) (e : MxEntry) (code : Byte) (s : State) : State :=
  let s := modTile t (fun y => { y with mxq := y.mxq.drop 1, mxRun := none }) s
  mxRecord t e code (if e.skip.isSome then s else bump (aTileMxBusy t) (Config.seqBusy [e.w0, e.w1]) (aTileMxStatus t) 11 s)
/-- A sequencer's stream descriptor at the head of the queue completes with its code, its accesses made in `made` tclk (R202, R204, R210). -/
def seqEndSt (t made : Nat) (e : StEntry) (code : Byte) (s : State) : State :=
  stRecord t e code (bump (aStrmBusy t) made (aStrmStatus t) 12 (modTile t (fun y => { y with stq := y.stq.drop 1, stRun := false }) s))

/-- The slots that a command has bound on a tile are freed (R283). -/
def seqFree (d : Nat) (c : SolvCmd) (t : Nat) (s : State) : State :=
  let ks := (List.range 64).filter fun k => ownSeq d c (accSlot s t k).owner
  let s := placeFrees t (BitVec.ofNat 64 ((ks.map (2 ^ ·)).sum)) s
  ks.foldl (fun s k => freeEffect t k s) s

end Sys2Proof.Machine
end

