-- ==== Sys2Proof/Machine/SolvOps.lean ====
section
/-!
DEFINITION. Machine/SolvOps.lean: the solver sequencers (R241 to R289): slots, commands, records, deltas, solves, adjoints.
-/
namespace Sys2Proof.Machine

/-! ### Access -/

/-- Sequencer `d`. -/
def solvOf (s : State) (d : Nat) : SolvSt := tabGet {} d s.solv
/-- Change sequencer `d`. -/
def modSolv (d : Nat) (f : SolvSt → SolvSt) (s : State) : State := { s with solv := tabSet {} d (f (solvOf s d)) s.solv }
/-- A problem slot. -/
def slotOf (s : State) (d k : Nat) : ProbSlot := tabGet {} k (solvOf s d).slots
/-- Change a command of sequencer `d`. -/
def modCmd (d : Nat) (c : SolvCmd) (f : SolvCmd → SolvCmd) (s : State) : State :=
  modSolv d (fun x => { x with cmds := x.cmds.map fun y => if y.seq = c.seq ∧ y.tile = c.tile ∧ y.blk = c.blk then f y else y }) s
/-- Change a problem slot. -/
def modProb (d k : Nat) (f : ProbSlot → ProbSlot) (s : State) : State :=
  modSolv d (fun x => { x with slots := tabSet {} k (f (tabGet {} k x.slots)) x.slots }) s

/-- SOLV_STATUS, the bits computed on read. -/
def solvStatusView (s : State) (d : Nat) : Nat :=
  let x := solvOf s d
  x.cmds.countP (fun c => !c.running) + 2 ^ 8 * x.slots.countP (fun e => decide (e.2.st ≠ .free)) + 2 ^ 16 * x.cmds.countP (fun c => c.running)
/-- The code of a slot state. -/
def slotCode : SlotState → Nat
  | .free => 0 | .setup => 1 | .ready => 2 | .busy => 3 | .failed => 4
/-- SOLV_PROB_s as it reads (R289): a helper die shows the home problem. -/
def solvProbView (s : State) (d k : Nat) : Nat :=
  let x := slotOf s d k
  if x.st = .free then 2 ^ 16 * x.gen
  else
    let h := slotOf s x.home x.homeSlot
    slotCode h.st + 2 ^ 8 * x.part + 2 ^ 14 * x.home + 2 ^ 16 * x.gen + 2 ^ 24 * (h.prob.desc.getD 0 0).toNat + 2 ^ 28 * h.prob.outcome
      + 2 ^ 32 * h.prob.shiftRun + 2 ^ 48 * (h.prob.ver % 65536)

/-! ### Fields of a command, and the checks of a descriptor -/

def cmdOp (c : SolvCmd) : Nat := leAt c.blk 0 1
def cmdFlags (c : SolvCmd) : Nat := leAt c.blk 1 1
def cmdHandle (c : SolvCmd) : Nat := leAt c.blk 2 2
def cmdArg (c : SolvCmd) : Nat := leAt c.blk 8 8
def cmdDeadline (c : SolvCmd) : Nat := leAt c.blk 16 8
def cmdCpl (c : SolvCmd) : Nat := leAt c.blk 24 8
def cmdExpect (c : SolvCmd) : Nat := leAt c.blk 32 8

/-- A nonnegative FP64 code that is not a NaN. -/
def nonNeg64 (x : Nat) : Bool := match fmtFp64.decode x with | .nan _ => false | v => !v.neg? || v.isZero

/-- A format code of a descriptor is reserved (R78), or OUT_RND is the reserved selector that R94 handles as one: the issuing tile notes FMT_FAULT (log entry 15). -/
def descFmtBad (b : List Byte) : Bool := ([104, 105, 106].any fun o => (dFmt b o).reserved) || decide (leAt b 107 1 % 4 = 3)
/-- The descriptor checks of R253 and R254. -/
def descOk (b : List Byte) : Bool :=
  let m := dMethod b
  let okFmt (o : Nat) : Bool := decide (leAt b o 1 % 16 ≤ 11)
  decide (m ≤ 5) && (if m ≤ 2 then decide (dPrecond b ≤ 3) else decide (dPrecond b = 0)) && (if m = 2 then decide (1 ≤ dGmres b ∧ dGmres b ≤ 64) else decide (dGmres b = 0))
    && decide (leAt b 3 1 = 1 ∨ leAt b 3 1 = 2)
    && (if m = 4 ∨ (m ≤ 2 ∧ dPrecond b = 2) then decide (1 ≤ dBsz b ∧ dBsz b ≤ 64) else decide (dBsz b = 0)) && decide (dRefine b ≤ 3)
    && (if 4 ≤ m then decide (dNnz b = 0) else true)
    && decide (1 ≤ dTslots b ∧ dTslots b ≤ 65535 ∧ dN b % dTslots b = 0) && decide (m = 4 → dN b % dBsz b = 0) && decide (1 ≤ leAt b 28 4)
    && nonNeg64 (leAt b 32 8) && nonNeg64 (leAt b 40 8) && nonNeg64 (leAt b 48 8) && ltV (fmtFp64.decode (leAt b 48 8)) (.fin false 1 0)
    && decide (dSbase b % 64 = 0) && decide (dSrc b % 64 = 0)
    && okFmt 104 && okFmt 105 && okFmt 106 && decide (leAt b 104 1 < 32) && decide (leAt b 105 1 < 32) && decide (fieldOf (leAt b 106 1) 5 2 = 0) && decide (leAt b 107 1 < 3)
    && decide (leAt b 109 1 ≤ 16) && decide (leAt b 108 1 + leAt b 109 1 ≤ 64) && decide (m = 4 ∨ m = 5 ∨ (m ≤ 2 ∧ dPrecond b = 2) → leAt b 109 1 ≠ 0)
    && decide (leAt b 111 1 = 0) && decide (leAt b 115 1 = 0) && decide (leAt b 120 8 = 0)

/-- The method limits of R264 and R274; QMASK of a QP names the home die only. -/
def sizeOk (b : List Byte) (home : Nat) : Bool :=
  if dMethod b = 3 then decide (dKl b ≤ 1023 ∧ dKu b ≤ 1023)
  else if isQp b then decide (dN b ≤ 256 ∧ dQpM b ≤ 256 ∧ dQpP b ≤ 512) && decide (dQmask b % 16 ^ 4 / 16 ^ home % 16 * 16 ^ home = dQmask b)
  else true

/-! ### Tiles and rows (R244) -/

/-- The tile list of a problem. -/
def probTiles (s : State) (p : Nat) (qmask : Nat) : List Nat := (part s p).prec.tiles.filter fun t => bitOf qmask (quadOf t)
/-- The dies of QMASK. -/
def qmaskDies (qmask : Nat) : List Nat := (List.range 4).filter fun d => decide (fieldOf qmask (4 * d) 4 ≠ 0)
/-- Bytes of `r` elements in a format with their scales (R258). -/
def vecLen (f : Fmt) (r : Nat) : Nat := if f.blockScaled then ceilDiv (f.bytes r) 64 * 64 + ceilDiv r 32 else f.bytes r

/-- The elements of one tile's part of a vector, and whether poison is met (R258). -/
def readPart (s : State) (t off : Nat) (f : Fmt) (r : Nat) : List Val × Bool :=
  let a := pkgAddr t off
  let codes := f.unpack r (memBytes s a (f.bytes r))
  if f.blockScaled then
    let sa := a + ceilDiv (f.bytes r) 64 * 64
    (codes.mapIdx fun i c => f.decodeScaled (memByte s (sa + i / 32)).toNat c, anyBad s a (f.bytes r) || anyBad s sa (ceilDiv r 32))
  else (codes.map f.decodeElem, anyBad s a (f.bytes r))
/-- A vector by tiles: values of each, the events of its reads, and the first tile that met poison. -/
def readVec (pr : Problem) (off : Nat) (f : Fmt) (s : State) : State × List (List Val) × Option Nat :=
  let ps := rowPieces pr
  let vs := ps.map fun x => readPart s x.1 off f x.2.2
  let s' := ps.foldl (fun s x => touchRange 1 (pkgAddr x.1 off) (vecLen f x.2.2) s) s
  (s', vs.map (·.1), (List.zip ps vs).findSome? fun x => if x.2.2 then some x.1.1 else none)
/-- Write a vector of FP64 codes to the problem's tiles. -/
def writeVec (pr : Problem) (off : Nat) (xs : List Nat) (s : State) : State :=
  (rowPieces pr).foldl (fun s x => spWrite 1 (pkgAddr x.1 off) (((xs.drop x.2.1).take x.2.2).flatMap (leBytes 8)) s) s
/-- FP64 codes of exact values. -/
def codes64 (vs : List Val) : List Nat := vs.map fun v => (fmtFp64.encode false .rne v).code

/-- Leave unspecified bytes in the problem's storage (R256: its contents are the sequencer's own). -/
def scrambleStorage (pr : Problem) (s : State) : State :=
  pr.tiles.foldl (fun s t => spWrite 1 (pkgAddr t (dSbase pr.desc)) ((List.range (dSlen pr.desc)).map fun i => Config.freeByte s.freeCount i) (tickFree s)) s

/-! ### Records -/

/-- The problem that a command's handle names, where the handle is valid (R243). -/
def cmdProb (s : State) (d : Nat) (c : SolvCmd) : Option Problem :=
  let h := cmdHandle c
  let x := slotOf s d (h % 64)
  if cmdOp c ≠ 1 ∧ h / 64 % 4 = d ∧ x.st ≠ .free ∧ x.part = c.part ∧ x.gen = h / 256 ∧ x.home = d ∧ x.homeSlot = h % 64 then some x.prob else none

/-- Write the completion record of a command: bytes 8 to 63, then word 0 (R249); SHIFT_RUN and VER are the problem's. A record outside working memory is not written. -/
def solvRecord (c : SolvCmd) (pr : Problem) (r : SolvRec) (s : State) : State :=
  let a := pkgAddr c.tile (cmdCpl c)
  let w0 := r.code.toNat + 2 ^ 8 * r.outcome + 2 ^ 16 * r.detail + 2 ^ 24 * r.flags + 2 ^ 32 * c.seq + 2 ^ 63
  let rest := leBytes 8 (r.iters + 2 ^ 32 * pr.shiftRun) ++ leBytes 8 r.w2 ++ leBytes 8 r.norm ++ leBytes 8 r.commit ++ leBytes 8 pr.ver
    ++ leBytes 8 (if cmdOp c = 1 then r.handle else cmdHandle c) ++ leBytes 8 (r.w7.getD c.start)
  if workBytes s c.part < cmdCpl c + 64 ∨ cmdCpl c % 64 ≠ 0 then s else spWrite 1 a (leBytes 8 w0) (spWrite 1 (a + 8) rest s)

/-- A sticky event of SOLV_STATUS bit 32, 33 or 34 with SOLV_FAULT_INFO (R288). -/
def solvEvent (d : Nat) (c : SolvCmd) (detail t bit : Nat) (s : State) : State :=
  let s := if getF s (aSolvStatus d) 32 3 = 0 then
    setReg (aSolvFaultInfo d) (BitVec.ofNat 64 (c.part + 2 ^ 8 * cmdOp c + 2 ^ 16 * detail + 2 ^ 24 * cmdHandle c + 2 ^ 40 * t)) s else s
  stick (aSolvStatus d) bit s

/-- The slots that the command has bound are free (R283); the record's own events and counters, then the record, and the command leaves the queue (R249, R288, R289). -/
def solvFinish (d : Nat) (c : SolvCmd) (r : SolvRec) (s : State) : State :=
  let s := if cmdOp c = 3 ∨ cmdOp c = 4 then (slotOf s d c.slot).prob.tiles.foldl (fun s t => seqFree d c t s) s else s
  let s := modSolv d (fun x => { x with cmds := x.cmds.filter fun y => y.seq ≠ c.seq || y.tile ≠ c.tile || y.blk ≠ c.blk }) s
  let s := if r.code = cFormat then solvEvent d c r.detail 0 32 s else s
  let s := if (cmdOp c = 3 ∨ cmdOp c = 4) ∧ r.code = cDone then
      let s := bump (aSolvSolves d) 1 (aSolvStatus d) 35 s
      if bitOf r.flags 0 then bump (aSolvShifts d) 1 (aSolvStatus d) 35 s else s
    else s
  solvRecord c ((cmdProb s d c).getD {}) r s

/-! ### Slots and handles (R242, R243) -/

/-- The handle of a home slot. -/
def handleOf (s : State) (d k : Nat) : Nat := k + 64 * d + 256 * (slotOf s d k).gen
/-- The lowest free slot of a die. -/
def freeSlot (s : State) (d : Nat) : Option Nat := (List.range 64).find? fun k => decide ((slotOf s d k).st = .free)
/-- Slots of partition `p` on die `d`. -/
def slotsHeld (s : State) (d p : Nat) : Nat := (solvOf s d).slots.countP fun e => decide (e.2.st ≠ .free ∧ e.2.part = p)
/-- A slot may be taken by `p` on die `d` (R242). -/
def slotAvail (s : State) (p d : Nat) : Bool := (freeSlot s d).isSome && decide (slotsHeld s d p < (part s p).prec.solverSlots.getD d 0)
/-- Free a slot (R243). -/
def dropSlot (d k : Nat) (s : State) : State := modProb d k (fun x => { st := .free, gen := (x.gen + 1) % 256 }) s
/-- Free every slot of a problem. -/
def releaseProb (pr : Problem) (s : State) : State := pr.dies.foldl (fun s x => dropSlot x.1 x.2 s) s

/-! ### SETUP (R248, R253 to R256) -/

/-- A run of little-endian words of `w` bytes. -/
def wordsLe (w n : Nat) (bs : List Byte) : List Nat := (List.range n).map fun i => leAt bs (w * i) w
/-- The next multiple of 64. -/
def up64 (n : Nat) : Nat := ceilDiv n 64 * 64

/-- The lengths of the source arrays in bytes (R255). -/
def sourceLens (b : List Byte) : List Nat :=
  let n := dN b
  if isCsr b then [(n + 1) * 8, dNnz b * 4, dNnz b * 8]
  else if dMethod b = 3 then [n * (dKl b + dKu b + 1) * 8]
  else if dMethod b = 4 then [n / dBsz b * 3 * (dBsz b * dBsz b) * 8]
  else [n * n * 8, dQpM b * n * 8, dQpM b * 8, dQpP b * n * 8, dQpP b * 8]
/-- The offsets of the source arrays from SRC, and their end. -/
def sourceOffs : List Nat → Nat → List (Nat × Nat)
  | [], _ => []
  | n :: r, o => (o, n) :: sourceOffs r (up64 (o + n))

/-- A CSR structure is sound (R255). -/
def csrOk (n nnz : Nat) (rp ci : List Nat) : Bool :=
  decide (rp.getD 0 1 = 0 ∧ rp.getD n 0 = nnz) && (List.range n).all (fun i => decide (rp.getD i 0 ≤ rp.getD (i + 1) 0))
    && (List.range n).all fun i =>
      let row := (ci.drop (rp.getD i 0)).take (rp.getD (i + 1) 0 - rp.getD i 0)
      row.all (fun j => decide (j < n)) && (List.zip row (row.drop 1)).all fun x => decide (x.1 < x.2)

/-- The storage of the tile at position `j` of `n` (R256). -/
def storageOf (b : List Byte) (n j : Nat) (rp ci : List Nat) : Nat :=
  let rr := rowsAt b n j
  let r := rr.2
  let z := rp.getD (rr.1 + r) 0 - rp.getD rr.1 0
  let cols := ((ci.drop (rp.getD rr.1 0)).take z).filter fun k => k < rr.1 || rr.1 + r ≤ k
  let h := cols.eraseDups.length
  let pr := match dPrecond b with | 0 => 0 | 1 => 8 * r | 2 => 8 * dBsz b * r | _ => 8 * z
  let csr := 12 * z + 4 * (r + 1) + 12 * h + pr
  4096 + (match dMethod b with
    | 0 => csr + 64 * r
    | 1 => csr + 88 * r
    | 2 => csr + 8 * (dGmres b + 7) * r
    | 3 => r * (8 * (dKl b + dKu b + 1) + 8 * (2 * dKl b + dKu b + 1) + 44)
    | 4 => r / dBsz b * (48 * (dBsz b * dBsz b) + 4 * dBsz b) + 40 * r
    | _ => if j = 0 then 8 * (dN b * dN b + (dQpM b + dQpP b) * (dN b + 1)) + 8 * ((dN b + dQpM b + dQpP b) * (dN b + dQpM b + dQpP b))
        + 48 * (dN b + dQpM b + dQpP b) else 0)

/-- The storage that a problem's tiles need at most (R256). -/
def probNeed (pr : Problem) : Nat := ((List.range pr.tiles.length).map fun j => storageOf pr.desc pr.tiles.length j pr.rowPtr pr.colIdx).foldl max 0
/-- The record of a command that ends with a code and no results (R249): of a SETUP the handle and the storage, where it runs; what a command that never began to execute
has not is a free value. -/
def abortRec (s : State) (d : Nat) (c : SolvCmd) (code : Byte) (detail : Nat) : SolvRec :=
  let w := (Config.free s.freeCount).toNat
  if c.running ∧ c.slot < 64 then { code := code, detail := detail, handle := handleOf s d c.slot, w7 := if cmdOp c = 1 then some (probNeed (slotOf s d c.slot).prob) else none }
  else { code := code, detail := detail, handle := w % 65536, w7 := some (w / 65536) }
/-- A command ends with a code and no results. -/
def solvAbort (d : Nat) (c : SolvCmd) (code : Byte) (s : State) : State := solvFinish d c (abortRec s d c code 0) (tickFree s)

/-- The vectors of a problem lie in working memory (R250, R258). -/
def vectorsOk (w : Nat) (b : List Byte) (n : Nat) : Bool :=
  (List.range n).all fun j =>
    let r := (rowsAt b n j).2
    let fits (off len : Nat) : Bool := decide (off + len ≤ w)
    fits (dRhsOff b) (vecLen (dFmt b 104) r) && fits (dXOff b) (8 * r) && fits (dGOff b) (vecLen (dFmt b 105) r)
      && fits (dLamOff b) (8 * (if isQp b ∧ j = 0 then r + dQpM b + dQpP b else r)) && (!dOutCopy b || fits (dOutOff b) (vecLen (dFmt b 106) r))

/-- The running command of a sequence number. -/
def runningCmd (s : State) (d seq : Nat) : Option SolvCmd := (solvOf s d).cmds.find? fun c => c.running ∧ c.seq = seq

/-- A SETUP ends before it has taken a slot; the handle, and the storage where it is not known, are values that the spec leaves open (R249). -/
def setupFail (d : Nat) (c : SolvCmd) (code : Byte) (det : Nat) (need : Option Nat) (s : State) : State :=
  let w := (Config.free s.freeCount).toNat
  solvFinish d c { code := code, detail := det, handle := w % 65536, w7 := some (need.getD (w / 65536)) } (tickFree s)

/-- The sources of a problem read from the partition's board store, one after the other (R255). -/
def setupReads (p : Nat) (b : List Byte) (s : State) : State × List BstRes :=
  (sourceOffs (sourceLens b) 0).foldl (fun (x : State × List BstRes) o =>
    let y := bstRead p 0 ((part s p).prec.bstBase + dSrc b + o.1) o.2 x.1
    (y.1, x.2 ++ [y.2])) (s, [])

/-- The domain of a helper die's sequencer, which a slot keeps on (R287): `none` where it cannot serve. -/
def wakeHelper (e : Nat) (s : State) : Option State :=
  match domSt s (20 + e) with
  | .on => some s
  | .ramping => some s
  | .draining => some (powerUp (20 + e) s)
  | .failed => none
  | _ => if wakeEnabled s (20 + e) then some (powerUp (20 + e) s) else none
/-- The sequencers of a problem's dies are woken (R287). -/
def wakeHelpers : List Nat → State → Option State
  | [], s => some s
  | e :: r, s => (wakeHelper e s).bind (wakeHelpers r)

/-- The slots of a problem's dies are taken, and the problem is distributed until the command ends (R242, R254). -/
def setupTake (d : Nat) (c : SolvCmd) (b : List Byte) (arr : Nat → List Byte) (rp ci : List Nat) (s : State) : State :=
  let dies := qmaskDies (dQmask b)
  let k := dKl b + dKu b + 1
  let raw := wordsLe 8 ((sourceLens b).getD (if isCsr b then 2 else 0) 0 / 8) (arr (if isCsr b then 2 else 0))
  let vals := if dMethod b = 3 then raw.mapIdx fun i v => if bandIn b (i / k) (i % k) then v else 0 else raw
  let qp (i : Nat) : List Nat := if isQp b then wordsLe 8 ((sourceLens b).getD i 0 / 8) (arr i) else []
  let taken := dies.map fun e => (e, (freeSlot s e).getD 0)
  let home := ((taken.find? fun x => x.1 = d).getD (d, 0)).2
  let pr : Problem := {
    desc := b, tiles := probTiles s c.part (dQmask b), dies := taken, rowPtr := rp, colIdx := ci, vals := vals, qpA := qp 1, qpb := qp 2, qpG := qp 3, qph := qp 4,
    xPrev := List.replicate (dN b) 0, lamPrev := List.replicate (dN b + (if isQp b then dQpM b + dQpP b else 0)) 0 }
  let s := taken.foldl (fun s x => modProb x.1 x.2 (fun y => { y with st := .setup, gen := y.gen, part := c.part, home := d, homeSlot := home }) s) s
  let s := modProb d home (fun y => { y with prob := pr }) s
  modCmd d c (fun y => { y with running := true, start := if y.running then y.start else s.tick, slot := home }) s

/-- A SETUP whose board-store reads answer DEFER executes and waits (R325, R341): slot 64 says that it has taken none. -/
def setupWait (d : Nat) (c : SolvCmd) (s : State) : State := modCmd d c (fun y => { y with running := true, start := if y.running then y.start else s.tick, slot := 64 }) s
/-- The sources of a problem that passed the checks are read and checked (R253 to R256). -/
def setupSources (d : Nat) (c : SolvCmd) (b : List Byte) (s : State) : State :=
  let n := (probTiles s c.part (dQmask b)).length
  let reads := setupReads c.part b s
  match reads.2.find? fun r => r.code ≠ cDone with
  | some r => if r.code = cDefer then setupWait d c reads.1 else setupFail d c r.code 0 none reads.1
  | none =>
    let arr (i : Nat) : List Byte := (reads.2.getD i {}).bytes
    let rp := if isCsr b then wordsLe 8 (dN b + 1) (arr 0) else []
    let ci := if isCsr b then wordsLe 4 (dNnz b) (arr 1) else []
    let need := ((List.range n).map fun j => storageOf b n j rp ci).foldl max 0
    if isCsr b ∧ !csrOk (dN b) (dNnz b) rp ci then setupFail d c cFormat 0x03 none reads.1
    else if dSlen b < need then setupFail d c cQuota 0x09 (some need) reads.1
    else match wakeHelpers (qmaskDies (dQmask b)) reads.1 with
      | some s => setupTake d c b arr rp ci s
      | none => setupFail d c cOff 0 (some need) reads.1

/-- SETUP begins (R242, R250, R253 to R256): the checks; then the slots are taken and the problem is distributed until the command ends. -/
def startSetup (d : Nat) (c : SolvCmd) (s : State) : State :=
  let p := c.part
  let w := workBytes s p
  let a := cmdArg c
  let at_ := pkgAddr c.tile a
  let b := memBytes s at_ 128
  let s' := touchRange 1 at_ 128 s
  let tiles := probTiles s p (dQmask b)
  let dies := qmaskDies (dQmask b)
  let total := ((sourceOffs (sourceLens b) 0).map fun x => x.1 + x.2).foldl max 0
  if w < a + 128 then setupFail d c cPart 0x0C none s
  else if a % 64 ≠ 0 then setupFail d c cFormat 0x02 none s
  else if anyBad s at_ 128 then setupFail d c cPoison 0 none s'
  else if !descOk b then setupFail d c cFormat 0x02 none (if descFmtBad b then stick (aTileCvtStatus c.tile) 3 s' else s')
  else if !dies.contains d ∨ (List.range 16).any (fun i => bitOf (dQmask b) i && !tiles.any fun t => quadOf t = i) then setupFail d c cFormat 0x0B none s'
  else if !sizeOk b d then setupFail d c cFormat 0x0D none s'
  else if !dies.all (slotAvail s p) then setupFail d c cQuota 0x0A none s'
  else if w < dSbase b + dSlen b ∨ !vectorsOk w b tiles.length ∨ (part s p).prec.bstSize < dSrc b + total then setupFail d c cPart 0x0C none s'
  else setupSources d c b s'

/-! ### Results -/

/-- The shifted previous solution (R271) of `n` elements in `t` slots; what follows them is kept. -/
def shifted (n t : Nat) (x : List Nat) : List Nat :=
  let l := n / t
  (x.drop l).take (n - l) ++ (x.drop (n - l)).take l ++ x.drop n

/-- A tick reaches a deadline (R270): the difference read as a signed number is not negative. -/
def deadlineReached (tick dl : Nat) : Bool := decide (dl ≠ 0) && decide ((BitVec.ofNat 64 (tick + 2 ^ 64 - dl % 2 ^ 64)).toNat < 2 ^ 63)
/-- DL_FORCE makes a command with a deadline late (R487). -/
def deadlineForced (s : State) (c : SolvCmd) : Bool := getB s (aImgAudit c.part) 3 && decide (cmdDeadline c ≠ 0)

/-- The byte ranges of a tile's part of a vector: elements, and scales where the format has them (R258). -/
def vecSpans (off : Nat) (f : Fmt) (r : Nat) : List (Nat × Nat) := (off, f.bytes r) :: if f.blockScaled then [(off + up64 (f.bytes r), ceilDiv r 32)] else []
/-- The first row and the rows of a tile. -/
def seqRows (pr : Problem) (t : Nat) : Nat × Nat := (((rowPieces pr).find? fun y => y.1 = t).map (·.2)).getD (0, 0)
/-- The converted copy of a result on one tile (R282), at 32 elements in a tclk (R205): the state, and the code, POISON where a write would merge into an uncorrectable word (R201). -/
def convTile (c : SolvCmd) (pr : Problem) (xs : List Nat) (t : Nat) (e : StEntry) (s : State) : State × Byte :=
  let y := seqRows pr t
  let f := dFmt pr.desc 106
  let stoch := isStoch (leAt pr.desc 107 1 % 4) e.cvt
  let key := seedKey s c.part (leAt pr.desc 110 1)
  let vals := ((xs.drop y.1).take y.2).map fmtFp64.decode
  let z := f.encodeRow (cvtSatmode e.cvt) (fun i => roundOf stoch key c.step.toNat (leAt pr.desc 112 3) (y.1 + i)) vals
  let a := pkgAddr t (dOutOff pr.desc)
  let bad := (vecSpans (dOutOff pr.desc) f y.2).any fun p => writePoisons s (pkgAddr t p.1) p.2
  let s := if stoch then noteSeed c.part (leAt pr.desc 110 1) s else s
  let s := recordCvt t z.2.2 (spWrite 0 a (f.pack z.1) s)
  let s := if f.blockScaled then spWrite 0 (a + up64 (f.bytes y.2)) (z.2.1.map (BitVec.ofNat 8)) s else s
  (if bad then stick (aStrmStatus t) 10 s else s, if bad then cPoison else cDone)

/-- A command ends because of a tile (R284): SOLV_STATUS.TILE_ERR, the log, the record, the problem's state. -/
def endTileNow (d : Nat) (c : SolvCmd) (t : Nat) (code : Byte) (detail : Nat) (failed : Bool) (s : State) : State :=
  let s := solvEvent d c detail t 34 s
  let s := logEvent { event := 0x11, sev := 1, tag := c.part, code := code.toNat, station := 1088 + d, unit := t, detail := detail, addr := cmdHandle c } s
  let s := modProb d c.slot (fun x => { x with st := if failed then .failed else .ready }) s
  solvFinish d c (abortRec s d c code detail) s
/-- The ending of a command that a tile brings about: one that has come about before stays. -/
def tileFin (c : SolvCmd) (t : Nat) (code : Byte) (detail : Nat) (failed : Bool) : SolvFin :=
  match c.fin with | some (.tile t' c' d' f') => .tile t' c' d' f' | _ => .tile t code detail failed
/-- A command is to end because of a tile: it issues no more, and what it has queued completes first, in queue order (R126, R202, R284). -/
def endByTile (d : Nat) (c : SolvCmd) (t : Nat) (code : Byte) (detail : Nat) (failed : Bool) (s : State) : State :=
  match tileFin c t code detail failed with
  | .tile t code detail failed =>
    if seqQueued s d c (slotOf s d c.slot).prob then modCmd d c (fun y => { y with left := [], fin := some (.tile t code detail failed) }) s
    else endTileNow d c t code detail failed s
  | .commit .. => s
/-- A vector that the program supplied meets poison (R201, R284). -/
def endByPoison (d : Nat) (c : SolvCmd) (t : Nat) (s : State) : State := endByTile d c t cPoison 0 false (stick (aStrmStatus t) 10 s)

/-- The flags of a record (R249). -/
def recFlags (sh cold fwd ref : Bool) : Nat := b2n sh + 2 * b2n cold + 4 * b2n fwd + 8 * b2n ref

/-- A solve or an adjoint that is late (R270): its record holds values that the spec does not give, functions of the command's data but for ITERATIONS, which timing decides
within the full count (R268, R488); a QP keeps the iterate that it had, as a replay does no arithmetic (R487, R488). -/
def lateEnd (pr : Problem) (adj ran : Bool) (v : List Nat) (full : SolveEnd) (w : Nat) : SolveEnd :=
  { outcome := 1, iters := if ran then w % (full.iters + 1) else 0, resid := Config.solveField 0 pr.desc (solveArrays pr adj v) % 2 ^ 64, iter := pr.iter }
/-- What a SOLVE comes to: `late` with outcome DEADLINE, `ran` false with no arithmetic at all (R263 to R270). -/
def solveOutcome (pr : Problem) (rhs : List Nat) (late ran : Bool) (w : Nat) : SolveEnd :=
  if late ∨ !ran then lateEnd pr false ran rhs (forwardSolve pr rhs) w else forwardSolve pr rhs
/-- A QP's adjoint (R280): its system is solved at once, and the spec gives it no count and no residual. -/
def qpAdjEnd (pr : Problem) (g : List Nat) : SolveEnd :=
  { iters := Config.solveField 1 pr.desc (solveArrays pr true g) % 2 ^ 32, resid := Config.solveField 2 pr.desc (solveArrays pr true g) % 2 ^ 64 }
/-- What an ADJOINT comes to (R278, R280). -/
def adjointOutcome (pr : Problem) (g : List Nat) (late ran : Bool) (w : Nat) : SolveEnd :=
  let full := if isQp pr.desc then qpAdjEnd pr g else adjointSolve pr g
  if late ∨ !ran then lateEnd pr true ran g full w else full
/-- The residual of a record (R249): a SINGULAR solve has none, and the field is a value that the spec does not give. -/
def residOf (pr : Problem) (adj : Bool) (v : List Nat) (e : SolveEnd) : Nat :=
  if e.outcome = 4 then Config.solveField 3 pr.desc (solveArrays pr adj v) % 2 ^ 64 else e.resid

/-- A SOLVE commits (R269 to R272): the problem as it then is, the result, and the record. -/
def commitNow (d : Nat) (c : SolvCmd) (pr : Problem) (x : List Nat) (ran : Bool) (r : SolvRec) (s : State) : State :=
  let s := writeVec pr (dXOff pr.desc) x (modProb d c.slot (fun y => { y with prob := pr, st := .ready }) s)
  solvFinish d c r (if ran then scrambleStorage pr s else s)
/-- A command presents what the queues have room for of its descriptors (R126, R202). -/
def seqPresent (d : Nat) (c : SolvCmd) (s : State) : State :=
  let r := seqIssue d c (slotOf s d c.slot).prob s
  modSolv d (fun y => { y with cmds := y.cmds.map fun z => if z.seq = c.seq then { c with left := r.2 } else z }) r.1
/-- The result of a SOLVE stands, or its shifted substitute: with a converted copy it commits once the stream descriptors that write the copy are done (R282). -/
def solveCommit (d : Nat) (c : SolvCmd) (pr : Problem) (x : List Nat) (ran : Bool) (r : SolvRec) (s : State) : State :=
  if dOutCopy pr.desc then seqPresent d { c with fin := some (.commit pr x ran r), left := rowPlan pr } s else commitNow d c pr x ran r s

/-- A SOLVE ends with an outcome (R267, R269 to R272, R282): `late` ends it with outcome DEADLINE, `ran` says that it did its arithmetic. The norm of b is part of the record
either way (R249, R488). -/
def solveEnd (d : Nat) (c : SolvCmd) (late ran : Bool) (s : State) : State :=
  let pr := (slotOf s d c.slot).prob
  let b := pr.desc
  let y := readVec pr (dRhsOff b) (dFmt b 104) s
  match if ran then (y.1, y.2.2) else (s, none) with
  | (s, some t) => endByPoison d c t s
  | (s, none) =>
    let rhs := codes64 y.2.1.flatten
    let e := solveOutcome pr rhs late ran (Config.free s.freeCount).toNat
    let s := tickFree s
    let x := if e.outcome = 0 then e.x else shifted (dN b) (dTslots b) pr.xPrev
    let pr' := { pr with
      xPrev := x, converged := decide (e.outcome = 0), solvedVer := some pr.ver, coldX := false, shiftRun := if e.outcome = 0 then 0 else min 65535 (pr.shiftRun + 1),
      outcome := e.outcome, stale := pr.stale && !ran, iter := if isQp b then e.iter else [] }
    solveCommit d c pr' x ran { outcome := e.outcome, detail := e.detail, flags := recFlags (decide (e.outcome ≠ 0)) (pr.coldX && !isDirect b) false (pr.stale && ran),
                                iters := e.iters, w2 := residOf pr false rhs e, norm := c64 (normV pr rhs), commit := s.tick % 2 ^ 64 } s

/-- The value gradients of R279 of one tile: −λ_i x_j for each stored entry of its rows, in CSR, band or block order. -/
def gradsOf (pr : Problem) (lam x : List Nat) (r0 r : Nat) : List Nat :=
  let b := pr.desc
  let g (i j : Nat) : Nat := (fmtFp64.encode false .rne (mulV (fmtFp64.decode (lam.getD i 0)) (fmtFp64.decode (x.getD j 0))).negate).code
  if isCsr b then (List.range r).flatMap fun k =>
    let i := r0 + k
    ((pr.colIdx.drop (pr.rowPtr.getD i 0)).take (pr.rowPtr.getD (i + 1) 0 - pr.rowPtr.getD i 0)).map fun j => g i j
  else if dMethod b = 3 then (List.range r).flatMap fun k =>
    let i := r0 + k
    ((List.range (dKl b + dKu b + 1)).filter fun q => bandIn b i q).map fun q => g i (i + q - dKu b)
  else
    let z := dBsz b
    (List.range (r / z)).flatMap fun k =>
      let br := r0 / z + k
      ((List.range 3).filter fun q => decide (1 ≤ br + q) && decide (br + q - 1 < dN b / z)).flatMap fun q =>
        (List.range z).flatMap fun ii => (List.range z).map fun jj => g (br * z + ii) ((br + q - 1) * z + jj)

/-- Write the value gradients at VGRAD_OFF (R279, R280). -/
def writeGrads (pr : Problem) (lam x qp : List Nat) (s : State) : State :=
  if isQp pr.desc then spWrite 1 (pkgAddr (pr.tiles.getD 0 0) (dVgradOff pr.desc)) (qp.flatMap (leBytes 8)) s
  else (rowPieces pr).foldl (fun s y => spWrite 1 (pkgAddr y.1 (dVgradOff pr.desc)) ((gradsOf pr lam x y.2.1 y.2.2).flatMap (leBytes 8)) s) s

/-- The elements that a QP's value gradients have: P, G and A (R280). -/
def qpGradLen (b : List Byte) : Nat := dN b * dN b + dQpP b * dN b + dQpM b * dN b

/-- The value gradients lie in working memory (R250). -/
def vgradOk (w : Nat) (pr : Problem) : Bool :=
  if isQp pr.desc then decide (dVgradOff pr.desc + 8 * qpGradLen pr.desc ≤ w)
  else (rowPieces pr).all fun y => decide (dVgradOff pr.desc + 8 * (gradsOf pr [] [] y.2.1 y.2.2).length ≤ w)
/-- The result of an ADJOINT at LAM_OFF (R258, R279, R280). -/
def writeLam (pr : Problem) (lam : List Nat) (s : State) : State :=
  if isQp pr.desc then spWrite 1 (pkgAddr (pr.tiles.getD 0 0) (dLamOff pr.desc)) (lam.flatMap (leBytes 8)) s else writeVec pr (dLamOff pr.desc) lam s
/-- Zero value gradients (R281). -/
def zeroGrads (pr : Problem) (s : State) : State :=
  if isQp pr.desc then writeGrads pr [] [] (List.replicate (qpGradLen pr.desc) 0) s
  else (rowPieces pr).foldl (fun s y => spWrite 1 (pkgAddr y.1 (dVgradOff pr.desc)) ((gradsOf pr [] [] y.2.1 y.2.2).flatMap fun _ => leBytes 8 0) s) s
/-- The result of an ADJOINT that stands: the vectors at LAM_OFF, and a QP's value gradients (R278, R280). -/
def adjointResult (pr : Problem) (g : List Nat) (e : SolveEnd) : List Nat × List Nat :=
  let b := pr.desc
  if isQp b then
    let y := qpAdjoint pr g
    let at_ (o k : Nat) : List Nat := (List.range k).map fun i => y.getD (o + i) 0 % 2 ^ 64
    qpGradients pr (at_ 0 (dN b)) (at_ (dN b) (dQpP b)) (at_ (dN b + dQpP b) (dQpM b))
  else (e.x, [])
/-- An ADJOINT whose x_prev was not CONVERGED (R281). -/
def adjointSkip (d : Nat) (c : SolvCmd) (pr : Problem) (norm w : Nat) (s : State) : State :=
  let s := modProb d c.slot (fun y => { y with st := .ready, prob := { pr with outcome := 6 } }) s
  let s := writeLam pr (List.replicate pr.lamPrev.length 0) s
  let s := if bitOf (cmdFlags c) 0 then zeroGrads pr s else s
  solvFinish d c { outcome := 6, flags := recFlags false false true false, w2 := w, norm := norm, commit := s.tick % 2 ^ 64 } s
/-- An ADJOINT of a converged solve ends with what it came to (R271, R272, R278 to R280). -/
def adjointCommit (d : Nat) (c : SolvCmd) (pr : Problem) (g : List Nat) (e : SolveEnd) (ran : Bool) (norm w : Nat) (s : State) : State :=
  let b := pr.desc
  let y := adjointResult pr g e
  let lam := if e.outcome = 0 then y.1 else shifted (dN b) (dTslots b) pr.lamPrev
  let s := modProb d c.slot (fun y => { y with st := .ready, prob := { pr with
    lamPrev := lam, coldLam := false, shiftRun := if e.outcome = 0 then 0 else min 65535 (pr.shiftRun + 1), outcome := e.outcome } }) s
  let s := writeLam pr lam s
  let s := if bitOf (cmdFlags c) 0 ∧ (e.outcome = 0 ∨ !isQp b) then writeGrads pr lam pr.xPrev y.2 s else s
  let s := if ran then scrambleStorage pr s else s
  solvFinish d c { outcome := e.outcome, detail := e.detail, flags := recFlags (decide (e.outcome ≠ 0)) (pr.coldLam && !isDirect b) false false,
                   iters := e.iters, w2 := w, norm := norm, commit := s.tick % 2 ^ 64 } s

/-- The refusal of an ADJOINT: the version, then the places of the gradients (R250, R277). -/
def adjointRefuse (s : State) (d : Nat) (c : SolvCmd) : Option (Byte × Nat) :=
  let pr := (slotOf s d c.slot).prob
  if pr.solvedVer ≠ some pr.ver ∨ cmdExpect c ≠ pr.ver then some (cFormat, 0x05)
  else if bitOf (cmdFlags c) 0 ∧ !vgradOk (workBytes s c.part) pr then some (cPart, 0x0C) else none
/-- An ADJOINT ends (R277 to R281): its refusal, then g; `ran` false does no arithmetic (R270). -/
def adjointEnd (d : Nat) (c : SolvCmd) (late ran : Bool) (s : State) : State :=
  let pr := (slotOf s d c.slot).prob
  let b := pr.desc
  match adjointRefuse s d c with
  | some r => solvFinish d c { code := r.1, detail := r.2 } (modProb d c.slot (fun y => { y with st := .ready }) s)
  | none =>
    let y := readVec pr (dGOff b) (dFmt b 105) s
    match if ran then (y.1, y.2.2) else (s, none) with
    | (s, some t) => endByPoison d c t s
    | (s, none) =>
      let g := codes64 y.2.1.flatten
      let w := (Config.free s.freeCount).toNat
      let s := tickFree s
      let norm := c64 (normV pr g)
      let e := adjointOutcome pr g late ran w
      if !pr.converged then adjointSkip d c pr norm (Config.solveField 4 b (solveArrays pr true g) % 2 ^ 64) s
      else adjointCommit d c pr g e ran norm (residOf pr true g e) s

/-! ### DELTA and SETPREV (R259 to R262) -/

/-- One delta entry: row or element, column, position and value. -/
def deltaEntry (bs : List Byte) (i : Nat) : Nat × Nat × Nat × Nat := (leAt bs (16 * i) 4, leAt bs (16 * i + 4) 4, leAt bs (16 * i) 8, leAt bs (16 * i + 8) 8)

/-- The place of an entry in the values of its target (R260): the index, and its row; `none` where the structure holds none. -/
def deltaPlace (pr : Problem) (target : Nat) (e : Nat × Nat × Nat × Nat) : Option (Nat × Nat) :=
  let b := pr.desc
  let n := dN b
  let r := e.1
  let c := e.2.1
  let bandK := dKl b + dKu b + 1
  let z := dBsz b
  match target with
  | 0 =>
    if isCsr b then
      if n ≤ r then none
      else (((pr.colIdx.drop (pr.rowPtr.getD r 0)).take (pr.rowPtr.getD (r + 1) 0 - pr.rowPtr.getD r 0)).findIdx? (· = c)).map fun k => (pr.rowPtr.getD r 0 + k, r)
    else if dMethod b = 3 then (if r < n ∧ c < n ∧ r ≤ c + dKu b ∧ c ≤ r + dKl b then some (r * bandK + (c + dKu b - r), r) else none)
    else if dMethod b = 4 then
      if r < n ∧ c < n ∧ r / z ≤ c / z + 1 ∧ c / z ≤ r / z + 1 then some ((r / z * 3 + (c / z + 1 - r / z)) * (z * z) + r % z * z + c % z, r) else none
    else if r < n ∧ c < n then some (r * n + c, r) else none
  | 1 =>
    let i := e.2.2.1
    if isCsr b then (if i < pr.vals.length then some (i, (pr.rowPtr.findIdx fun x => i < x) - 1) else none)
    else if dMethod b = 3 then (if i < pr.vals.length ∧ bandIn b (i / bandK) (i % bandK) then some (i, i / bandK) else none)
    else if dMethod b = 4 then
      (if i < pr.vals.length ∧ 1 ≤ i / (3 * z * z) + i / (z * z) % 3 ∧ i / (3 * z * z) + i / (z * z) % 3 - 1 < n / z then some (i, i / (3 * z * z) * z + i % (z * z) / z) else none)
    else if i < pr.vals.length then some (i, i / n) else none
  | 2 => if isQp b ∧ r < dQpM b ∧ c < n then some (r * n + c, 0) else none
  | 3 => if isQp b ∧ r < dQpP b ∧ c < n then some (r * n + c, 0) else none
  | 4 => if isQp b ∧ r < dQpM b then some (r, 0) else none
  | _ => if isQp b ∧ r < dQpP b then some (r, 0) else none

/-- Apply an entry to its target. -/
def deltaApply (mode : Nat) (l : List Nat) (i v : Nat) : List Nat :=
  l.set i (if mode = 0 then v else (fmtFp64.encode false .rne (addV (fmtFp64.decode (l.getD i 0)) (fmtFp64.decode v))).code)
/-- The values that a target names. -/
def targetVals (pr : Problem) (t : Nat) : List Nat := match t with | 2 => pr.qpA | 3 => pr.qpG | 4 => pr.qpb | 5 => pr.qph | _ => pr.vals
/-- Set the values that a target names. -/
def setTarget (pr : Problem) (t : Nat) (l : List Nat) : Problem :=
  match t with | 2 => { pr with qpA := l } | 3 => { pr with qpG := l } | 4 => { pr with qpb := l } | 5 => { pr with qph := l } | _ => { pr with vals := l }

/-- The entries of a delta, each with the tile whose row it must name (R259, R260): a code where reading ends the command. -/
def deltaEntries (c : SolvCmd) (pr : Problem) (h : List Byte) (s : State) : State × Byte × List ((Nat × Nat × Nat × Nat) × Option Nat) :=
  let base := leAt h 8 8
  let n := leAt h 4 4
  let w := workBytes s c.part
  if leAt h 2 1 = 0 then
    if w < base + 16 * n then (s, cPart, [])
    else
      let a := pkgAddr c.tile base
      (touchRange 1 a (16 * n) s, if anyBad s a (16 * n) then cPoison else cDone, (List.range n).map fun i => (deltaEntry (memBytes s a (16 * n)) i, none))
  else if leAt h 2 1 = 1 then
    if (part s c.part).prec.bstSize < base + 16 * n then (s, cPart, [])
    else
      let r := bstRead c.part 0 ((part s c.part).prec.bstBase + base) (16 * n) s
      (r.1, r.2.code, (List.range n).map fun i => (deltaEntry r.2.bytes i, none))
  else
    (List.range pr.tiles.length).foldl (fun (x : State × Byte × List ((Nat × Nat × Nat × Nat) × Option Nat)) j =>
      if x.2.1 ≠ cDone then x
      else
        let s := x.1
        let t := pr.tiles.getD j 0
        let a := pkgAddr t base
        if w < base + 64 then (s, cPart, x.2.2)
        else
          let k := leVal (memBytes s a 8)
          if w < base + 64 + 16 * k then (s, cPart, x.2.2)
          else
            let bad := anyBad s a 8 || anyBad s (a + 64) (16 * k)
            (touchRange 1 (a + 64) (16 * k) (touchRange 1 a 8 s), if bad then cPoison else cDone,
              x.2.2 ++ (List.range k).map fun i => (deltaEntry (memBytes s (a + 64) (16 * k)) i, some j))) (s, cDone, [])

/-- A DELTA ends (R261). -/
def deltaEnd (d : Nat) (c : SolvCmd) (s : State) : State :=
  let pr := (slotOf s d c.slot).prob
  let back (s : State) : State := modProb d c.slot (fun y => { y with st := .ready }) s
  let fail (code : Byte) (det : Nat) (s : State) : State := solvFinish d c { code := code, detail := det } (back s)
  let a := pkgAddr c.tile (cmdArg c)
  if workBytes s c.part < cmdArg c + 32 then fail cPart 0x0C s
  else
    let h := memBytes s a 32
    let bad := anyBad s a 32
    let s := touchRange 1 a 32 s
    let t := leAt h 0 1
    if bad then fail cPoison 0 s
    else if cmdArg c % 64 ≠ 0 ∨ 5 < t ∨ 1 < leAt h 1 1 ∨ 2 < leAt h 2 1 ∨ leAt h 3 1 ≠ 0 ∨ leAt h 16 8 ≠ 0 ∨ leAt h 24 8 ≠ 0 ∨ leAt h 8 8 % 64 ≠ 0
        ∨ (leAt h 2 1 < 2 ∧ (leAt h 4 4 = 0 ∨ 2 ^ 20 < leAt h 4 4)) then fail cFormat 0x02 s
    else
      match deltaEntries c pr h s with
      | (s, code, es) =>
        if code = cDefer then s
        else if code = cPart then fail cPart 0x0C s
        else if code ≠ cDone then fail code 0 s
        else
          let places := es.map fun e =>
            match deltaPlace pr t e.1, e.2 with
            | some x, none => some x
            | some x, some j => let r := rowsAt pr.desc pr.tiles.length j; if r.1 ≤ x.2 ∧ x.2 < r.1 + r.2 then some x else none
            | none, _ => none
          if places.any Option.isNone then fail cFormat 0x04 s
          else
            let vals := (List.zip es places).foldl (fun l x => deltaApply (leAt h 1 1) l (x.2.getD (0, 0)).1 x.1.1.2.2.2) (targetVals pr t)
            let pr' := { setTarget pr t vals with ver := (pr.ver + 1) % 2 ^ 32, stale := true }
            let s := scrambleStorage pr (modProb d c.slot (fun y => { y with st := .ready, prob := pr' }) s)
            solvFinish d c {} s

/-- The refusal of a SETPREV (R247, R250): its vector lies outside working memory, or is not aligned. -/
def setprevRefuse (s : State) (d : Nat) (c : SolvCmd) : Option (Byte × Nat) :=
  let most := ((rowPieces (slotOf s d c.slot).prob).map fun x => 8 * x.2.2).foldl max 0
  if workBytes s c.part < cmdArg c + most then some (cPart, 0x0C) else if cmdArg c % 64 ≠ 0 then some (cFormat, 0x02) else none
/-- A SETPREV ends (R248): the codes are copied as they stand. -/
def setprevEnd (d : Nat) (c : SolvCmd) (s : State) : State :=
  let pr := (slotOf s d c.slot).prob
  let back (s : State) : State := modProb d c.slot (fun y => { y with st := .ready }) s
  let ps := (rowPieces pr).map fun x => (x.1, pkgAddr x.1 (cmdArg c), 8 * x.2.2)
  match setprevRefuse s d c with
  | some r => solvFinish d c { code := r.1, detail := r.2 } (back s)
  | none =>
    let s' := ps.foldl (fun s x => touchRange 1 x.2.1 x.2.2 s) s
    match ps.find? fun x => anyBad s x.2.1 x.2.2 with
    | some x => endByPoison d c x.1 s'
    | none =>
      let x := ps.flatMap fun x => wordsLe 8 (x.2.2 / 8) (memBytes s x.2.1 x.2.2)
      let pr' := if bitOf (cmdFlags c) 1 then { pr with lamPrev := x ++ pr.lamPrev.drop x.length, coldLam := false }
        else { pr with xPrev := x, coldX := false, solvedVer := none, converged := false }
      solvFinish d c {} (modProb d c.slot (fun y => { y with st := .ready, prob := pr' }) s')

/-! ### Start and end of commands -/

/-- The running commands of sequencer `d` that have descriptors left to issue. -/
def seqWaiters (s : State) (d : Nat) : List SolvCmd := (solvOf s d).cmds.filter fun c => c.running && c.left.any fun l => decide (l ≠ (0, 0))
/-- A queue has room again: what the sequencers have left enters, before anything of a core (R126, R202). -/
def seqRefill (s : State) : State := (List.range 4).foldl (fun s d => (seqWaiters s d).foldl (fun s c => seqPresent d c s) s) s

/-- The descriptors that a command issues when it begins (R248, R264, R278): none where it is refused or late. -/
def startPlan (s : State) (d : Nat) (c : SolvCmd) (late : Bool) : List (Nat × Nat) :=
  let pr := (slotOf s d c.slot).prob
  let b := pr.desc
  if late then []
  else match cmdOp c with
    | 3 => seqPlan pr false (codes64 (readVec pr (dRhsOff b) (dFmt b 104) s).2.1.flatten)
    | 4 => if (adjointRefuse s d c).isSome then [] else seqPlan pr true (codes64 (readVec pr (dGOff b) (dFmt b 105) s).2.1.flatten)
    | 5 => if (setprevRefuse s d c).isSome then [] else rowPlan pr
    | _ => []
/-- A command other than SETUP executes from now on: what it issues enters the queues of its tiles (R245, R270, R283). -/
def startRun (d k : Nat) (c : SolvCmd) (s : State) : State :=
  let was := (slotOf s d k).st
  let s := modProb d k (fun y => { y with st := .busy }) s
  let late := decide (cmdOp c = 3 ∨ cmdOp c = 4) && (deadlineForced s c || deadlineReached s.tick (cmdDeadline c))
  let c := { c with running := true, slot := k, was := was }
  let c := { c with left := startPlan s d c late }
  let s := seqPresent d c s
  if late then (if cmdOp c = 4 then adjointEnd d c true false s else solveEnd d c true false s) else s

/-- A command other than SETUP starts (R72, R243, R245, R248): a problem that is not READY takes RELEASE alone, and only where it is FAILED. -/
def startOther (d : Nat) (c : SolvCmd) (s : State) : State :=
  let h := cmdHandle c
  let k := h % 64
  let x := slotOf s d k
  let c := { c with start := s.tick }
  let fail (code : Byte) (det : Nat) (s : State) : State := solvFinish d c { code := code, detail := det } s
  if cmdOp c = 0 ∨ 6 < cmdOp c then fail cFormat 0x01 s
  else if h / 64 % 4 ≠ d then fail cFormat 0x08 s
  else if x.st ≠ .free ∧ x.part ≠ c.part then
    fail cPart 0 (logEvent { event := 0x02, sev := 1, tag := c.part, code := cPart.toNat, station := 1088 + d, unit := 2 * 2 ^ 28 + d, detail := x.part } s)
  else if x.st = .free ∨ x.gen ≠ h / 256 ∨ x.home ≠ d ∨ x.homeSlot ≠ k then fail cPart 0 (solvEvent d c 0 0 33 s)
  else if x.st ≠ .ready ∧ (x.st ≠ .failed ∨ cmdOp c ≠ 6) then fail cFormat 0x06 s
  else startRun d k c s

/-- An earlier command of sequencer `d` holds a command back (R245, R252): one of its problem, or a SETUP that has taken the slot that it names. -/
def holdsBack (d : Nat) (a c : SolvCmd) : Bool :=
  if cmdOp c = 1 then false
  else if cmdOp a = 1 then a.running && decide (a.slot < 64 ∧ cmdHandle c % 256 = a.slot + 64 * d)
  else decide (cmdHandle a % 256 = cmdHandle c % 256)
/-- The oldest runnable command (R252, R429). -/
def runnable (s : State) (d : Nat) : Option SolvCmd :=
  let cs := (solvOf s d).cmds
  (List.range cs.length).findSome? fun i =>
    match cs[i]? with
    | none => none
    | some c => if !c.running ∧ !(cs.take i).any (holdsBack d · c) ∧ !(cs.any fun a => decide (cmdOp a = 1) && holdsBack d a c) ∧ !(collPart s c.part).fence then some c else none

/-- Start the commands that can run, up to 8 at once (R252); none while the sequencers' clocks are gated (R524). -/
def solvKick : Nat → Nat → State → State
  | 0, _, s => s
  | fuel + 1, d, s =>
    if engineGated s ∨ 8 ≤ (solvOf s d).cmds.countP (fun c => c.running) then s
    else match runnable s d with
      | none => s
      | some c => solvKick fuel d (if cmdOp c = 1 then startSetup d c s else startOther d c s)

/-- Start what can run on every sequencer. -/
def solvKickAll (s : State) : State := (List.range 4).foldl (fun s d => solvKick 80 d s) s

/-- A command issues no more (R270, R285). -/
def dropLeft (d : Nat) (c : SolvCmd) (s : State) : State := modCmd d c (fun y => { y with left := [] }) s
/-- End a command with a code and no effect on its problem's results (R285), once what it has queued is gone. -/
def solvCut (d : Nat) (c : SolvCmd) (code : Byte) (s : State) : State :=
  if !c.running then solvAbort d c code s
  else if cmdOp c = 1 then releaseProb (slotOf s d c.slot).prob (solvAbort d c code s)
  else if seqQueued s d c (slotOf s d c.slot).prob then dropLeft d c s
  else solvAbort d c code (modProb d c.slot (fun x => { x with st := if x.st = .busy then c.was else x.st }) s)

/-- A command ends as it is to end once its descriptors are gone (R282, R284), and what can run then starts. -/
def seqSettle (d : Nat) (c : SolvCmd) (s : State) : State :=
  if seqPending s d c (slotOf s d c.slot).prob then s
  else match c.fin with
    | some (.tile t code detail failed) => solvKick 80 d (endTileNow d c t code detail failed s)
    | some (.commit pr x ran r) => solvKick 80 d (commitNow d c pr x ran r s)
    | none => s
/-- A descriptor of a command has completed on tile `t` with a code (R283, R284): another code than DONE ends the command. Of a command that is gone the slots that it has bound
there are freed. -/
def seqEnded (o : Nat × Nat) (t : Nat) (code : Byte) (detail : Nat) (failed : Bool) (s : State) : State :=
  match runningCmd s o.1 o.2 with
  | none => seqFree o.1 { seq := o.2 } t s
  | some c => if code = cDone then seqSettle o.1 c s else solvKick 80 o.1 (endByTile o.1 c t code detail failed s)
/-- What a stream descriptor of a command reads on a tile of what the program supplied: b, g, or the vector of a SETPREV. -/
def seqInput (c : SolvCmd) (pr : Problem) (r : Nat) : List (Nat × Nat) :=
  match cmdOp c with
  | 4 => vecSpans (dGOff pr.desc) (dFmt pr.desc 105) r
  | 5 => [(cmdArg c, 8 * r)]
  | _ => vecSpans (dRhsOff pr.desc) (dFmt pr.desc 104) r
/-- A stream descriptor of a command is carried out (R201, R282, R283): the state, its code, and the tclk of its accesses, which the spec gives for the converted copy only. -/
def seqStream (o : Nat × Nat) (t : Nat) (e : StEntry) (s : State) : State × Byte × Nat :=
  match runningCmd s o.1 o.2 with
  | none => (s, cDone, Config.seqBusy e.ws)
  | some c =>
    let pr := (slotOf s o.1 c.slot).prob
    match e.conv, c.fin with
    | true, some (.commit p x _ _) => let z := convTile c p x t e s; (z.1, z.2, ceilDiv (seqRows p t).2 32)
    | true, _ => (s, cDone, 0)
    | false, _ =>
      let ps := seqInput c pr (seqRows pr t).2
      if ps.any fun p => anyBad s (pkgAddr t p.1) p.2 then
        (stick (aStrmStatus t) 10 (ps.foldl (fun s p => touchRange 0 (pkgAddr t p.1) p.2 s) s), cPoison, Config.seqBusy e.ws)
      else (s, cDone, Config.seqBusy e.ws)
/-- The data of the command that a descriptor belongs to (R268). -/
def seqData (s : State) (o : Nat × Nat) : List (List Nat) :=
  match runningCmd s o.1 o.2 with
  | none => []
  | some c =>
    let pr := (slotOf s o.1 c.slot).prob
    let adj := decide (cmdOp c = 4)
    solveArrays pr adj (codes64 (readVec pr (if adj then dGOff pr.desc else dRhsOff pr.desc) (dFmt pr.desc (if adj then 105 else 104)) s).2.1.flatten)

/-- A solve or an adjoint has done its arithmetic (R283, R284): once its descriptors are issued and gone. -/
def solveDone (d : Nat) (c : SolvCmd) (s : State) : State :=
  if seqPending s d c (slotOf s d c.slot).prob then s
  else
    let late := deadlineReached s.tick (cmdDeadline c)
    if cmdOp c = 3 then solveEnd d c late true s else adjointEnd d c late true s
/-- A SETUP that waits for the board store reads its sources again; its slots are asked for again (R242, R325). -/
def setupAgain (d : Nat) (c : SolvCmd) (s : State) : State :=
  let b := memBytes s (pkgAddr c.tile (cmdArg c)) 128
  if (qmaskDies (dQmask b)).all (slotAvail s c.part) then setupSources d c b s else setupFail d c cQuota 0x0A none s

/-- A running command ends by itself (R248). -/
def solvComplete (d : Nat) (c : SolvCmd) (s : State) : State :=
  match c.fin, c.endAs with
  | some _, _ => seqSettle d c s
  | none, some code => solvCut d c code s
  | none, none =>
    match cmdOp c with
    | 1 =>
      if 64 ≤ c.slot then setupAgain d c s
      else
        let pr := (slotOf s d c.slot).prob
        let s := pr.dies.foldl (fun s x => modProb x.1 x.2 (fun y => { y with st := .ready }) s) s
        solvFinish d c { handle := handleOf s d c.slot, w7 := some (probNeed pr) } (scrambleStorage pr s)
    | 2 => deltaEnd d c s
    | 3 => solveDone d c s
    | 4 => solveDone d c s
    | 5 => if seqPending s d c (slotOf s d c.slot).prob then s else setprevEnd d c s
    | _ => releaseProb (slotOf s d c.slot).prob (solvFinish d c {} s)
/-- A comparison point (R270, R285): a command that must end, or that finds its deadline reached, issues no more, and ends once what it has queued is gone. -/
def solvCompare (d : Nat) (c : SolvCmd) (s : State) : State :=
  match c.fin, c.endAs with
  | some _, _ => seqSettle d c s
  | none, some code => solvCut d c code s
  | none, none =>
    if (cmdOp c = 3 ∨ cmdOp c = 4) ∧ deadlineReached s.tick (cmdDeadline c) then
      if seqQueued s d c (slotOf s d c.slot).prob then dropLeft d c s
      else if cmdOp c = 3 then solveEnd d c true true s else adjointEnd d c true true s
    else s

/-- Every command of a partition ends or is marked to end (R285). -/
def solvEndPart (p : Nat) (code : Byte) (s : State) : State :=
  (List.range 4).foldl (fun s d =>
    let cs := (solvOf s d).cmds
    let s := cs.foldl (fun s c => if c.part = p ∧ !c.running then solvCut d c code s else s) s
    modSolv d (fun x => { x with cmds := x.cmds.map fun c => if c.part = p then { c with endAs := some code } else c }) s) s

/-- A load that resets a partition frees its slots; its commands complete with UNIT_RESET (R286). -/
def solvDropPart (p : Nat) (s : State) : State :=
  (List.range 4).foldl (fun s d =>
    let s := (solvOf s d).cmds.foldl (fun s c => if c.part = p then solvAbort d c cReset s else s) s
    (solvOf s d).slots.foldl (fun s e => if e.2.st ≠ .free ∧ e.2.part = p then dropSlot d e.1 s else s) s) s

/-- A sequencer is reset (R549): commands complete with UNIT_RESET, slots are freed. -/
def solvReset (d : Nat) (s : State) : State :=
  let s := (solvOf s d).cmds.foldl (fun s c => solvAbort d c cReset s) s
  (solvOf s d).slots.foldl (fun s e => if e.2.st ≠ .free then dropSlot d e.1 s else s) s

/-- A tile reset fails the problems that hold the tile and ends their running commands (R245, R284). -/
def solvTileReset (t : Nat) (s : State) : State :=
  (List.range 4).foldl (fun s d =>
    (solvOf s d).slots.foldl (fun s e =>
      if e.2.st ≠ .free ∧ e.2.home = d ∧ e.2.homeSlot = e.1 ∧ e.2.prob.tiles.contains t then
        let s := (solvOf s d).cmds.foldl (fun s c => if c.running ∧ c.slot = e.1 then endByTile d c t cReset 0 true s else s) s
        modProb d e.1 (fun x => { x with st := if x.st = .free then .free else .failed }) s
      else s) s) s

/-- No command of a partition remains (R285). -/
def solvIdle (s : State) (p : Nat) : Bool := (List.range 4).all fun d => !(solvOf s d).cmds.any fun c => c.part = p
/-- No command of a partition is executing (R429). -/
def solvQuiet (s : State) (p : Nat) : Bool := (List.range 4).all fun d => !(solvOf s d).cmds.any fun c => decide (c.part = p) && c.running

end Sys2Proof.Machine
end

