-- ==== Sys2Proof/Machine/PartOps.lean ====
section
/-!
DEFINITION. Machine/PartOps.lean: partitions as a whole (R67 to R75, R216, R458 to R475): reset of a tile, run, stop, suspension, fault, and the dispatcher.
-/
namespace Sys2Proof.Machine

/-- The vector of a partition's state changes (R571). -/
def raisePart (p : Nat) (s : State) : State := raiseVec (32 * p + 31) s

/-- Set the state of a partition; STOPPED, SUSPENDED and FAULTED raise its vector (R571). -/
def setPState (p : Nat) (x : PState) (s : State) : State :=
  let s := modPart p (fun q => { q with st := x }) s
  match x with
  | .stopped => raisePart p s
  | .faulted => raisePart p s
  | .suspended => raisePart p s
  | _ => s

/-- Empty both queues of a partition's dispatcher (R464). -/
def clearQueues (p : Nat) (s : State) : State := modPart p (fun x => { x with nq := [], dq := [], filled := [] }) s

/-- IMG_PART_p as it reads. -/
def partView (s : State) (p : Nat) : Nat :=
  let x := part s p
  (match x.st with | .empty => 0 | .loading => 1 | .stopped => 2 | .running => 3 | .suspended => 4 | .faulted => 5) + 2 ^ 16 * x.cause
    + 2 ^ 32 * (if x.st = .empty then 0 else x.prec.tiles.length)
/-- IMG_AUDIT_p, the bits computed on read. -/
def auditView (s : State) (p : Nat) : Nat :=
  let x := part s p
  b2n (bitOf x.prec.mode 0) + 2 * x.prec.audit + 2 ^ 8 * (x.seeds.getD []).length + 2 ^ 24 * (x.wslots.map fun e => 2 ^ e.1).sum
/-- IMG_STEP_p as it reads: the lowest step view (R475). -/
def stepView (s : State) (p : Nat) : Word :=
  match (part s p).prec.tiles with
  | [] => 0
  | t :: r => r.foldl (fun m t => if (tile s t).step.toNat < m.toNat then (tile s t).step else m) (tile s t).step

/-! ### Tiles -/

/-- What belongs to a tile in its quadrant's domain returns to its tile-reset state: queues, core, accumulator file, step view and registers (R599). -/
def tileClear (t : Nat) (s : State) : State :=
  let s := { s with posts := s.posts.filter fun x => x.tile ≠ t }
  let s := modTile t (fun x => { rowCorr := x.rowCorr, scrubPos := x.scrubPos }) s
  clearRegs (0x2000000 + 0x4000 * t) (0x2004000 + 0x4000 * t) s

/-- A tile reset (R131, R151, R203, R549, R599): queues, core, accumulator file and registers; the slice is kept, and so are the row counts since start-up. -/
def tileReset (t : Nat) (s : State) : State :=
  let s := solvTileReset t (tileClear t s)
  resetStation (tileStation s t) s

/-- A core starts its partition's program (R216). -/
def startCore (p t : Nat) (s : State) : State :=
  let x := part s p
  let s := modCore t (fun c => {
    g := tabSet 0 1 (BitVec.ofNat 64 t) (tabSet 0 2 (BitVec.ofNat 64 (tileIndex s p t)) (tabSet 0 3 (BitVec.ofNat 64 x.prec.tiles.length) []))
    pc := BitVec.ofNat 64 x.entry
    run := .running
    item := some 0
    mxCodes := c.mxCodes
    stCodes := c.stCodes }) s
  let s := setReg (aTileEvec t) (BitVec.ofNat 64 (x.handler / 4 * 4)) s
  let s := putF (aTileCoreStatus t) 0 2 0 s
  setReg (aVxStatus t) 0 (setReg (aVxResume t) 0 s)

/-- Power up the domains of a partition's tiles where they are off (R492). -/
def powerTiles (p : Nat) (s : State) : State :=
  ((part s p).prec.tiles.map quadOf).eraseDups.foldl (fun s q => powerUp q s) s

/-- The ceiling OP of the part (R495). -/
def partCeiling (s : State) : Nat := if s.fuses.speedBin = 1 then 11 else 15
/-- The limit that the start has left on OP_MAX over the dies of a partition (R554). -/
def opLimit (s : State) (p : Nat) : Nat :=
  ((part s p).prec.tiles.map fun t => s.boot.now.opLimit.getD (dieOf t) 15).foldl min (partCeiling s)
/-- OP_MAX in force. -/
def opMax (s : State) (p : Nat) : Nat := min (getF s (aPwrPart p) 4 4) (opLimit s p)

/-- RUN (R67, R216, R464): a STOPPED or FAULTED partition without a FAILED tile starts. A tile whose quadrant is still powering up starts when it is ready. -/
def runPart (p : Nat) (s : State) : State :=
  let x := part s p
  if (x.st = .stopped ∨ x.st = .faulted) ∧ !x.prec.tiles.any (fun t => unitState s (tileStation s t) = .failed) then
    let s := modPart p (fun x => { x with cause := 0, stopping := false }) (clearQueues p s)
    let s := powerTiles p (setPState p .running s)
    let s := x.prec.tiles.foldl (fun s t => if domSt s (quadOf t) = .on then startCore p t s else modCore t (fun c => { c with run := .idle }) s) s
    let top := opMax s p
    { s with pwr := { s.pwr with parts := tabSet {} p { tabGet {} p s.pwr.parts with op := top, fresh := true, bucket := (tabGet {} p s.pwr.parts).budget * getF s aPwrCtrl 0 16 } s.pwr.parts } }
  else s

/-- No work item, collective or sequencer command of a partition remains (R68, R285). -/
def partQuiet (s : State) (p : Nat) : Bool :=
  (part s p).prec.tiles.all (fun t => match (core s t).run with | .running => false | .waiting _ => (core s t).given.isNone | _ => true)
    && (collPart s p).run.isNone && (collPart s p).queue.isEmpty && solvIdle s p
    && !s.posts.any fun x => (part s p).prec.tiles.contains x.tile

/-- A partition becomes STOPPED (R68, R464). -/
def becomeStopped (p : Nat) (s : State) : State :=
  setPState p .stopped (clearQueues p (modPart p (fun x => { x with stopping := false, suspPower := false, suspHalt := false }) s))

/-- A core that waits at WNEXT halts there (R228). -/
def haltWaiting (p : Nat) (s : State) : State :=
  (part s p).prec.tiles.foldl (fun s t => modCore t (fun c => match c.run with
    | .waiting _ => if c.given.isNone then { c with run := .stopped } else c
    | _ => c) s) s

/-- A partition that does not run becomes STOPPED, or waits for its sequencer commands to end, with no suspension left that a resume could end (R69, R285). -/
def stopIdle (p : Nat) (s : State) : State := if solvIdle s p then becomeStopped p s else modPart p (fun x => { x with stopping := true, suspPower := false, suspHalt := false }) s
/-- STOP (R68, R69, R285): a partition that does not run is STOPPED once none of its sequencer commands remains. -/
def stopPart (p : Nat) (s : State) : State :=
  match (part s p).st with
  | .running => haltWaiting p (solvEndPart p cPart (modPart p (fun x => { x with stopping := true }) s))
  | .suspended => stopIdle p s
  | .faulted => stopIdle p s
  | _ => s

/-- A partition becomes FAULTED (R70): its tiles stop, and its requests, collectives and solver commands end. -/
def faultEnd (p cause : Nat) (code : Byte) (s : State) : State :=
  let x := part s p
  if x.st = .running ∨ x.st = .suspended then
    let s := modPart p (fun x => { x with cause := cause, stopping := false, suspPower := false, suspHalt := false }) s
    let s := setPState p .faulted s
    let s := timeoutRequests p s
    let s := collEndAll p code 0 s
    solvEndPart p cTimeout s
  else s
/-- A partition becomes FAULTED, and the event is logged (R70, R595). -/
def faultPart (p cause : Nat) (code : Byte) (r : LogRec) (s : State) : State :=
  if (part s p).st = .running ∨ (part s p).st = .suspended then logEvent r (faultEnd p cause code s) else s

/-- A partition becomes SUSPENDED (R69, R285, R446, R512). -/
def suspendPart (p : Nat) (s : State) : State :=
  if (part s p).st = .running then solvEndPart p cPart (collEndAll p cPart 0 (setPState p .suspended s)) else s
/-- A suspended partition runs again (R512); one that STOP ends does not (R69). -/
def resumePart (p : Nat) (s : State) : State :=
  if (part s p).st = .suspended ∧ (part s p).stopping = false then modPart p (fun x => { x with st := .running, suspPower := false, suspHalt := false }) s else s

/-- A queue entry with a parity error (R607): `q` names the queue. -/
def parityFault (p q : Nat) (stn unit : Nat) (s : State) : State :=
  faultPart p 0x02 cTimeout { event := 0x15, sev := 2, tag := p, station := stn, unit := unit, detail := q } s

/-- The step view advances (R474). -/
def stepAdvance (t : Nat) (s : State) : State :=
  if (tile s t).step = BitVec.allOnes 64 then
    match ownerOf s t with
    | some p => faultPart p 0x03 cTimeout { event := 0x13, sev := 2, tag := p, station := tileStation s t, unit := t } s
    | none => s
  else modTile t (fun x => { x with step := x.step + 1 }) s

/-- A SYSW to TILE_HOST_IRQ raises a vector of the partition (R571); vector 31 is not the program's. -/
def hostIrqOp (t v : Nat) (s : State) : State :=
  match ownerOf s t with
  | some p => if v < 31 then raiseVec (32 * p + v) s else s
  | none => s

/-! ### Dispatcher (R458 to R464) -/

/-- A work item record decoded (R458). -/
def itemOf (b : List Byte) : Item :=
  { entry := BitVec.ofNat 64 (leAt b 0 8), arg := BitVec.ofNat 64 (leAt b 8 8), deferred := bitOf (leAt b 16 1) 0, eclass := leAt b 17 1,
    gate := decide (leAt b 18 1 = 1), fill := leAt b 19 1, target := if leAt b 20 2 = 0xFFFF then none else some (leAt b 20 2), ctag := leAt b 24 4 }
/-- Check 2 of R459. -/
def itemFieldsOk (b : List Byte) : Bool :=
  decide (leAt b 16 1 < 2 ∧ leAt b 17 1 < 8 ∧ leAt b 18 1 < 2 ∧ leAt b 22 2 = 0 ∧ leAt b 28 4 = 0) && decide (leAt b 16 1 = 0 ∨ (leAt b 18 1 = 0 ∧ leAt b 19 1 = 0))

/-- The event of the first check of R459 that a record fails. -/
def itemRefused (s : State) (p t off : Nat) : Option Nat :=
  let w := workBytes s p
  let a := pkgAddr t off
  let b := memBytes s a 32
  let i := itemOf b
  if w < off + 32 ∨ anyBad s a 32 then some 0x0F
  else if !itemFieldsOk b then some 0x0F
  else if i.entry.toNat % 4 ≠ 0 ∨ w ≤ i.entry.toNat then some 0x0F
  else if (match i.target with | some k => decide (tileCount s p ≤ k) | none => false) = true then some 0x0F
  else if !bitOf (part s p).prec.eclassMask i.eclass then some 0x03
  else none

/-- A posted record fails a check (R459): the event and the bit of IMG_DISP that raises the partition's vector. -/
def refuseItem (p t off ev : Nat) (s : State) : State :=
  let b := memBytes s (pkgAddr t off) 32
  let s := if workBytes s p < off + 32 then s else touchRange 1 (pkgAddr t off) 32 s
  let s := if getB s (aImgDisp p) 33 then s else raisePart p (putB (aImgDisp p) 33 true s)
  logEvent { event := ev, sev := 1, tag := p, station := 1134, unit := t, detail := if ev = 0x03 then (itemOf b).eclass else tileIndex s p t, addr := off } s

/-- The place of the next posted item of a partition in the order of posting (R461). -/
def postOrder (x : PartSt) : Nat := 1 + (x.nq ++ x.dq).foldl (fun m i => max m i.seq) 0

/-- The item of a posted record, with its place in the order of posting. -/
def recordItem (s : State) (p t off : Nat) : Item := { itemOf (memBytes s (pkgAddr t off) 32) with seq := postOrder (part s p) }
/-- The dispatcher queues an item that it admits, or leaves it waiting while the queue is full (R459). -/
def queueRecord (p t off : Nat) (s : State) : State × Bool :=
  let i := recordItem s p t off
  let q := if i.deferred then (part s p).dq else (part s p).nq
  if 256 ≤ q.length then (s, false)
  else
    (modPart p (fun x => if i.deferred then { x with dq := x.dq ++ [i] } else { x with nq := x.nq ++ [i] })
      (touchRange 1 (pkgAddr t off) 32 s), true)
/-- The dispatcher refuses a record with the event of the check that it fails, or queues it. -/
def answerRecord (refused : Option Nat) (p t off : Nat) (s : State) : State × Bool :=
  match refused with
  | some ev => (refuseItem p t off ev s, true)
  | none => queueRecord p t off s
/-- The dispatcher takes a posted record (R459): it refuses it, queues it, or leaves it waiting. -/
def takeRecord (p t off : Nat) (s : State) : State × Bool := answerRecord (itemRefused s p t off) p t off s

/-- An item is for tile index `k` and `k` has not received it. -/
def itemFor (k : Nat) (i : Item) : Bool := (match i.target with | some j => decide (j = k) | none => true) && !i.got.contains k
/-- The gate of an item is open (R463). -/
def gateOpen (s : State) (p : Nat) (i : Item) : Bool :=
  !i.gate || i.gateDone || !(pendFor s p i.ctag).isEmpty || (match (collPart s p).run with | some c => decide (c.ctag = i.ctag) && c.fence.isSome | none => false)
/-- An energy class is admitted for a partition (R507): RUN fills the bucket (R506), and a budget of 0 admits class 0 alone (R504). -/
def classAdmitted (s : State) (p c : Nat) : Bool :=
  let x := tabGet {} p s.pwr.parts
  decide (c = 0) || x.fresh || decide (x.budget ≠ 0 ∧ getF s aPwrEclass (8 * c) 8 * (x.budget * getF s aPwrCtrl 0 16) ≤ 256 * x.bucket)

/-- What the dispatcher gives a tile: an item of a queue by its place, and the index it is taken for (its own, or that of the tile it is stolen from). -/
structure Choice where
  deferred : Bool := false
  place : Nat := 0
  index : Nat := 0
deriving DecidableEq, Repr, Inhabited

/-- The choice of R461 among items that `ok` admits. -/
def chooseThroughput (s : State) (p k : Nat) (ok : Item → Bool) : Option Choice :=
  let x := part s p
  match x.nq.findIdx? fun i => itemFor k i && ok i with
  | some j =>
    if gateOpen s p (x.nq.getD j {}) then some ⟨false, j, k⟩
    else match x.dq.findIdx? fun i => itemFor k i && ok i with
      | some j => some ⟨true, j, k⟩
      | none => steal
  | none =>
    match x.dq.findIdx? fun i => itemFor k i && ok i with
    | some j => some ⟨true, j, k⟩
    | none => steal
where
  steal : Option Choice :=
    let x := part s p
    if bitOf x.prec.mode 1 then
      (List.range (tileCount s p)).findSome? fun v =>
        let single (i : Item) : Bool := decide (v ≠ k ∧ i.target = some v) && !i.got.contains v && !i.gate && ok i
        match x.nq.findIdx? single, x.dq.findIdx? single with
        | some j, some l => if (x.dq.getD l {}).seq < (x.nq.getD j {}).seq then some ⟨true, l, v⟩ else some ⟨false, j, v⟩
        | some j, none => some ⟨false, j, v⟩
        | none, some l => some ⟨true, l, v⟩
        | none, none => none
    else none

/-- The choice of R462. -/
def chooseInvar (s : State) (p k : Nat) : Option Choice :=
  let x := part s p
  match x.nq.findIdx? (itemFor k) with
  | none => none
  | some j =>
    let i := x.nq.getD j {}
    if tabGet 0 k x.filled < i.fill then
      match x.dq.findIdx? (itemFor k) with | some d => some ⟨true, d, k⟩ | none => none
    else if gateOpen s p i then some ⟨false, j, k⟩ else none

/-- The choice for tile index `k` (R461, R462, R508). -/
def chooseItem (s : State) (p k : Nat) : Option Choice :=
  if invarOf s p then chooseInvar s p k
  else match chooseThroughput s p k (fun i => classAdmitted s p i.eclass) with
    | some c => some c
    | none => chooseThroughput s p k (fun _ => true)

/-- Tile index `k` waits at a closed gate (GATE_WAIT, R461 to R464): nothing can be given to it, and a gate holds its oldest NORMAL item back. -/
def waitsAtGate (s : State) (p k : Nat) : Bool :=
  (chooseItem s p k).isNone && match (part s p).nq.find? (itemFor k) with
  | some i => i.gate && !gateOpen s p i && (!invarOf s p || decide (i.fill ≤ tabGet 0 k (part s p).filled))
  | none => false

/-- A tile of a partition waits at WNEXT, on a closed gate (GATE_WAIT). -/
def gateWaits (s : State) (p : Nat) : Bool :=
  (part s p).prec.tiles.any fun t => (match (core s t).run with | .waiting _ => true | _ => false) && (core s t).given.isNone && waitsAtGate s p (tileIndex s p t)
/-- IMG_DISP_p, the bits computed on read. -/
def dispView (s : State) (p : Nat) : Nat :=
  let x := part s p
  x.nq.length + 2 ^ 16 * x.dq.length + 2 ^ 32 * b2n (gateWaits s p)

/-- An item is given to tile index `k` (R461, R462); the second part is the item on its way, with the index it is taken for at the head of `got`. -/
def giveItem (p k : Nat) (c : Choice) (s : State) : State × Item :=
  let x := part s p
  let i := (if c.deferred then x.dq else x.nq).getD c.place {}
  let i' := { i with got := c.index :: i.got }
  let upd (q : List Item) : List Item := q.set c.place i'
  let filled := if !invarOf s p then x.filled else if c.deferred then tabSet 0 k (tabGet 0 k x.filled + 1) x.filled else tabDel k x.filled
  (modPart p (fun x => if c.deferred then { x with dq := upd x.dq, filled := filled } else { x with nq := upd x.nq, filled := filled }) s, i')

/-- A queue of a partition of `n` tiles once the item `i` has reached its tile: an item that every tile it targets has received is freed (R460). -/
def itemReceived (n : Nat) (i : Item) (q : List Item) : List Item :=
  q.filterMap fun y =>
    if y.seq = i.seq then
      let y' := { y with rcvd := i.got.headD 0 :: y.rcvd }
      if y'.target.isSome || (List.range n).all y'.rcvd.contains then none else some y'
    else some y

/-- The dispatcher may give tile `t` an item (R429, R464): its partition runs and does not stop, no post holds its tiles, and it waits at WNEXT. -/
def mayDispatch (s : State) (p t : Nat) : Bool :=
  decide ((part s p).st = .running) && !(part s p).stopping && !(collPart s p).held
    && (match (core s t).run with | .waiting _ => true | _ => false) && (core s t).given.isNone

end Sys2Proof.Machine
end

