-- ==== Sys2Proof/Machine/PostOps.lean ====
section
/-!
DEFINITION. Machine/PostOps.lean: the posts of tiles to the shared engines as POST requests (R246, R332, R333, R340, R346 to R348, R422, R479; log entry 8).
-/
namespace Sys2Proof.Machine

/-- A tile's oldest post to an engine that its NI has not sent. -/
def nextPost (s : State) (t : Nat) (k : PostKind) : Option Post := s.posts.find? fun x => x.tile = t ∧ x.kind = k ∧ x.txid = none
/-- Remove it. -/
def takePost (t : Nat) (k : PostKind) (s : State) : State :=
  { s with posts := match s.posts.findIdx? fun x => x.tile = t ∧ x.kind = k ∧ x.txid = none with | some i => s.posts.eraseIdx i | none => s.posts }
/-- Its POST goes out under a TXID. -/
def markPost (t : Nat) (k : PostKind) (id : Nat) (s : State) : State :=
  { s with posts := match s.posts.findIdx? fun x => x.tile = t ∧ x.kind = k ∧ x.txid = none with | some i => s.posts.modify i (fun x => { x with txid := some id }) | none => s.posts }
/-- The post of a tile whose POST has a TXID. -/
def postBy (s : State) (t id : Nat) : Option Post := s.posts.find? fun x => x.tile = t ∧ x.txid = some id
/-- The station that a post goes to. -/
def postStation (x : Post) : Nat := match x.kind with | .solv => 1088 + x.die | .coll => 1132 | .dig => 1134
/-- The POST of a post (R332): OPARG carries BLOCK and the issuing tile. -/
def postPacket (s : State) (x : Post) (id : Nat) (way : Transit) : Packet :=
  { txid := BitVec.ofNat 16 id, srcStn := BitVec.ofNat 11 (tileStation s x.tile), dstStn := BitVec.ofNat 11 (postStation x)
    dstUnit := BitVec.ofNat 32 (match x.kind with | .solv => 2 ^ 29 + x.die | _ => 0x3FFFFFFF)
    oparg := leBytes 8 x.off ++ leBytes 8 x.tile ++ List.replicate 16 0, way := way }
/-- The tile's NI sends its oldest post to an engine, unless it stalls (R340). -/
def postOut (t : Nat) (k : PostKind) (way : Transit) (serve : Packet → State → State) (s : State) : State :=
  match nextPost s t k with
  | none => s
  | some x =>
    let n := tileStation s t
    if niStalled s n then s
    else let id := freeTxid s n; arrive 7 (postPacket s x id way) [] serve (markPost t k id s)
/-- A POST at its engine's station: deferred, refused with `reject`, or taken with `accept`, which give the record and the answer. A post that no tile holds any
more is refused. -/
def postServe (n : Nat) (reject : Post → Nat → Byte → State → State) (accept : Post → Nat → State → State × Byte × Nat) (q : Packet) (s : State) : State :=
  let t := (stationTile s q.srcStn.toNat).getD 0
  let id := q.txid.toNat
  match postBy s t id, ownerOf s t with
  | some x, some p =>
    match unitGateFor (whoOf q) n 3 s with
    | some g => gateAnswer n q (if g.1 = cDefer then g else (g.1, g.2.1, reject x p g.1 (dropPost (tileStation g.2.2 t) id g.2.2)))
    | none => let r := accept x p (dropPost (tileStation s t) id s); answer n q r.2.1 [] 0 r.2.2 r.1
  | _, _ => answer n q cPart [] 0 0 (dropPost (tileStation s t) id s)

end Sys2Proof.Machine
end

