-- ==== Sys2Proof/Machine/Solver.lean ====
section
/-!
DEFINITION. Machine/Solver.lean: the solver commands (R247 to R252, R261, R264, R270, R278, R284, R287). A command row takes the oldest post of its tile
that is on its way to a sequencer and bears its opcode (log entry 8); a post with a reserved opcode is taken by any of them.
-/
namespace Sys2Proof.Machine

/-- A post's record is written at once, the command not being queued (R251, R287). -/
def solvReject (d : Nat) (c : SolvCmd) (code : Byte) (hint : Nat) (s : State) : State :=
  let w := (Config.free s.freeCount).toNat
  solvRecord c ((cmdProb s d c).getD {}) { code := code, w2 := hint, handle := w % 65536, w7 := some (w / 65536) } (tickFree s)

/-- The command that a post of partition `p` names, with its block as it stands. -/
def solvPosted (s : State) (x : Post) (p : Nat) : SolvCmd := { seq := 0, part := p, tile := x.tile, step := x.step, blk := memBytes s (pkgAddr x.tile x.off) 64 }
/-- A post that the sequencer's station refuses (R287). -/
def solvRefuse (d : Nat) (x : Post) (p : Nat) (code : Byte) (s : State) : State :=
  if workBytes s p < x.off + 64 then s else solvReject d (solvPosted s x p) code 0 s
/-- A post reaches its sequencer (R247, R251, R252, R285): the state with its record or its queue entry, and the answer. -/
def solvAccept (d : Nat) (x : Post) (p : Nat) (s : State) : State × Byte × Nat :=
  let a := pkgAddr x.tile x.off
  let c := solvPosted s x p
  if workBytes s p < x.off + 64 then (s, cPart, 0)
  else
    let bad := anyBad s a 64
    let lost := badWord s (a / 8 + 3)
    let s := touchRange 1 a 64 s
    let q := (solvOf s d).cmds.filter fun c => !c.running
    if bad then (if lost then s else solvReject d c cPoison 0 s, cPoison, 0)
    else if (part s p).st ≠ .running ∨ (part s p).stopping then (solvReject d c cPart 0 s, cPart, 0)
    else if 64 ≤ q.length ∨ 16 ≤ (q.filter fun c => c.part = p).length then (solvReject d c cDefer (hintOf s 1000) (tickFree s), cDefer, hintOf s 1000)
    else
      let n := (solvOf s d).nextSeq
      (solvKick 80 d (modSolv d (fun y => { y with
        cmds := y.cmds ++ [{ c with seq := n }]
        nextSeq := (n + 1) % 65536 }) s), cDone, 0)
/-- A POST at the station of a die's sequencer. -/
def solvServe (d : Nat) (q : Packet) (s : State) : State := postServe (1088 + d) (solvRefuse d) (solvAccept d) q s

/-- The row of opcode `op` takes the oldest post of tile `t`. -/
def solvRow (op t : Nat) (way : Transit) (s : State) : State :=
  match nextPost s t .solv, ownerOf s t with
  | some x, some _ =>
    let o := (memByte s (pkgAddr t x.off)).toNat
    if o = op ∨ o = 0 ∨ 6 < o then postOut t .solv way (solvServe x.die) s else s
  | some _, none => takePost t .solv s
  | none, _ => s

/-- SETUP (R248). -/
def execSetup (t : Poster) (s : State) : Host.Outcome State Fault Refusal := .next (solvRow 1 t.tile t.way s)
/-- DELTA (R261). -/
def execDelta (t : Poster) (s : State) : Host.Outcome State Fault Refusal := .next (solvRow 2 t.tile t.way s)
/-- SOLVE (R264). -/
def execSolve (t : Poster) (s : State) : Host.Outcome State Fault Refusal := .next (solvRow 3 t.tile t.way s)
/-- ADJOINT (R278). -/
def execAdjoint (t : Poster) (s : State) : Host.Outcome State Fault Refusal := .next (solvRow 4 t.tile t.way s)
/-- SETPREV (R248). -/
def execSetprev (t : Poster) (s : State) : Host.Outcome State Fault Refusal := .next (solvRow 5 t.tile t.way s)
/-- RELEASE (R248). -/
def execRelease (t : Poster) (s : State) : Host.Outcome State Fault Refusal := .next (solvRow 6 t.tile t.way s)

/-- SOLV_CMD_DONE (R249): a running command ends by its own rules, and the next runnable commands start; `done.hurt` are the packets of the sequencer that met errors. -/
def execSolvCmdDone (d : Die) (done : SolvDone) (s : State) : Host.Outcome State Fault Refusal :=
  .next (match engineGated s, runningCmd s d done.seq.toNat with
    | false, some c => solvKick 80 d (solvComplete d c (packetsHurt (1088 + d.val) done.hurt s))
    | _, _ => s)

/-- SOLV_DEADLINE (R270, R285): at a comparison point the command finds its deadline reached, or that it must end. -/
def execSolvDeadline (d : Die) (seq : BitVec 16) (s : State) : Host.Outcome State Fault Refusal :=
  .next (match engineGated s, runningCmd s d seq.toNat with
    | false, some c => solvKick 80 d (solvCompare d c s)
    | _, _ => s)

/-- The command's descriptor that heads a queue of tile `t` and completes with a code (R126, R149, R202, R209): a matrix descriptor that is not executed, one that runs and meets
poison, or a stream descriptor that runs, with an element and a stream that the spec leaves open. -/
def seqFail (d : Nat) (c : SolvCmd) (t : Nat) (code : Byte) (accFault : Bool) (s : State) : Option State :=
  let mx := (tile s t).mxq.head?.filter fun e => ownSeq d c e.solv
  let st := (tile s t).stq.head?.filter fun e => ownSeq d c e.solv && (tile s t).stRun
  if accFault then (mx.filter fun e => e.skip.isSome).map fun e => seqEndMx t e cFormat s
  else match if code = cPoison then mx.filter fun e => e.skip.isNone && (tile s t).mxRun.isSome else none, st with
    | some e, _ => some (seqEndMx t e cPoison s)
    | none, some e =>
      let r := (Config.free s.freeCount).toNat
      some (seqEndSt t (Config.seqBusy e.ws) e code (if code = cPoison then stick (aStrmStatus t) 10 s
        else stick (aStrmStatus t) 11 (tickFree (stFaultInfo t (causeOf code) (8 + r % 6) (r / 8 % 2 ^ 38) (2 ^ 22) e.seq s))))
    | none, none => none
/-- SOLV_TILE_FAIL (R129, R149, R169, R209, R283, R284): a descriptor of the sequencer on tile `t` completes with another code than DONE. -/
def execSolvTileFail (d : Die) (seq : BitVec 16) (t : Tile) (code : Byte) (storage accFault : Bool) (s : State) : Host.Outcome State Fault Refusal :=
  .next (match engineGated s || decide (code = cDone ∧ !accFault), (runningCmd s d seq.toNat).bind fun c => seqFail d c t code accFault s with
    | false, some s' =>
      seqRefill (if accFault then seqEnded (d, seq.toNat) t cFormat 0x07 false s'
        else seqEnded (d, seq.toNat) t code 0 (decide (code = cReset) || (decide (code = cPoison) && storage)) s')
    | _, _ => s)

end Sys2Proof.Machine
end

