-- ==== Sys2Proof/Machine/Collectives.lean ====
section
/-!
DEFINITION. Machine/Collectives.lean: posts of collectives, fences and the packets between members (R417 to R450).
-/
namespace Sys2Proof.Machine

/-- A collective as its descriptor names it (R423), for a post of tile `t`. -/
def collOf (b : List Byte) (t : Nat) : Coll :=
  { op := leAt b 0 1, rfmt := leAt b 1 1, ctag := leAt b 4 4, vlen := leAt b 16 8, src := leAt b 24 4, dst := leAt b 28 4, stage := leAt b 32 4
    root := leAt b 36 2, countOff := leAt b 40 8, cpl := leAt b 48 8, tile := t }

/-- The collective with its group and counts read from working memory (R418, R435). -/
def collGroup (s : State) (p : Nat) (b : List Byte) (c : Coll) : Coll :=
  let n := leAt b 2 2
  let tb := memBytes s (pkgAddr c.tile (leAt b 8 8)) (4 * n)
  let ms := (List.range n).filterMap fun i => memberOf (leAt tb (4 * i) 4)
  { c with
    members := ms
    me := ms.findIdx (· = ownMember s p)
    hash := leAt (sha3 tb) 0 8
    counts := if c.op = 5 then (let cb := memBytes s (pkgAddr c.tile c.countOff) (8 * n); (List.range n).map fun i => leAt cb (8 * i) 8) else [] }

/-- The vectors of a collective in one tile's collective buffer: first byte and length (R421, R424, R440). -/
def collVectors (s : State) (p : Nat) (c : Coll) : List (Nat × Nat) :=
  if c.op = 7 then []
  else [(c.src, c.vlen), (c.dst, dstLen c)] ++ (if staged s p c then [(c.stage, stageLen c)] else [])
/-- Two vectors meet on a tile. -/
def vecMeet (s : State) (p : Nat) (a b : Nat × Nat) : Bool :=
  let k := tileCount s p
  decide (64 * a.1 < 64 * b.1 + b.2 / k ∧ 64 * b.1 < 64 * a.1 + a.2 / k)
/-- Sources, destinations and staging vectors overlap (R425). -/
def vecOverlap (s : State) (p : Nat) (c : Coll) : Bool :=
  let inPlace := decide ((c.op = 1 ∨ c.op = 6) ∧ c.src = c.dst)
  match collVectors s p c with
  | [a, b] => !inPlace && vecMeet s p a b
  | [a, b, d] => (!inPlace && vecMeet s p a b) || vecMeet s p a d || vecMeet s p b d
  | _ => false

/-- The descriptor's own fields are wrong (R423, R424). -/
def collDescBad (s : State) (p : Nat) (b : List Byte) (c : Coll) : Bool :=
  let n := leAt b 2 2
  decide (c.op = 0 ∨ 8 < c.op ∨ leAt b 38 2 ≠ 0 ∨ leAt b 56 8 ≠ 0 ∨ leAt b 8 8 % 64 ≠ 0 ∨ c.cpl % 64 ≠ 0)
    || (reduces c && decide (16 ≤ c.rfmt ∨ ropOf c = 3)) || decide (c.op = 5 ∧ c.countOff % 64 ≠ 0) || decide (c.op = 6 ∧ n ≤ c.root)
    || decide (c.op ≠ 7 ∧ 1 ≤ n ∧ c.vlen % (64 * tileCount s p * (if c.op = 1 ∨ c.op = 2 ∨ c.op = 4 then n else 1)) ≠ 0)

/-- The first check that a post fails, as code and detail: fields, group, ranges, overlap, counts, peers (R418 to R425, R435). -/
def collFails (s : State) (p : Nat) (b : List Byte) (c : Coll) : Option (Byte × Nat) :=
  let n := leAt b 2 2
  let w := workBytes s p
  if collDescBad s p b c then some (cFormat, 1)
  else if n = 0 ∨ 4096 < n then some (cFormat, 2)
  else if w < leAt b 8 8 + 4 * n ∨ (c.op = 5 ∧ w < c.countOff + 16 * n) ∨ w < c.cpl + 64 then some (cPart, 4)
  else
    let g := collGroup s p b c
    if g.members.length ≠ n ∨ !groupOk s p g then some (cFormat, 2)
    else if (collVectors s p g).any fun v => !vecFits s p v.1 v.2 then some (cPart, 4)
    else if vecOverlap s p g ∨ c.vlen < g.counts.sum then some (cFormat, 1)
    else if g.members.any fun m => !bitOf (part s p).prec.peerMask m.part then some (cPart, 4)
    else none

/-- A post is checked and queued, or ended (R422 to R425). A post that fails a check ends as a collective with its code, without a fence. -/
def collPosted (p : Nat) (b : List Byte) (c : Coll) (s : State) : State :=
  let n := (collPart s p).nextSeq
  let c := { c with seq := n }
  let s := modColl p (fun x => { x with nextSeq := (n + 1) % 65536 }) s
  match collFails s p b c with
  | some e => collFinish p { c with members := [] } e.1 e.2 0xFFF s
  | none =>
    let a := pkgAddr c.tile (leAt b 8 8)
    let bad := anyBad s a (4 * leAt b 2 2) || (decide (c.op = 5) && anyBad s (pkgAddr c.tile c.countOff) (8 * leAt b 2 2))
    let g := collGroup s p b c
    let s := touchRange 1 a (4 * leAt b 2 2) s
    if bad then collFinish p { c with members := [] } cPoison 0 0xFFF s
    else collNext 6 p (modColl p (fun x => { x with held := true, queue := x.queue ++ [g] }) s)
/-- A post is taken, or told to come again where a queue is full (R426): the state and the answer. -/
def collPost (p : Nat) (b : List Byte) (c : Coll) (s : State) : State × Byte × Nat :=
  if 256 ≤ collQueued s ∨ 4 ≤ (collPart s p).queue.length then (collRecord p c cDefer 0 0xFFF 0 (hintOf s 1000) (tickFree s), cDefer, hintOf s 1000)
  else (collPosted p b c s, cDone, 0)

/-- A post that the engine's station refuses (R417). -/
def collRefuse (x : Post) (p : Nat) (code : Byte) (s : State) : State :=
  if workBytes s p < x.off + 64 then s else collRecord p (collOf (memBytes s (pkgAddr x.tile x.off) 64) x.tile) code 0 0xFFF 0 0 s
/-- A post reaches the engine (R417, R422, R426): the state with its record or its queue entry, and the answer. -/
def collAccept (x : Post) (p : Nat) (s : State) : State × Byte × Nat :=
  let a := pkgAddr x.tile x.off
  let b := memBytes s a 64
  let c := collOf b x.tile
  if workBytes s p < x.off + 64 then (s, cPart, 0)
  else
    let s := touchRange 1 a 64 s
    if anyBad s a 64 then (if badWord s (a / 8 + 6) then s else collRecord p c cPoison 0 0xFFF 0 0 s, cPoison, 0)
    else if (part s p).st ≠ .running then (collRecord p c cPart 0 0xFFF 0 0 s, cPart, 0)
    else collPost p b c s
/-- A POST at the station of the engine. -/
def collServe (q : Packet) (s : State) : State := postServe 1132 collRefuse collAccept q s

/-- The row of operation `op` takes the oldest post of tile `t` to the engine; a post with a reserved operation is taken by any row. -/
def collRow (op t : Nat) (way : Transit) (s : State) : State :=
  match nextPost s t .coll, ownerOf s t with
  | some x, some _ =>
    let o := (memByte s (pkgAddr t x.off)).toNat
    if o = op ∨ o = 0 ∨ 8 < o then postOut t .coll way collServe s else s
  | some _, none => takePost t .coll s
  | none, _ => s

/-- ALL_REDUCE (R437). -/
def execAllReduce (t : Poster) (s : State) : Host.Outcome State Fault Refusal := .next (collRow 1 t.tile t.way s)
/-- REDUCE_SCATTER (R437). -/
def execReduceScatter (t : Poster) (s : State) : Host.Outcome State Fault Refusal := .next (collRow 2 t.tile t.way s)
/-- ALL_GATHER (R437). -/
def execAllGather (t : Poster) (s : State) : Host.Outcome State Fault Refusal := .next (collRow 3 t.tile t.way s)
/-- ALL_TO_ALL (R437). -/
def execAllToAll (t : Poster) (s : State) : Host.Outcome State Fault Refusal := .next (collRow 4 t.tile t.way s)
/-- ALL_TO_ALLV (R435). -/
def execAllToAllv (t : Poster) (s : State) : Host.Outcome State Fault Refusal := .next (collRow 5 t.tile t.way s)
/-- BROADCAST (R437). -/
def execBroadcast (t : Poster) (s : State) : Host.Outcome State Fault Refusal := .next (collRow 6 t.tile t.way s)
/-- BARRIER (R437). -/
def execBarrier (t : Poster) (s : State) : Host.Outcome State Fault Refusal := .next (collRow 7 t.tile t.way s)
/-- GATHER_DEMAND (R442). -/
def execGatherDemand (t : Poster) (s : State) : Host.Outcome State Fault Refusal := .next (collRow 8 t.tile t.way s)

/-- The conditions of the fence (R429): the queues may hold descriptors of a sequencer. -/
def fenceReady (s : State) (p : Nat) : Bool :=
  (part s p).prec.tiles.all (fun t =>
    (match (core s t).run with | .waiting _ => (core s t).given.isNone | .stopped => true | _ => false) && (tile s t).mxq.all (fun d => d.solv.isSome) && (tile s t).stq.all (fun d => d.solv.isSome))
    && solvQuiet s p

/-- FENCE_CLOSE (R429, R431). -/
def execFenceClose (p : Part) (s : State) : Host.Outcome State Fault Refusal :=
  .next (
    let x := collPart s p.val
    if x.held ∧ !x.fence ∧ fenceReady s p.val then solvKickAll (collNext 6 p.val (modColl p.val (fun x => { x with fence := true, fenceTick := s.tick }) s)) else s)

/-- A packet of a collective as its header names it. -/
def collRequest (op : Nat) (k : Sender) : Packet :=
  { vc := 3, opcode := BitVec.ofNat 6 op, tag := k.tag, reqEpoch := k.epoch, txid := k.txid, srcStn := k.stn, dstStn := 1132, way := k.way }
/-- The engine answers a packet. -/
def collReply (q : Packet) (code : Byte) (hint : Nat) (s : State) : State := answer 1132 q code [] 0 hint s

/-- A packet for partition `p` reaches station 1132; `f` takes it where unit and partition serve it, in the order of R593 (R57, R72, R73, R346, R351, R417, R419). -/
def collArrive (p : Nat) (q : Packet) (f : State → State) (s : State) : State :=
  let s := countCorrected q.way s
  if q.way.hdr ≠ .ok then discardHeader q s
  else if unitState s 1132 = .failed then collReply q cOff 0 s
  else if !bitOf (part s p).prec.peerMask q.tag.toNat then collReply q cPart 0 (logEvent (reqRec 1132 q 0x02 cPart p) s)
  else match unitGateFor (whoOf q) 1132 (wakeBitOf q) s with
    | some g => gateAnswer 1132 q g
    | none => if (part s p).st = .running then f s else collReply q cPart 0 s

/-- Hold a record in the pending table (R431, R445). -/
def pendHold (p : Nat) (q : Packet) (r : PendRec) (s : State) : State :=
  if 1024 ≤ s.coll.pend.length then collReply q cDefer 10000 (stick aCollStatus 43 s)
  else collReply q cDone 0 { s with coll := { s.coll with pend := s.coll.pend ++ [(p, r)] } }

/-- The collective of partition `p` that runs under a CTAG with other members. -/
def collRunning (s : State) (p ctag : Nat) : Option Coll :=
  match (collPart s p).run with
  | some c => if c.ctag = ctag ∧ c.fence.isSome ∧ c.op ≠ 8 then some c else none
  | none => none

/-- READY (R419, R431, R432). -/
def execReady (p : Part) (r : ReadyRec) (s : State) : Host.Outcome State Fault Refusal :=
  .next (
    let q := collRequest 0x31 r.via
    solvKickAll (collArrive p.val q (fun s =>
      match collRunning s p.val r.ctag.toNat with
      | some c =>
        let i := r.index.toNat
        if nOf c ≤ i ∨ i = c.me ∨ !bitOf (part s p.val).prec.peerMask (c.members.getD i {}).part then collReply q cPart 0 s
        else withColl p.val (takeReady p.val c r s.tick) (collReply q cDone 0 s)
      | none => pendHold p.val q (.ready r s.tick) s) s))

/-- CDATA (R432, R434): data of a member whose READY came is taken in its phase, other data is discarded and sets MISMATCH. -/
def execCdata (p : Part) (d : CollData) (s : State) : Host.Outcome State Fault Refusal :=
  .next (
    let q := collRequest 0x30 d.via
    solvKickAll (collArrive p.val q (fun s =>
      let s := collReply q cDone 0 s
      match collRunning s p.val d.ctag.toNat with
      | none => s
      | some c =>
        if !c.ready.any (fun r => decide (r.1 = d.sender)) then collEvent p.val 0 0 d.sender d.ctag.toNat 42 s
        else if d.phase < c.phase then s
        else withColl p.val (modRun p.val fun c => { c with early := c.early ++ [d] }) s) s))

/-- CCTL_DONE (R434): a member's data for a phase is complete. -/
def execCctlDone (p : Part) (k : Sender) (ctag : BitVec 32) (s : State) : Host.Outcome State Fault Refusal :=
  .next (
    let q := collRequest 0x31 k
    solvKickAll (collArrive p.val q (fun s =>
      let s := collReply q cDone 0 s
      match collRunning s p.val ctag.toNat with
      | none => s
      | some c =>
        if !c.ready.any (fun r => decide (r.1 = k.index)) then s
        else withColl p.val (modRun p.val fun c => { c with dones := tabSet 0 k.index (tabGet 0 k.index c.dones + 1) c.dones }) s) s))

/-- ABORT (R445): the collective ends with the code and detail PEER, or the record waits for its start. -/
def execAbort (p : Part) (k : Sender) (ctag : BitVec 32) (code : Byte) (s : State) : Host.Outcome State Fault Refusal :=
  .next (
    let q := collRequest 0x31 k
    solvKickAll (collArrive p.val q (fun s =>
      match collRunning s p.val ctag.toNat with
      | some _ => collNext 6 p.val (collEnd p.val code 6 k.index (collReply q cDone 0 s))
      | none => pendHold p.val q (.abort k.index ctag.toNat code) s) s))

/-- COLL_TIMEOUT (R444): the timer of a collective whose fence closed expires. -/
def execCollTimeout (p : Part) (s : State) : Host.Outcome State Fault Refusal :=
  .next (match (collPart s p.val).run with
    | some c => if c.fence.isSome then solvKickAll (collNext 6 p.val (collEnd p.val cTimeout 0 0xFFF s)) else s
    | none => s)

end Sys2Proof.Machine
end

