-- ==== Sys2Proof/Machine/Audit.lean ====
section
/-!
DEFINITION. Machine/Audit.lean: digest commands and step views (R473 to R486).
-/
namespace Sys2Proof.Machine

/-! ### The command block and its regions (R480, R481) -/

/-- SAVE_W and USE_W. -/
def digSave (c : DigCmd) : Bool := bitOf (leAt c.blk 1 1) 0
def digUse (c : DigCmd) : Bool := bitOf (leAt c.blk 1 1) 1
/-- WSLOT. -/
def digSlot (c : DigCmd) : Nat := leAt c.blk 2 1
/-- The record's offset. -/
def digCpl (c : DigCmd) : Nat := leAt c.blk 16 8
/-- NW, NI and NO. -/
def digCounts (c : DigCmd) : Nat × Nat × Nat := (leAt c.blk 3 1, leAt c.blk 4 1, leAt c.blk 5 1)
/-- The number of regions. -/
def digRegions (c : DigCmd) : Nat := (digCounts c).1 + (digCounts c).2.1 + (digCounts c).2.2
/-- A region of the list (R481): kind, tile index, offset and length. -/
structure DigRegion where
  kind : Nat := 0
  idx : Nat := 0
  off : Nat := 0
  len : Nat := 0
  resv : Nat := 0
deriving DecidableEq, Repr, Inhabited
/-- The region list of a command. -/
def regionList (s : State) (c : DigCmd) : List DigRegion :=
  let l := memBytes s (pkgAddr c.tile (leAt c.blk 8 8)) (32 * digRegions c)
  (List.range (digRegions c)).map fun i =>
    let o := 32 * i
    { kind := leAt l o 1, idx := leAt l (o + 2) 2, off := leAt l (o + 8) 8, len := leAt l (o + 16) 8
      resv := leAt l (o + 1) 1 + leAt l (o + 4) 4 + leAt l (o + 24) 8 }

/-- A field of the block has a reserved value (R480). -/
def digBlockBad (c : DigCmd) : Bool :=
  let n := digCounts c
  decide (leAt c.blk 0 1 ≠ 1 ∨ 3 < leAt c.blk 1 1 ∨ 7 < digSlot c ∨ 16 < n.1 ∨ 16 < n.2.1 ∨ n.2.2 = 0 ∨ 16 < n.2.2 ∨ leAt c.blk 6 2 ≠ 0
    ∨ leAt c.blk 8 8 % 64 ≠ 0 ∨ digCpl c % 64 ≠ 0) || (digUse c && decide (n.1 ≠ 0)) || (slice c.blk 32 32).any (· != 0)
/-- A field of a region has a reserved value (R481). -/
def digRegionBad (s : State) (p : Nat) (r : DigRegion) : Bool :=
  decide (2 < r.kind ∨ r.resv ≠ 0 ∨ r.len = 0 ∨ (r.kind ≠ 1 ∧ r.idx ≠ 0) ∨ (r.kind = 1 ∧ tileCount s p ≤ r.idx))
/-- A region lies outside working memory or the partition's board-store region (R74, R484). -/
def digRegionOut (s : State) (p : Nat) (r : DigRegion) : Bool :=
  decide ((if r.kind = 2 then (part s p).prec.bstSize else workBytes s p) < r.off + r.len)

/-- The checks of a post (R479, R484): code and detail. -/
def digFails (s : State) (c : DigCmd) : Option (Byte × Nat) :=
  let p := c.part
  if (part s p).prec.audit ≠ 1 then some (cFormat, 4)
  else if digBlockBad c then some (cFormat, 1)
  else if workBytes s p < leAt c.blk 8 8 + 32 * digRegions c ∨ workBytes s p < digCpl c + 256 then some (cPart, 2)
  else if (regionList s c).any (digRegionBad s p) then some (cFormat, 1)
  else if (regionList s c).any (digRegionOut s p) then some (cPart, 2)
  else none

/-! ### Records (R483, R484) -/

/-- The preimage of R483. -/
def preimage (s : State) (c : DigCmd) (w i o : List Byte) : List Byte :=
  let x := part s c.part
  let seed := slice x.seedDigest 0 32
  leBytes 4 0x54534744 ++ leBytes 1 1 ++ leBytes 1 c.part ++ leBytes 1 x.prec.mode ++ leBytes 1 1 ++ leBytes 8 (reg s aImgActive).toNat
    ++ leBytes 8 c.step.toNat ++ slice c.blk 24 8 ++ slice x.progDigest 0 32 ++ seed ++ w ++ i ++ o
/-- Write a record (R484): bytes 8 to 255, then word 0; DIG_FAULT follows the code. -/
def digRecord (c : DigCmd) (code : Byte) (detail w1 hashed : Nat) (digest pre : List Byte) (s : State) : State :=
  let a := pkgAddr c.tile (digCpl c)
  let s := if code = cDone ∨ code = cDefer then s else stick (aImgAudit c.part) 19 s
  if workBytes s c.part < digCpl c + 256 ∨ digCpl c % 64 ≠ 0 then s
  else
    let rest := leBytes 8 w1 ++ leBytes 8 hashed ++ leBytes 8 0 ++ slice digest 0 32 ++ slice pre 0 192
    spWrite 1 a (leBytes 8 (code.toNat + 2 ^ 8 * detail + 2 ^ 32 * c.seq + 2 ^ 63)) (spWrite 1 (a + 8) rest s)
/-- A record of a command that computed no digest: the hashes in its preimage, which are not given, are a function of the bytes that it read (R469; log entry 29). -/
def digFailed (c : DigCmd) (code : Byte) (detail w1 : Nat) (w i o : List Byte) (s : State) : State :=
  let h (j : Nat) (l : List Byte) : List Byte := slice (Config.digHash code.toNat j c.blk l) 0 32
  digRecord c code detail w1 (w.length + i.length + o.length) [] (preimage s c (h 0 w) (h 1 i) (h 2 o)) s

/-- The command that a post of partition `p` names, with its block as it stands. -/
def digPosted (s : State) (x : Post) (p : Nat) : DigCmd := { part := p, tile := x.tile, step := x.step, blk := memBytes s (pkgAddr x.tile x.off) 64 }
/-- A post that the station of family control refuses. -/
def digRefuse (x : Post) (p : Nat) (code : Byte) (s : State) : State :=
  if workBytes s p < x.off + 64 then s else digFailed (digPosted s x p) code 0 0 [] [] [] s
/-- A post reaches the engine (R479, R480, R485): the state with its record or its queue entry, and the answer. -/
def digAccept (x : Post) (p : Nat) (s : State) : State × Byte × Nat :=
  let a := pkgAddr x.tile x.off
  let c := digPosted s x p
  if workBytes s p < x.off + 64 then (s, cPart, 0)
  else
    let bad := anyBad s a 64
    let lost := badWord s (a / 8 + 2)
    let s := touchRange 1 a 64 s
    if bad ∧ lost then (s, cPoison, 0)
    else if 64 ≤ s.dig.length ∨ 4 ≤ s.dig.countP (fun c => decide (c.part = p)) then (digFailed c cDefer 0 (hintOf s 1000) [] [] [] (tickFree s), cDefer, hintOf s 1000)
    else
      let n := (part s p).digSeq
      let c := { c with seq := n }
      let s := modPart p (fun x => { x with digSeq := (n + 1) % 65536 }) s
      if bad then (digFailed c cPoison 0 s.tick [] [] [] s, cPoison, 0)
      else match digFails s c with
        | some e => (digFailed c e.1 e.2 s.tick [] [] [] s, cDone, 0)
        | none => ({ s with dig := s.dig ++ [c] }, cDone, 0)
/-- A POST at family control. -/
def digServe (q : Packet) (s : State) : State := postServe 1134 digRefuse digAccept q s

/-- DIGEST (R479, R480): the oldest digest post of the tile reaches the engine. -/
def execDigest (t : Poster) (s : State) : Host.Outcome State Fault Refusal :=
  .next (match nextPost s t.tile.val .dig, ownerOf s t.tile.val with
    | some _, some _ => postOut t.tile.val .dig t.way digServe s
    | some _, none => takePost t.tile.val .dig s
    | none, _ => s)

/-! ### Hashing (R482) -/

/-- The bytes of one region read in order, with the first code other than DONE. -/
def digRead (p : Nat) (r : DigRegion) (s : State) : State × List Byte × Byte :=
  if r.kind = 2 then
    let y := bstRead 0x40 0 ((part s p).prec.bstBase + r.off) r.len s
    (y.1, y.2.bytes, y.2.code)
  else
    let ts := if r.kind = 1 then [((part s p).prec.tiles.getD r.idx 0)] else (part s p).prec.tiles
    ts.foldl (fun (x : State × List Byte × Byte) t =>
      let a := pkgAddr t r.off
      (touchRange 1 a r.len x.1, x.2.1 ++ memBytes x.1 a r.len, if anyBad x.1 a r.len then cPoison else x.2.2)) (s, [], cDone)
/-- The bytes of a group of regions. -/
def digGroup (p : Nat) (rs : List DigRegion) (s : State) : State × List Byte × Byte :=
  rs.foldl (fun (x : State × List Byte × Byte) r =>
    if x.2.2 ≠ cDone then x
    else let y := digRead p r x.1; (y.1, x.2.1 ++ y.2.1, y.2.2)) (s, [], cDone)

/-- The oldest command ends (R482 to R486). A board-store read that is answered DEFER is sent again (R341): the command stays in front. -/
def digFinish (c : DigCmd) (s : State) : State :=
  let p := c.part
  let n := digCounts c
  let rs := regionList s c
  if digUse c ∧ (tabFind (digSlot c) (part s p).wslots).isNone then digFailed c cFormat 3 s.tick [] [] [] s
  else if anyBad s (pkgAddr c.tile (leAt c.blk 8 8)) (32 * digRegions c) then
    digFailed c cPoison 0 s.tick [] [] [] (touchRange 1 (pkgAddr c.tile (leAt c.blk 8 8)) (32 * digRegions c) s)
  else
    let w := digGroup p (rs.take n.1) s
    let i := digGroup p ((rs.drop n.1).take n.2.1) w.1
    let o := digGroup p (rs.drop (n.1 + n.2.1)) i.1
    let s := o.1
    let hashed := w.2.1.length + i.2.1.length + o.2.1.length
    let code := if w.2.2 ≠ cDone then w.2.2 else if i.2.2 ≠ cDone then i.2.2 else o.2.2
    if code = cDefer then { s with dig := c :: s.dig }
    else if code ≠ cDone then digFailed c code 0 s.tick w.2.1 i.2.1 o.2.1 s
    else
      let hw := if digUse c then tabGet [] (digSlot c) (part s p).wslots else sha3 w.2.1
      let pre := preimage s c hw (sha3 i.2.1) (sha3 o.2.1)
      let s := digRecord c cDone 0 s.tick hashed (sha3 pre) pre s
      if digSave c then modPart p (fun x => { x with wslots := tabPut (digSlot c) hw x.wslots }) s else s

/-- DIGEST_DONE (R484 to R486): the oldest command ends and its record is written. -/
def execDigestDone (s : State) : Host.Outcome State Fault Refusal :=
  .next (match s.dig with
    | [] => s
    | c :: rest => digFinish c { s with dig := rest })

/-! ### Step views -/

/-- STEP_ADV (R474). -/
def execStepAdv (t : Tile) (s : State) : Host.Outcome State Fault Refusal := .next (stepAdvance t.val s)

/-- A write to IMG_STEP_p (R475). -/
def imgStepOp (p : Nat) (v : Word) (s : State) : State :=
  if (part s p).st = .stopped ∨ (part s p).st = .faulted then
    (part s p).prec.tiles.foldl (fun s t => modTile t (fun x => { x with step := v }) s) s
  else stick (aImgAudit p) 18 s
/-- IMG_STEP_WRITE (R475). -/
def execImgStepWrite (p : Part) (v : Word) (s : State) : Host.Outcome State Fault Refusal := .next (imgStepOp p.val v s)

end Sys2Proof.Machine
end

