-- ==== Sys2Proof/Machine/BoardStore.lean ====
section
/-!
DEFINITION. Machine/BoardStore.lean: requests to the cache and to the channels, refresh windows and flushes (R311, R312, R320 to R325, R604).
-/
namespace Sys2Proof.Machine

/-- The number of bytes of a request. -/
def reqLen (q : Packet) : Nat := q.bytesM1.toNat + 1
/-- The POISON bits of a response from the poisoned words of a board-store range (R603). -/
def bstPoison (q : Packet) (bad : List Nat) : Nat :=
  ((List.range 9).map fun i => if bad.any fun w => decide (8 * (q.addr.toNat / 64 + i) ≤ w ∧ w < 8 * (q.addr.toNat / 64 + i + 1)) then 2 ^ i else 0).sum

/-! ### Cache requests at a set's tile (R72, R74, R298, R320) -/

/-- The refusal of a cache request, in the order of R593: the unit address names no unit (R31), the cache is out of service, the tag is not the tile's owner's and the line not the
requester's own (R72), or a line of the range is not the requester's own (R74). -/
def cacheRefuse (q : Packet) (s : State) : Option State :=
  let n := q.dstStn.toNat
  let A := q.addr.toNat / 128
  if !unitExists s q.dstUnit.toNat then some (unitRefuse q s)
  else if 1088 ≤ n then some (answer n q cFormat [] 0 0 s)
  else if domSt s (memDomain (n / 272)) = .failed then some (answer n q cOff [] 0 0 s)
  else
    let lines := (List.range ((q.addr.toNat + reqLen q - 1) / 128 - A + 1)).map (A + ·)
    let own := decide (q.tag = 0x40) || lines.all fun B => decide (linePart s B = some q.tag.toNat)
    let owner := match stationTile s n with | some t => tagOf s t | none => 0x40
    if !own && decide (owner ≠ q.tag.toNat) then some (answer n q cPart [] 0 0 (logEvent (reqRec n q 0x02 cPart owner) s))
    else match memGateFor (whoOf q) n (wakeBitOf q) s with
    | some x => some (gateAnswer n q x)
    | none =>
      if !own then some (answer n q cPart [] 0 0 s)
      else if domSt s 28 ≠ .failed ∧ bstCapacity s < q.addr.toNat + reqLen q then some (answer n q cFormat [] 0 0 s)
      else none

/-- A cache read (R320, R323). One with the hint LAST stands for its descriptor's last access to each line that it covers (DESIGN CHOICE, log entry 17: a request does
not say which access is the last). -/
def serveCrd (q : Packet) (s : State) : State :=
  match cacheRefuse q s with
  | some s' => s'
  | none =>
    let n := q.dstStn.toNat
    let r := bstRead q.tag.toNat q.hint.toNat q.addr.toNat (reqLen q) s
    if r.2.code = cDefer then answer n q cDefer [] 0 (phyTicks (whoOf q) r.1) r.1
    else if r.2.code = cDone ∨ r.2.code = cPoison then
      let s := answer n q r.2.code r.2.bytes (bstPoison q r.2.bad) 0 r.1
      if q.hint = 2 then (List.range ((q.addr.toNat + reqLen q - 1) / 128 - q.addr.toNat / 128 + 1)).foldl (fun s i => endLast (q.addr.toNat / 128 + i) s) s else s
    else answer n q r.2.code [] 0 0 r.1

/-- A cache write (R320, R323). -/
def serveCwr (q : Packet) (data : List Byte) (s : State) : State :=
  match cacheRefuse q s with
  | some s' => s'
  | none =>
    let n := q.dstStn.toNat
    let r := bstWrite q.tag.toNat q.hint.toNat q.addr.toNat (slice data 0 (reqLen q)) (decide (q.poison ≠ 0)) s
    answer n q r.2 [] 0 (if r.2 = cDefer then phyTicks (whoOf q) r.1 else 0) r.1

/-- CRD (R320). -/
def execCrd (p : Packet) (s : State) : Host.Outcome State Fault Refusal := .next (arrive 0x03 p [] (viaPort [] serveCrd) s)
/-- CWR (R320). -/
def execCwr (p : Packet) (data : List Byte) (s : State) : Host.Outcome State Fault Refusal := .next (arrive 0x04 p data (viaPort data fun q => serveCwr q data) s)

/-! ### Requests at a channel (R309, R312, R315, R325) -/

/-- The refusal of a request at a channel: no such unit (R31), PHY off, channel not active, or not the line's channel. -/
def chanRefuse (q : Packet) (s : State) : Option State :=
  let n := q.dstStn.toNat
  if !unitExists s q.dstUnit.toNat then some (unitRefuse q s)
  else if n < 1120 ∨ 1131 < n then some (answer n q cFormat [] 0 0 s)
  else match gateUnit n q s with
    | some s' => some s'
    | none =>
      if (tabGet {} (n - 1120) s.bst.chans).st ≠ .trained then some (answer n q cOff [] 0 0 s)
      else if lineChan s (q.addr.toNat / 128) ≠ n - 1120 ∨ 128 < q.addr.toNat % 128 + reqLen q then some (answer n q cFormat [] 0 0 s)
      else none

/-- A burst of a read, accepted in epoch `ep`, that passes its check (R312, R343). -/
def burstRead (ep : Nat) (q : Packet) (s : State) : State :=
  let r := chanRead s (q.addr.toNat / 128)
  answerAs ep q.dstStn.toNat q r.code (slice r.bytes (q.addr.toNat % 128) (reqLen q)) (if r.code = cPoison then 2 ^ ceilDiv (q.addr.toNat % 64 + reqLen q) 64 - 1 else 0) 0 s
/-- A burst of a write, accepted in epoch `ep`, that passes its check (R315, R343, R604). -/
def burstWrite (ep : Nat) (q : Packet) (data : List Byte) (s : State) : State :=
  let r := writeAround (q.addr.toNat / 128) (q.addr.toNat % 128) (slice data 0 (reqLen q)) (decide (q.poison ≠ 0)) s
  answerAs ep q.dstStn.toNat q r.2 [] 0 0 r.1
/-- A burst that has failed waits for the next refresh window (R312). -/
def burstWait (c : Nat) (b : BurstRetry) (s : State) : State :=
  modBst (fun x => { x with chans := tabSet {} c { tabGet {} c x.chans with retry := (tabGet {} c x.chans).retry ++ [b] } x.chans }) s
/-- A burst that has failed three times (R312, R595). -/
def burstLost (b : BurstRetry) (s : State) : State :=
  let A := b.q.addr.toNat / 128
  let s := stick aBstStatus 0 s
  if b.write then
    let r := loseLine A s
    let s := if r.2 then logEvent (bstRec s A 0) r.1 else r.1
    answerAs b.epoch b.q.dstStn.toNat b.q (if r.2 then cDone else cPoison) [] 0 0 s
  else
    answerAs b.epoch b.q.dstStn.toNat b.q cPoison (List.replicate (reqLen b.q) 0) (2 ^ ceilDiv (b.q.addr.toNat % 64 + reqLen b.q) 64 - 1) 0 (logEvent (bstRec s A 0) s)

/-- A read at a channel. -/
def serveBrd (edcOk : Bool) (q : Packet) (s : State) : State :=
  match chanRefuse q s with
  | some s' => s'
  | none =>
    let ep := (niOf s q.dstStn.toNat).epoch
    if edcOk then burstRead ep q s else burstWait (q.dstStn.toNat - 1120) { q := q, epoch := ep } s
/-- A write at a channel. -/
def serveBwr (data : List Byte) (edcOk : Bool) (q : Packet) (s : State) : State :=
  match chanRefuse q s with
  | some s' => s'
  | none =>
    let ep := (niOf s q.dstStn.toNat).epoch
    if edcOk then burstWrite ep q data s else burstWait (q.dstStn.toNat - 1120) { q := q, data := data, write := true, epoch := ep } s

/-- BRD (R332, R312): `edcOk` says that the burst passes its EDC check. -/
def execBrd (p : Packet) (edcOk : Bool) (s : State) : Host.Outcome State Fault Refusal := .next (arrive 0x05 p [] (serveBrd edcOk) s)
/-- BWR (R312). -/
def execBwr (p : Packet) (data : List Byte) (edcOk : Bool) (s : State) : Host.Outcome State Fault Refusal :=
  .next (arrive 0x06 p data (serveBwr data edcOk) s)

/-- REFRESH_WINDOW (R311, R312, R313): the waiting bursts of the channel are retried, `retryOk` giving their checks in order, and after them the checks of the
channel's next bursts that belong to accesses which the model carries out within one command (log entry 17); `waited` counts bclk of waiting accesses. -/
def execRefreshWindow (c : Chan) (hot : Bool) (retryOk : List Bool) (waited : Nat) (s : State) : Host.Outcome State Fault Refusal :=
  .next (
    let x : ChanSt := tabGet {} c.val s.bst.chans
    if x.st ≠ .trained then s
    else
      let s := modBst (fun b => { b with chans := tabSet {} c.val { tabGet {} c.val b.chans with hot := hot, retry := [], edc := retryOk.drop x.retry.length } b.chans }) s
      let s := (x.retry.mapIdx fun i b => (i, b)).foldl (fun s ib =>
        if retryOk.getD ib.1 true then (if ib.2.write then burstWrite ib.2.epoch ib.2.q ib.2.data s else burstRead ib.2.epoch ib.2.q s)
        else if ib.2.tries < 2 then burstWait c.val { ib.2 with tries := ib.2.tries + 1 } s
        else burstLost ib.2 s) s
      bump (aBstRefreshWait c.val) waited aBstStatus 3 s)

/-! ### Flush (R324) -/

/-- BST_FLUSH: a write with START begins to write back a partition's region or the pool; it is ignored while a flush is in progress. -/
def bstFlushWrite (v : Word) (s : State) : State :=
  if v.getLsbD 7 ∧ s.bst.flush.isNone then modBst (fun b => { b with flush := some (if v.getLsbD 6 then none else some (wfld v 0 6)) }) s else s
/-- BST_FLUSH (R324). -/
def execBstFlush (v : Word) (s : State) : Host.Outcome State Fault Refusal := .next (bstFlushWrite v s)

/-- BST_FLUSH_DONE (R324, R325): the dirty lines are written back and stay cached as clean; FLUSH_DONE is set. While the PHY is off the flush wakes it and goes on
when it is on, or leaves the lines dirty where it may not wake. -/
def execBstFlushDone (s : State) : Host.Outcome State Fault Refusal :=
  .next (match s.bst.flush with
    | none => s
    | some f =>
      let r : Nat × Nat := match f with | some p => regionOf s p | none => (s.bst.poolBase, s.bst.poolSize)
      match flushWait r.1 (r.1 + r.2) s with
      | some s' => s'
      | none => stick aBstStatus 4 (modBst (fun b => { b with flush := none }) (flushSets r.1 (r.1 + r.2) s)))

end Sys2Proof.Machine
end

