-- ==== Sys2Proof/Machine/Links.lean ====
section
/-!
DEFINITION. Machine/Links.lean: frames received, replay, lanes, presence and training of the fabric ports (R357 to R389).
-/
namespace Sys2Proof.Machine

/-! ### Frames received (R361, R362) -/

/-- A SEQ or FCOUNT comparison: how far `a` is ahead of `b` modulo 2^16. -/
def seqAhead (a b : Nat) : Nat := (a + 65536 - b % 65536) % 65536

/-- The counters of a received frame (R389, R390, R595), and the loss after 16 tags in a row that fail (R381). -/
def frameCounts (n : Nat) (f : Frame) (s : State) : State :=
  let s := if f.fecCorrected = 0 then s else logEvent { event := 0x0A } (bump (aLnkFecCe n) f.fecCorrected (aLnkStatus n) 24 s)
  let s := bump (aLnkFecUe n) f.fecUe (aLnkStatus n) 24 s
  let s := if f.fcsOk then s else bump (aLnkCrcErr n) 1 (aLnkStatus n) 24 s
  if !(port s n).encrypted then s
  else if f.tagOk then modPort n (fun x => { x with authRun := 0 }) s
  else
    let s := modPort n (fun x => { x with authRun := x.authRun + 1 }) (bump (aLnkAuthFail n) 1 (aLnkStatus n) 24 s)
    if 16 ≤ (port s n).authRun then loseLink n 4 s else s

/-- The four conditions of R362. -/
def frameOk (x : PortSt) (f : Frame) : Bool := f.fecOk && f.fcsOk && (!x.encrypted || f.tagOk) && decide (x.rxCount < f.fcount.toNat)

/-- Resend every frame of the replay buffer, oldest first (R363). -/
def resendAll (n : Nat) (s : State) : State :=
  let l := (port s n).replay
  if l.isEmpty then s
  else logEvent { event := 0x0A } (l.foldl (fun s t => bump (aLnkReplays n) 1 (aLnkStatus n) 24 (sendFrame n { seq := t.seq, slots := t.slots } s)) s)

/-- The credits that the oldest frame not acknowledged took along, which a NAK says was not accepted, are to be sent again (R360, R362). -/
def PortSt.recredit (x : PortSt) : PortSt :=
  match x.replay with
  | [] => x
  | t :: r => { x with freed := x.freed.mapIdx (fun v k => k + t.credit.getD v 0), replay := { t with credit := [] } :: r }
/-- The control fields of an accepted frame (R359, R362, R363, R366). -/
def frameControl (n : Nat) (f : Frame) (s : State) : State :=
  let s := modPort n (fun x =>
    let i := x.replay.findIdx? fun t => decide (t.seq = f.ack.toNat)
    { x with
      rxCount := f.fcount.toNat
      replay := match i with | some i => x.replay.drop (i + 1) | none => x.replay
      credits := x.credits.mapIdx fun v c => c + (f.credit.getD v 0).toNat }) s
  let s := if f.swapReq ∧ 1 ≤ (port s n).minor ∧ (port s n).txSwap.isNone then
      let q := ((port s n).txSeq + 17) % 65536
      sendEmpty n false (modPort n (fun x => { x with txSwap := some (q, f.lane.toNat) }) s)
    else s
  let s := if f.swapAck ∧ (port s n).swapReq.isSome then
      modPort n (fun x => { x with rxSwap := x.swapReq.map fun j => (f.swapSeq.toNat, j), swapReq := none }) s
    else s
  let s := if f.nak then resendAll n (modPort n PortSt.recredit s) else s
  linkPump ((port s n).txq.length + 1) n s

/-- The receive map changes at frame S (R359). -/
def rxSwitch (n q : Nat) (s : State) : State :=
  match (port s n).rxSwap with
  | some (k, j) =>
    if k = q then stick (aLnkStatus n) 22 (logEvent { event := 0x0A } (modPort n (fun x => { x with rxIdle := j, rxSpare := false, rxSwap := none }) s)) else s
  | none => s

/-- Send NAK once (R362). -/
def sendNak (n : Nat) (s : State) : State :=
  if (port s n).nak then s else sendEmpty n true (modPort n (fun x => { x with nak := true }) s)

/-- DATA_FRAME (R362). -/
def execDataFrame (n : Port) (f : Frame) (s : State) : Host.Outcome State Fault Refusal :=
  .next (
    if !portUp s n.val then s
    else
      let ok := frameOk (port s n.val) f
      let s := frameCounts n.val f s
      if !portUp s n.val then s
      else if !ok then sendNak n.val s
      else
        let s := frameControl n.val f s
        let d := seqAhead f.seq.toNat (port s n.val).rxSeq
        if d = 1 then
          let s := modPort n.val (fun x => { x with rxSeq := f.seq.toNat, nak := false }) (rxSwitch n.val f.seq.toNat s)
          sendEmpty n.val false (f.slots.foldl (fun s x => takeSlot n.val x s) s)
        else if d = 0 ∨ 0x8000 ≤ d then s
        else sendNak n.val s)

/-- EMPTY_FRAME (R361). -/
def execEmptyFrame (n : Port) (f : Frame) (s : State) : Host.Outcome State Fault Refusal :=
  .next (
    if !portUp s n.val then s
    else
      let ok := frameOk (port s n.val) f
      let s := frameCounts n.val f s
      if ok ∧ portUp s n.val then frameControl n.val f s else s)

/-- TRAIN_FRAME (R374, R381, R387): a record in NEGOTIATE, the confirmation of KEY, or the loss of an ACTIVE link. -/
def execTrainFrame (n : Port) (rec : List Byte) (keyOk : Bool) (s : State) : Host.Outcome State Fault Refusal :=
  .next (
    match (port s n.val).st with
    | .active => loseLink n.val 5 s
    | .negotiate => modPort n.val (fun x => { x with peer := slice rec 0 64 }) s
    | .key => if keyOk ∧ s.sec.fabric.isSome then modPort n.val (fun x => { x with keyOk := true }) s else attemptFail n.val 0x04 s
    | _ => s)

/-- CLOSE_FRAME (R381, R386). -/
def execCloseFrame (n : Port) (f : Frame) (s : State) : Host.Outcome State Fault Refusal :=
  .next (
    if !portUp s n.val then s
    else
      let ok := frameOk (port s n.val) f
      let s := frameCounts n.val f s
      if ok then loseLink n.val 5 s else s)

/-- NAK_RESEND (R362): the expected frame has not arrived 10 µs after the NAK. -/
def execNakResend (n : Port) (s : State) : Host.Outcome State Fault Refusal :=
  .next (if portUp s n.val ∧ (port s n.val).nak then sendEmpty n.val true s else s)

/-- REPLAY_RESEND (R363). -/
def execReplayResend (n : Port) (s : State) : Host.Outcome State Fault Refusal := .next (if portUp s n.val then resendAll n.val s else s)

/-- REPLAY_TIMEOUT (R364). -/
def execReplayTimeout (n : Port) (s : State) : Host.Outcome State Fault Refusal :=
  .next (if portUp s n.val ∧ !(port s n.val).replay.isEmpty then loseLink n.val 2 s else s)

/-! ### Lanes and presence (R357 to R359, R380, R385) -/

/-- LANE_RETIRE (R358, R359): a spare is asked for, or the link is lost. -/
def execLaneRetire (n : Port) (lane : Fin 10) (s : State) : Host.Outcome State Fault Refusal :=
  .next (
    let x := port s n.val
    if x.st ≠ .active then s
    else if lane.val = x.rxIdle then modPort n.val (fun x => { x with rxSpare := false }) s
    else if x.rxSpare ∧ x.swapReq.isNone ∧ x.rxSwap.isNone ∧ getB s (aLnkCtrl n.val) 2 ∧ 1 ≤ x.minor then
      sendEmpty n.val false (modPort n.val (fun x => { x with swapReq := some lane.val }) s)
    else loseLink n.val 3 s)

/-- PRESENCE_GAINED (R380, R385). -/
def execPresenceGained (n : Port) (s : State) : Host.Outcome State Fault Refusal :=
  .next (
    if (port s n.val).present then s
    else
      let s := modPort n.val (fun x => { x with present := true, epoch := (x.epoch + 1) % 256 }) s
      let s := endForwards n.val false s
      let old (e : Nat × NiEntry) : Bool := match e.2.use with | .link _ _ _ ep => decide (ep ≠ (port s n.val).epoch) | _ => false
      let late := (niOf s (portStn n.val)).entries.countP old
      let s := bump (aLnkLateDrops n.val) late (aLnkStatus n.val) 24 s
      let s := modNi (portStn n.val) (fun i => { i with entries := i.entries.filter fun e => !old e }) s
      let s := modPort n.val (fun x => { x.cleared with attempts := 0 }) s
      match (port s n.val).st with
      | .disabled => s
      | .waitLoc => s
      | _ => reroute (startAttempt n.val s))

/-- PRESENCE_LOST (R372, R380, R381). -/
def execPresenceLost (n : Port) (s : State) : Host.Outcome State Fault Refusal :=
  .next (
    if !(port s n.val).present then s
    else
      let s := modPort n.val (fun x => { x with present := false }) s
      if portUp s n.val then loseLink n.val 1 s
      else if inAttempt (port s n.val) then modPort n.val (fun x => { x.cleared with st := .detect, reason := 0x05 }) s
      else modPort n.val (fun x => { x with beacon := false }) s)

/-! ### Training (R369 to R376, R387) -/

/-- The lowest lane of a map that is not set, or 9. -/
def idleOf (lanes : BitVec 10) : Nat := ((List.range 10).find? fun i => !bitOf lanes.toNat i).getD 9
/-- The nine data lanes of a map are all set. -/
def dataLanes (idle : Nat) (lanes : BitVec 10) : Bool := (List.range 10).all fun i => decide (i = idle) || bitOf lanes.toNat i

/-- The link keys of R588. -/
def linkKeys (s : State) (n : Nat) : List (List Byte) :=
  let x := port s n
  let fk := match s.sec.fabric with | some k => k.2 | none => []
  let own := slice x.nonce 0 16
  let peer := slice x.peer 32 16
  let key := "DZL key".toUTF8.toList.map fun c => BitVec.ofNat 8 c.toNat
  let salt := "DZL salt".toUTF8.toList.map fun c => BitVec.ofNat 8 c.toNat
  [hkdf (own ++ peer) fk key 32, hkdf (own ++ peer) fk salt 4, hkdf (peer ++ own) fk key 32, hkdf (peer ++ own) fk salt 4]

/-- TRAIN_STATE_DONE (R357, R369, R370, R376): `rx` and `tx` give the lanes that passed in each direction. In DETECT it is the finding of presence where light is
there already, as after a loss; LANE_MAP goes back to LANE_LOCK where, after a return from FEC_ALIGN, it changes the lanes in use (log entry 18). -/
def execTrainStateDone (n : Port) (rx tx : BitVec 10) (s : State) : Host.Outcome State Fault Refusal :=
  .next (
    let k := n.val
    match (port s k).st with
    | .detect => if (port s k).present ∧ !(port s k).beacon then startAttempt k s else s
    | .laneLock => enterState k .laneMap s
    | .laneMap =>
      if popCount 10 rx.toNat < 9 ∨ popCount 10 tx.toNat < 9 then attemptFail k 0x03 s
      else
        let back := (port s k).remap && decide (idleOf rx ≠ (port s k).rxIdle ∨ idleOf tx ≠ (port s k).txIdle)
        enterState k (if back then .laneLock else .fecAlign) (modPort k (fun x => { x with
        rxIdle := idleOf rx, rxSpare := decide (popCount 10 rx.toNat = 10), txIdle := idleOf tx, txSpare := decide (popCount 10 tx.toNat = 10) }) s)
    | .fecAlign =>
      if dataLanes (port s k).rxIdle rx ∧ dataLanes (port s k).txIdle tx then enterState k .negotiate s
      else enterState k .laneMap (modPort k (fun x => { x with remap := true }) s)
    | .negotiate => if (port s k).peer.isEmpty then s else enterState k .check s
    | .check =>
      match checkPeer s k with
      | some r => portDown k r s
      | none =>
        let enc := (port s k).encReq || bitOf (leAt (port s k).peer 8 1) 1
        let s := modPort k (fun x => { x with minor := min 2 (leAt x.peer 3 1), encrypted := enc }) s
        if enc then enterState k .key (modPort k (fun x => { x with keys := linkKeys s k }) s) else enterState k .activate s
    | .key => if (port s k).keyOk then enterState k .activate s else attemptFail k 0x04 s
    | .activate =>
      let s := if (port s k).role = 1 ∧ s.cell.linkedAt.isNone then modCell (fun c => { c with linkedAt := some s.tick }) s else s
      reroute (enterState k .active s)
    | _ => s)

/-- TRAIN_STATE_LIMIT (R370). -/
def execTrainStateLimit (n : Port) (s : State) : Host.Outcome State Fault Refusal :=
  .next (if inAttempt (port s n.val) then attemptFail n.val 0x01 s else s)

/-- TRAIN_ATTEMPT_LIMIT (R370). -/
def execTrainAttemptLimit (n : Port) (s : State) : Host.Outcome State Fault Refusal :=
  .next (if inAttempt (port s n.val) then attemptFail n.val 0x02 s else s)

/-- BEACON_END (R370). -/
def execBeaconEnd (n : Port) (s : State) : Host.Outcome State Fault Refusal :=
  .next (if (port s n.val).beacon ∧ (port s n.val).st = .detect then startAttempt n.val s else s)

/-- LNK_CTRL.RETRAIN (R371, R381). -/
def retrainPort (n : Nat) (s : State) : State :=
  match (port s n).st with
  | .disabled => s
  | .waitLoc => s
  | .active => modPort n (fun x => { x with attempts := 0 }) (loseLink n 6 s)
  | .down => startAttempt n (modPort n (fun x => { x with attempts := 0 }) s)
  | .detect => if (port s n).present then startAttempt n (modPort n (fun x => { x with attempts := 0 }) s) else s
  | _ => startAttempt n (modPort n (fun x => { x.cleared with attempts := 0 }) s)

/-- RETRAIN (R371). -/
def execRetrain (n : Port) (s : State) : Host.Outcome State Fault Refusal := .next (retrainPort n.val s)

end Sys2Proof.Machine
end

