-- ==== Sys2Proof/Machine/PwrOps.lean ====
section
/-!
DEFINITION. Machine/PwrOps.lean: caps, package states and domains (R492 to R533), and the views of the PWR registers.
-/
namespace Sys2Proof.Machine

/-- Change the power manager. -/
def modPwr (f : PwrSt → PwrSt) (s : State) : State := { s with pwr := f s.pwr }

/-- A partition whose tiles are clocked (R496). -/
def clocked (s : State) (p : Nat) : Bool := match (part s p).st with | .loading => true | .running => true | .suspended => true | _ => false
/-- CAP_W of PWR_CAP. -/
def capW (s : State) : Nat := getF s aPwrCap 0 13
/-- The effective cap in mW (R504). -/
def effCap (s : State) : Nat :=
  let c := min (1000 * s.pwr.shiftCap) (1000 * s.pwr.limit)
  match s.pwr.thermCap with | some t => min c t | none => c
/-- The power available to partitions in mW (R504): A. -/
def available (s : State) : Nat := s.pwr.corr * effCap s / 65536 - s.pwr.est

/-- PKG_STATE (PWR_STATUS). -/
def pkgState (s : State) : Nat :=
  if s.pwr.prepared.isSome then 6
  else match s.pwr.sleep with | .active => 0 | .idle => 1 | .pewter => 2 | .dark => 3 | .entering _ => 4 | .exiting _ => 5
/-- The hottest sensor. -/
def hottest (s : State) : Nat := (s.pwr.quads ++ s.pwr.mems).foldl max 0
/-- COOLANT_HIGH_MS of PWR_THERM. -/
def coolantMs (s : State) : Nat := if s.pins.coolant then min 0xFFFF (ticksAfter s.tick s.pwr.coolantTick / 1000000) else 0

/-- The code of a domain state in PWR_DOM_n. -/
def domCode : DomState → Nat
  | .on => 0 | .draining => 1 | .off => 2 | .ramping => 3 | .failed => 4 | .retention => 5 | .gated => 6
/-- Ready time of a domain in µs (R492). -/
def readyUs (n : Nat) : Nat := if n < 16 then 70 else if n < 20 then 20 else if n < 24 then 10 else if n < 28 then 30 else if n = 28 then 20 else 10

/-- The highest class admitted for a partition (R507). -/
def admitMax (s : State) (p : Nat) : Nat :=
  ((List.range 8).filter (classAdmitted s p)).foldl max 0
/-- The account of a partition. -/
def pwrPart (s : State) (p : Nat) : PartPwr := tabGet {} p s.pwr.parts
/-- PWR_PART_p, the bits that are not stored. -/
def pwrPartView (s : State) (p : Nat) : Nat :=
  let x := pwrPart s p
  let k := x.budget * getF s aPwrCtrl 0 16
  x.op + 2 ^ 8 * admitMax s p + 2 ^ 11 * b2n (part s p).suspPower + 2 ^ 16 * (x.budget / 1000 % 65536) + 2 ^ 32 * (x.est / 1000 % 65536)
    + 2 ^ 48 * (if k = 0 then 0 else min 255 (256 * x.bucket / k))
/-- PWR_STATUS, the bits that are not stored. -/
def pwrStatusView (s : State) : Nat := pkgState s + 2 ^ 8 * s.pwr.duty + 2 ^ 32 * (s.pwr.pm / 1000 % 65536)
/-- PWR_CAP, the bits that are not stored. -/
def pwrCapView (s : State) : Nat := 2 ^ 16 * s.pwr.shiftCap + 2 ^ 32 * (effCap s / 1000)
/-- PWR_THERM, the bits that are not stored. -/
def pwrThermView (s : State) : Nat := 2 * b2n s.pins.coolant + 4 * b2n s.pins.trip + 2 ^ 8 * hottest s % 2 ^ 16 + 2 ^ 16 * coolantMs s
/-- PWR_DOM_n, the bits that are not stored. -/
def pwrDomView (s : State) (n : Nat) : Nat := domCode (domSt s n) + 2 ^ 16 * readyUs n

/-! ### Quiet (R525) -/

/-- The exit latency of a package state in ns (R524). -/
def exitNs (k : Nat) : Nat := if k = 1 then 2000 else if k = 2 then 350000 else 60000000
/-- Condition 3 of R525. -/
def noPartLive (s : State) : Bool := s.parts.all fun e => decide (e.2.st ≠ .running ∧ e.2.st ≠ .suspended)
/-- A state meets the conditions of R525. -/
def sleepMeets (s : State) (k : Nat) : Bool :=
  decide (k ≤ getF s aPwrSleep 0 2)
    && (!getB s aPwrLtr 15 || decide (10 * exitNs k ≤ 9 * (getF s aPwrLtr 0 10 * 2 ^ (5 * getF s aPwrLtr 10 3))))
    && (decide (k < 2) || noPartLive s)
/-- SLEEP_READY (R525): the deepest state that meets the conditions. -/
def deepest (s : State) : Nat := if sleepMeets s 3 then 3 else if sleepMeets s 2 then 2 else if sleepMeets s 1 then 1 else 0

/-- A tile of a RUNNING partition waits at WNEXT with no item to give. -/
def tileWaits (s : State) (p t : Nat) : Bool :=
  match (core s t).run with
  | .waiting _ => (core s t).given.isNone && (chooseItem s p (tileIndex s p t)).isNone
  | .stopped => true
  | .dead => true
  | _ => false
/-- The package is quiet (R525). -/
def pkgQuiet (s : State) : Bool :=
  s.parts.all (fun e => decide (e.2.st ≠ .running) || e.2.prec.tiles.all fun t => tileWaits s e.1 t)
    && s.tiles.all (fun e => e.2.mxq.isEmpty && e.2.mxRun.isNone && e.2.stq.isEmpty && !e.2.stRun)
    && s.solv.all (fun e => e.2.cmds.isEmpty) && s.coll.parts.all (fun e => e.2.run.isNone && e.2.queue.isEmpty) && s.dig.isEmpty && s.posts.isEmpty
    && s.host.accs.isEmpty && s.ni.all (fun i => decide (i.1 < 1092) || decide (1120 ≤ i.1 ∧ i.1 ≠ 1133) || i.2.entries.isEmpty)
    && s.ports.all (fun e => e.2.fwd.isEmpty && e.2.wait.isEmpty)
/-- SLEEP_READY as it is now (R519, R525): once quiet has lasted for QUIET_US, the deepest state that meets the conditions. -/
def readyNow (s : State) : Nat := if s.pwr.quiet && pkgQuiet s then deepest s else 0
/-- Quiet that a tick finds broken has ended: the next one lasts for QUIET_US again (R525). -/
def quietTick (s : State) : State := if s.pwr.quiet && !pkgQuiet s then modPwr (fun x => { x with quiet := false }) s else s

end Sys2Proof.Machine
end

