-- ==== Sys2Proof/Machine/MgtOps.lean ====
section
/-!
DEFINITION. Machine/MgtOps.lean: the sensors that the management controller presents, and the events it sends (R581, R582).
-/
namespace Sys2Proof.Machine

/-- Change the management controller. -/
def modMgt (f : MgtSt → MgtSt) (s : State) : State := { s with mgt := f s.mgt }

/-- A state sensor (R581): 28 to 32. -/
def stateSensor (s : State) (i : Nat) : Nat :=
  match i with
  | 28 => pkgState s
  | 29 => b2n s.pins.coolant
  | 30 => if getB s aPwrTherm 0 then getF s aPwrTherm 3 2 else 0
  | 31 => s.boot.now.outcome
  | 32 => cellState s + 2 ^ 8 * (s.cell.map.getD {}).gen + 2 ^ 24 * (s.cell.map.getD {}).term
  | _ => 0
/-- What the events of a sensor follow (R581): a state, or the thresholds passed. -/
def sensorEvent (s : State) (i : Nat) : Nat :=
  if i = 1 then b2n (decide (effCap s < s.pwr.pm)) else if i = 7 then b2n (decide (105 ≤ hottest s)) + b2n (decide (115 ≤ hottest s)) else stateSensor s i
/-- The sensors that send events. -/
def eventSensors : List Nat := [1, 7, 28, 29, 30, 31, 32]

/-- The PlatformEventMessage of a sensor: its identifier and its latest value. -/
def eventMsg (s : State) (i : Nat) : Msg := .mgmt 1 (leBytes 1 2 ++ leBytes 2 i ++ leBytes 8 (sensorEvent s i))

/-- Note a change of one sensor (R582): one event for each sensor not acknowledged, carrying the latest state. -/
def noteSensor (i : Nat) (s : State) : State :=
  let v := sensorEvent s i
  if tabGet 0 i s.mgt.seen = v then s
  else
    let s := modMgt (fun m => { m with seen := tabSet 0 i v m.seen }) s
    if s.mgt.receiver = 0 ∨ s.mgt.events.any (fun e => decide (e.sensor = i)) then s
    else { modMgt (fun m => { m with events := m.events ++ [{ sensor := i }] }) s with sent := eventMsg s i :: s.sent }
/-- An event of the cell sensor for a LINK_DOWN (R402, R581), beside those of its state. -/
def noteLinkDown (s : State) : State :=
  if s.mgt.receiver = 0 ∨ s.mgt.events.any (fun e => decide (e.sensor = 32)) then s
  else { modMgt (fun m => { m with events := m.events ++ [{ sensor := 32 }] }) s with sent := eventMsg s 32 :: s.sent }
/-- Note every sensor. -/
def noteSensors (s : State) : State := eventSensors.foldl (fun s i => noteSensor i s) s

/-- Answer on the management path: nothing is answered before the controller has an endpoint ID (R577). -/
def mgmtReply (type : Nat) (body : List Byte) (s : State) : State := { s with sent := .mgmt type body :: s.sent }
/-- The controller is reached: not while the ROM and firmware steps run (R633), and with an endpoint ID (R577). -/
def mgmtReady (s : State) : Bool := decide (s.mgt.eid ≠ 0) && decide (2 < s.boot.step ∨ s.boot.now.outcome = 3)
/-- An Otenus vendor-defined message (R578): framing and payload. -/
def vdm (s : State) (payload : List Byte) : List Byte := BitVec.ofNat 8 0x7F :: (leBytes 4 s.fuses.pen ++ payload)
/-- A response of 8 bytes or more to a vendor command (R578). -/
def vdmReply (cmd result : Nat) (rest : List Byte) (s : State) : State :=
  mgmtReply 0x7F (vdm s ([BitVec.ofNat 8 cmd, BitVec.ofNat 8 result] ++ rest ++ List.replicate (6 - rest.length) 0)) s

end Sys2Proof.Machine
end

