-- ==== Sys2Proof/Machine/Cell.lean ====
section
/-!
DEFINITION. Machine/Cell.lean: coordinates, membership records, rank maps, the manager and the switching of spares (R393 to R416).
-/
namespace Sys2Proof.Machine

/-- Family control has a record for a slot: its NI sends it as an MCMD packet in the next tick that leaves it an entry (R340, R396). -/
def sendRec (k : Nat) (rec : List Byte) (s : State) : State := modCell (fun c => { c with outq := c.outq ++ [(k, rec)] }) { s with sent := .cellRec k rec :: s.sent }
/-- The MCMD packet with a record that leaves station 1134 under a TXID over a port (R332, R396). -/
def recPacket (s : State) (n x : Nat) (rec : List Byte) : Packet :=
  stamped s 0x22 { txid := BitVec.ofNat 16 x, srcStn := 1134, dstStn := BitVec.ofNat 11 (portStn n), dstUnit := 0x3FFFFFFF, oparg := slice rec 0 32 }
/-- The NI of station 1134 sends the oldest record that waits, where it has a free entry, over the direct link to its slot; without one the record is lost. -/
def recSend (s : State) : State :=
  match s.cell.outq with
  | [] => s
  | (k, rec) :: r =>
    if niStalled s 1134 then s
    else
      let s := modCell (fun c => { c with outq := r }) s
      match primaryPort s k with
      | none => s
      | some n =>
        let x := freeTxid s 1134
        let q := recPacket s n x rec
        forward n q [] (putEntry 1134 x { req := q, first := s.tick, waiting := true } s)
/-- All records that may be sent leave. -/
def recPump (s : State) : State := (List.range s.cell.outq.length).foldl (fun s _ => recSend s) s
/-- The MCMD packet with a record that waits at station 1134 under an entry of a port that `from_` admits. -/
def recWaiting (from_ : Nat → Bool) (rec : List Byte) (s : State) : Option Packet :=
  s.ni.findSome? fun i =>
    if 1092 ≤ i.1 ∧ i.1 < 1120 ∧ from_ (i.1 - 1092) then
      (i.2.entries.find? fun e => e.2.flight && decide (e.2.req.opcode = 0x22 ∧ e.2.req.dstStn = 1134 ∧ slice e.2.req.oparg 0 32 = slice rec 0 32)).map fun e => e.2.req
    else none
/-- A record reaches family control: the packet that carried it is answered with DONE (R333, R396), and `f` takes the record. -/
def recTake (from_ : Nat → Bool) (rec : List Byte) (f : State → State) (s : State) : State :=
  f (match recWaiting from_ rec s with | some q => answer 1134 q cDone [] 0 0 s | none => s)
/-- Send a record to every other slot heard. -/
def sendAll (rec : List Byte) (s : State) : State :=
  ((heardSlots s).filter fun k => s.cell.slot ≠ some k).foldl (fun s k => sendRec k rec s) s
/-- A record of 32 bytes from its first bytes. -/
def recOf (l : List Byte) : List Byte := slice l 0 32
/-- A set of slots as a bit mask. -/
def maskOf (l : List Nat) : Nat := (l.map (2 ^ ·)).sum

/-! ### Records (R396, R398, R519) -/

/-- The partitions defined in the loaded image. -/
def definedMask (s : State) : Nat := maskOf ((List.range 64).filter fun p => (part s p).st ≠ .empty)
/-- FLAGS of the MEMBER record. -/
def memberFlags (s : State) : Nat :=
  b2n (getB s aGlbCellCtrl 0) + 2 * b2n (ownFit s) + 4 * b2n (isManager s)
    + 8 * b2n (match s.cell.downAt with | some t => decide (ticksAfter s.tick t ≤ 2000000) | none => false)
/-- PFLAGS of the MEMBER record. -/
def powerFlags (s : State) : Nat := b2n (getB s aPwrStatus 3) + 2 * b2n (getB s aPwrStatus 4) + 4 * b2n (getB s aPwrStatus 5)
/-- The MEMBER record. -/
def memberRec (s : State) : List Byte :=
  let m := s.cell.map.getD {}
  recOf ([1, s.cell.slot.getD 0, (ownRank s).getD 0xFF, memberFlags s].map (BitVec.ofNat 8) ++ leBytes 2 m.term ++ leBytes 2 m.gen
    ++ leBytes 3 (maskOf ((List.range 18).filter (heard s))) ++ leBytes 3 (maskOf ((List.range 18).filter fun k => (primaryPort s k).isSome))
    ++ [2, 0] ++ leBytes 8 (definedMask s) ++ leBytes 2 s.cell.wait ++ leBytes 2 s.pwr.shiftCap ++ leBytes 2 (capW s)
    ++ [BitVec.ofNat 8 (readyNow s), BitVec.ofNat 8 (powerFlags s)])
/-- The RANK_MAP record of a map. -/
def mapRec (m : CellMap) : List Byte :=
  recOf ([2, BitVec.ofNat 8 m.mgr] ++ leBytes 2 m.term ++ leBytes 2 m.gen ++ [BitVec.ofNat 8 (b2n m.full), 0]
    ++ (List.range 16).map fun r => let k := m.slots.getD r 31; BitVec.ofNat 8 (if k < 18 then k else 0xFF))
/-- The map that a RANK_MAP record states. -/
def mapOf (rec : List Byte) : CellMap :=
  { mgr := leAt rec 1 1, term := leAt rec 2 2, gen := leAt rec 4 2, full := decide (leAt rec 6 1 = 1)
    slots := (List.range 16).map fun r => let k := leAt rec (8 + r) 1; if k < 18 then k else 31 }

/-! ### Adoption of a map (R399, R401, R409, R411, R523, R539) -/

/-- Stop every RUNNING partition of a set, as STOP does. -/
def stopParts (mask : Nat) (s : State) : State :=
  ((List.range 64).filter fun p => bitOf mask p && decide ((part s p).st = .running)).foldl (fun s p => stopPart p s) s

/-- Apply MODE (R409): MGMT_ONLY of the uplinks, and the carrying list on entry to FULL. -/
def applyMode (was full : Bool) (s : State) : State :=
  if full ∧ was then s
  else
    let s := allPorts.foldl (fun s n =>
      match (port s n).role with
      | 2 => putB (aLnkCtrl n) 1 (!full) s
      | 3 => putB (aLnkCtrl n) 1 true s
      | _ => s) s
    modCell (fun c => { c with carry := if full then allPorts.filter fun n => (port s n).role = 2 else [] }) s

/-- Note the manager (MGR_CHANGE). -/
def noteManager (s : State) : State :=
  let k := managerSlot s
  if k = s.cell.mgrSeen then s
  else
    let s := if s.cell.mgrSeen.isSome then stick aGlbCellStatus 49 s else s
    modCell (fun c => { c with mgrSeen := k }) s

/-- The package's cap returns to its BASE, at or below LIMIT_W (R520, R523); an increase in a cell is left to the manager, which sends it after the others' decreases (R521). -/
def capToBase (inCell : Bool) (s : State) : State :=
  let w := min (capW s) s.pwr.limit
  modPwr (fun x => { x with shiftCap := if inCell then min x.shiftCap w else w }) s
/-- Adopt a map; with the first one a package begins to follow the manager's tick, and one that becomes manager runs free (R539). -/
def adoptMap (m : CellMap) (s : State) : State :=
  let first := s.cell.map.isNone
  let old := s.cell.map.getD { slots := List.replicate 16 31 }
  let held := ownRank s
  let gone := (List.range 16).filter fun r => decide (old.slots.getD r 31 < 18 ∧ 17 < m.slots.getD r 31)
  let mask := gone.foldl (fun a r => a ||| leAt (knowOf s (old.slots.getD r 31)).body 16 8) 0
  let gens := (List.range 16).map fun r => if s.cell.map.isSome ∧ old.slots.getD r 31 = m.slots.getD r 31 then old.gens.getD r 0 else m.gen
  let s := modCell (fun c => { c with
    map := some { m with gens := gens }
    maxTerm := higherTerm c.maxTerm m.term
    moving := (c.moving ++ gone).eraseDups }) s
  let s := stopParts mask s
  let s := if held.isSome ∧ (ownRank s).isNone then stopParts (2 ^ 64 - 1) s else s
  let s := applyMode (old.full && s.cell.map.isSome) m.full s
  let s := if old.term = m.term then s else capToBase true (modCell (fun c => { c with raises := [], rebase := true }) s)
  let s := { s with clk := { s.clk with
    waiting := if s.cell.slot = some m.mgr then false else s.clk.waiting || first
    half := if s.cell.slot = some m.mgr then 0 else s.clk.half } }
  noteManager (reroute s)

/-- The manager issues a map (R398): it adopts it and sends it to every member heard. -/
def issueMap (m : CellMap) (sw : SwitchSt) (s : State) : State :=
  let m := { m with mgr := s.cell.slot.getD 31 }
  sendAll (mapRec m) (modCell (fun c => { c with acks := [], switching := sw }) (adoptMap m (modCell (fun c => { c with ceased := false }) s)))

/-- Every member that the manager has heard has acknowledged the map. -/
def allAcked (s : State) : Bool := ((heardSlots s).filter fun k => s.cell.slot ≠ some k).all fun k => s.cell.acks.contains k
/-- Every member heard holds the adopted map: by its acknowledgement to this manager, or by TERM and GEN of its latest record. -/
def allHold (s : State) : Bool :=
  if isManager s then allAcked s
  else ((heardSlots s).filter fun k => s.cell.slot ≠ some k).all fun k =>
    let m := s.cell.map.getD {}
    decide (leAt (knowOf s k).body 4 2 = m.term ∧ leAt (knowOf s k).body 6 2 = m.gen)

/-- Step 3 of R411: ranks given again are HELD, and RANK_LOST is set. -/
def settleRanks (s : State) : State :=
  let back := s.cell.moving.filter fun r => (rankSlot s r).isSome
  if back.isEmpty ∨ !allHold s then s
  else stick aGlbCellStatus 48 (modCell (fun c => { c with moving := c.moving.filter fun r => !back.contains r }) s)

/-- Ranks of a map whose holder is lost or not FIT for as long (R397, R411). -/
def lostRanks (s : State) (m : CellMap) : List Nat :=
  (List.range 16).filter fun r => let k := m.slots.getD r 31; decide (k < 18) && decide (s.cell.slot ≠ some k) && (knowOf s k).lost
/-- A map with some ranks set. -/
def setRanks (rs : List (Nat × Nat)) (l : List Nat) : List Nat := rs.foldl (fun l x => l.set x.1 x.2) l
/-- MODE as the manager's map should have it (R410). -/
def wantFull (s : State) (m : CellMap) : Bool :=
  ((List.range 16).all fun r => decide (m.slots.getD r 31 < 18)) && getB s aGlbCellCtrl 0
    && ((List.range 18).filter fun k => decide (s.cell.slot ≠ some k) && ((memberSlots s).contains k || m.slots.contains k)).all fun k =>
      bitOf (leAt (knowOf s k).body 3 1) 0

/-- What the manager does next (R401, R410, R411, R413). -/
def manage (s : State) : State :=
  match s.cell.map with
  | none => s
  | some m =>
    if !isManager s then s
    else
      let taking := decide (s.cell.slot ≠ some m.mgr)
      let lost := lostRanks s m
      let term := if taking then (s.cell.maxTerm.getD m.term + 1) % 65536 else m.term
      let gen := if taking then 1 else (m.gen + 1) % 65536
      let open_ := (List.range 16).filter fun r => decide (17 < m.slots.getD r 31)
      let spares := spareSlots s
      if taking ∨ !lost.isEmpty then
        issueMap { m with term := term, gen := gen, full := false, slots := setRanks (lost.map fun r => (r, 31)) m.slots } .unhold s
      else if s.cell.switching ≠ .none ∧ !allAcked s then s
      else
        let s := modCell (fun c => { c with switching := .none }) (settleRanks s)
        if !open_.isEmpty ∧ !spares.isEmpty ∧ getB s aGlbCellCtrl 1 then
          let given := open_.zip spares
          issueMap { m with gen := gen, full := false, slots := setRanks given m.slots } (.place (given.map (·.1))) s
        else if wantFull s m ≠ m.full then issueMap { m with gen := gen, full := wantFull s m } .none s
        else s

/-- What follows every record and every change of what is known. -/
def cellStep (s : State) : State := noteSensors (settleRanks (manage (noteManager (reroute s))))

/-! ### Coordinates (R393 to R395) -/

/-- The response to LOCATION_ASSIGN and LOCATION_QUERY. -/
def locReply (cmd result : Nat) (s : State) : State :=
  vdmReply cmd result ([s.cell.tier, s.cell.cell, s.cell.slot.getD 0xFF, (ownRank s).getD 0xFF, (managerSlot s).getD 0xFF, cellState s].map (BitVec.ofNat 8)) s

/-- CELL ports leave WAIT_LOC for DETECT (R369, R394). -/
def openCellPorts (s : State) : State :=
  allPorts.foldl (fun s n =>
    if (port s n).st = .waitLoc then
      let s := modPort n (fun x => { x with st := .detect }) s
      if (port s n).present then startAttempt n s else s
    else s) s
/-- Take coordinates. -/
def takeCoords (tier cell slot : Nat) (s : State) : State :=
  openCellPorts (modCell (fun c => { c with located := true, tier := tier, cell := cell, slot := some slot }) s)
/-- The package leaves its cell (R394): its collectives end with UNIT_RESET (R446), its partitions stop, and its CELL links go. -/
def leaveCell (s : State) : State :=
  let s := s.coll.parts.foldl (fun s e => collEndAll e.1 cReset 0 s) s
  let s := stopParts (2 ^ 64 - 1) s
  let s := applyMode true false (modCell (fun _ => {}) { s with clk := { s.clk with waiting := false, half := 0, slew := 0 } })
  allPorts.foldl (fun s n => if (port s n).role = 1 then loseLink n 6 s else s) s

/-- LOCATION_ASSIGN (R394). -/
def execLocationAssign (flags tier cell : Byte) (slot : SlotBytes) (s : State) : Host.Outcome State Fault Refusal :=
  .next (
    if !mgmtReady s then s
    else
      let same := decide (s.cell.tier = tier.toNat ∧ s.cell.cell = cell.toNat ∧ s.cell.slot = some slot.slot.toNat)
      let up := allPorts.any fun n => portUp s n && decide ((port s n).role = 1)
      if 17 < slot.slot.toNat ∨ 1 < flags.toNat ∨ slot.rest.any (· ≠ 0) then locReply 1 0x03 s
      else if !s.cell.located then let s := cellStep (takeCoords tier.toNat cell.toNat slot.slot.toNat s); locReply 1 0x00 s
      else if same then locReply 1 0x01 s
      else if flags = 0 ∧ (up ∨ (ownRank s).isSome) then locReply 1 0x02 s
      else let s := cellStep (takeCoords tier.toNat cell.toNat slot.slot.toNat (leaveCell s)); locReply 1 0x00 s)

/-- The command bytes of R578 that name another command than LOCATION_QUERY. -/
def vdmNamed : List Nat := [0x01, 0x10, 0x11, 0x12, 0x13, 0x14, 0x15, 0x20, 0x21, 0x22, 0x23]
/-- LOCATION_QUERY, or a vendor message with an unknown command byte, which is answered INVALID (R393, R394). A command byte of another command is that command's own. -/
def execLocationQuery (msg : VdmBytes) (s : State) : Host.Outcome State Fault Refusal :=
  .next (
    if !mgmtReady s ∨ vdmNamed.contains msg.cmd.toNat then s
    else if msg.cmd ≠ 2 ∨ msg.rest.any (· ≠ 0) then locReply msg.cmd.toNat 0x03 s
    else locReply 2 0x00 s)

/-! ### Caps in the cell (R520, R521, R523) -/

/-- WAIT, CAP, BASE and THERM_THROTTLE of a slot as the manager has them: its own, or those of the slot's latest record (R519). -/
def slotPower (s : State) (k : Nat) : Nat × Nat × Nat × Bool :=
  if s.cell.slot = some k then (s.cell.wait, s.pwr.shiftCap, capW s, getB s aPwrStatus 5)
  else let b := (knowOf s k).body; (leAt b 24 2, leAt b 26 2, leAt b 28 2, bitOf (leAt b 31 1) 2)
/-- The rank holders that the manager hears, ascending. -/
def capSlots (s : State) : List Nat := (heardSlots s).filter fun k => (slotRank s k).isSome
/-- The manager sets a slot's cap: its own at once, another's by CAP_SET (R521, R522). -/
def sendCap (k w : Nat) (s : State) : State :=
  if s.cell.slot = some k then modPwr (fun x => { x with shiftCap := w }) s
  else sendRec k (recOf ([8, BitVec.ofNat 8 (s.cell.slot.getD 31)] ++ leBytes 2 (s.cell.map.getD {}).term ++ leBytes 2 0 ++ leBytes 2 w)) s
/-- An increase may be sent: the giver's record shows its reduced cap (R521), or every holder shows at most its BASE (R523). -/
def raiseDue (s : State) (r : Nat × Nat × Nat × Nat) : Bool :=
  if r.2.2.1 = 31 then (capSlots s).all fun k => decide ((slotPower s k).2.1 ≤ (slotPower s k).2.2.1) else decide ((slotPower s r.2.2.1).2.1 ≤ r.2.2.2)
/-- Send the increases that are due. -/
def capStep (s : State) : State :=
  if s.cell.raises.isEmpty ∨ !isManager s then s
  else
    let due := s.cell.raises.filter (raiseDue s)
    let s := modCell (fun c => { c with raises := c.raises.filter fun r => !due.contains r }) s
    due.foldl (fun s r => sendCap r.1 r.2.1 s) s

/-! ### The start of a sleep agreement (R530) -/

/-- The lowest SLEEP_READY that the members heard have shown in their last four records; this package's own as it is now. -/
def agreeTarget (s : State) : Nat :=
  (heardSlots s).foldl (fun m k =>
    min m (if s.cell.slot = some k then readyNow s else let r := (knowOf s k).ready; if r.length < 4 then 0 else r.foldl min 3)) 3
/-- The manager of a cell starts an agreement when every member heard allows it. -/
def agreeStart (s : State) : State :=
  let awake := match s.pwr.sleep with | .active => true | .idle => true | _ => false
  let t := agreeTarget s
  if !isManager s ∨ s.cell.map.isNone ∨ s.pwr.votes.isSome ∨ s.pwr.prepared.isSome ∨ !awake ∨ t < 2 then s
  else
    let own := s.cell.slot.getD 31
    let agr := (s.pwr.agr + 1) % 65536
    let term := (s.cell.map.getD {}).term
    sendAll (sleepRec 4 own term agr t) (modPwr (fun x => { x with
      agr := agr
      agrMgr := own
      agrTerm := term
      target := t
      votes := some [own]
      asked := heardSlots s
      prepared := some t
      wakeHeld := false }) s)

/-! ### Membership (R396, R397, R400) -/

/-- Records are sent and evidence counts: coordinates held, no cell-wide sleep agreement, not asleep (R397, R530). -/
def recordsOn (s : State) : Bool := s.cell.located && s.pwr.prepared.isNone && (match s.pwr.sleep with | .active => true | .idle => true | _ => false)

/-- MEMBER_SEND (R392, R396): one record to each slot that an ACTIVE CELL port reaches. -/
def execMemberSend (s : State) : Host.Outcome State Fault Refusal :=
  .next (if !recordsOn s then s else (allPorts.filterMap (portSlot s)).eraseDups.foldl (fun s k => sendRec k (memberRec s) s) s)

/-- The manager sends its map to a slot that it now hears, or whose record shows another map or claims to manage, so that a package heard later, or again, adopts it (R398,
R399, R413). -/
def resendMap (k : Nat) (newly : Bool) (old : Option CellMap) (s : State) : State :=
  match s.cell.map with
  | none => s
  | some m =>
    let b := (knowOf s k).body
    if isManager s ∧ s.cell.slot = some m.mgr ∧ old = some m ∧ (newly ∨ bitOf (leAt b 3 1) 2 ∨ ¬ (leAt b 4 2 = m.term ∧ leAt b 6 2 = m.gen)) then sendRec k (mapRec m) s else s

/-- The first map is due (R400): all 17 peers are heard, or FORM_WAIT_MS has passed since the first CELL link became ACTIVE. -/
def formDue (s : State) : Bool :=
  decide ((heardSlots s).length = 18)
    || (match s.cell.linkedAt with | some t => decide (1000000 * getF s aGlbCellCtrl 16 16 ≤ ticksAfter s.tick t) | none => false)
/-- The manager issues the first map when it is due (R400). -/
def formMap (s : State) : State :=
  if s.cell.map.isSome ∨ !isManager s ∨ !formDue s then s
  else
    let ks := ((heardSlots s).filter (slotFit s)).take 16
    let slots := ks ++ List.replicate (16 - ks.length) 31
    noteSensors (issueMap { term := 1, gen := 1, full := false, slots := slots } .none s)

/-- A MEMBER record arrives on the direct link of a port (R397, R400, R402). -/
def takeMember (n : Nat) (rec : List Byte) (s : State) : State :=
    let rc := recOf rec
    let k := leAt rc 1 1
    if !s.cell.located ∨ portSlot s n ≠ some k ∨ 17 < k ∨ leAt rc 0 1 ≠ 1 then s
    else
      let newly := !heard s k
      let fit := bitOf (leAt rc 3 1) 1
      let seen := leAt rc 8 3
      let news := !bitOf (leAt (knowOf s k).body 3 1) 3
      let s := modCell (fun c =>
        let know := (List.range 18).foldl (fun t j => if bitOf seen j then tabSet {} j (let y := tabGet {} j t
            { y with evid := s.tick, lost := y.lost && !y.body.isEmpty && !bitOf (leAt y.body 3 1) 1 }) t else t) c.know
        let x := tabGet {} k know
        { c with
          maxTerm := if leAt rc 4 4 = 0 then c.maxTerm else higherTerm c.maxTerm (leAt rc 4 2)
          know := tabSet {} k { x with
            recv := some s.tick
            body := rc
            evid := s.tick
            fitAt := if fit then s.tick else x.fitAt
            lost := if fit then false else x.lost
            ready := (leAt rc 30 1 :: x.ready).take 4 } know }) s
      let s := if bitOf (leAt rc 3 1) 3 ∧ isManager s then (let s := stick aGlbCellStatus 50 s; if news then noteLinkDown s else s) else s
      let s := match s.pwr.sleep with | .pewter => wakeCause 2 s | .exiting 2 => wakeCause 2 s | _ => s
      agreeStart (capStep (formMap (resendMap k newly s.cell.map (cellStep s))))
/-- MEMBER (R397, R402). -/
def execMember (n : Port) (rec : List Byte) (s : State) : Host.Outcome State Fault Refusal :=
  .next (recTake (fun k => decide (k = n.val)) (recOf rec) (takeMember n.val rec) s)

/-- SLOT_LOST (R397, R411): the slot is lost where it is due. -/
def execSlotLost (slot : CellSlot) (s : State) : Host.Outcome State Fault Refusal :=
  .next (
    if !recordsOn s ∨ s.cell.slot = some slot.val ∨ !lostDue s slot.val then s
    else cellStep (modCell (fun c => { c with know := tabSet {} slot.val { tabGet {} slot.val c.know with lost := true } c.know }) s))

/-- MAP_FORMATION (R400): the time of FORM_WAIT_MS has passed. -/
def execMapFormation (s : State) : Host.Outcome State Fault Refusal := .next (formMap s)

/-! ### Maps (R399, R411) -/

/-- A map is higher than the one held (R399). -/
def mapHigher (s : State) (m : CellMap) : Bool :=
  match s.cell.map with
  | none => true
  | some o => serialAhead m.term o.term || (decide (m.term = o.term) && (serialAhead m.gen o.gen || (decide (m.gen = o.gen) && decide (m.mgr < o.mgr))))
/-- A map that the package holds. -/
def mapHeld (s : State) (m : CellMap) : Bool :=
  match s.cell.map with | some o => decide (m.term = o.term ∧ m.gen = o.gen ∧ m.mgr = o.mgr) | none => false
/-- The MAP_ACK of the map held. -/
def ackRec (s : State) : List Byte :=
  let m := s.cell.map.getD {}
  recOf ([3, BitVec.ofNat 8 (s.cell.slot.getD 0)] ++ leBytes 2 m.term ++ leBytes 2 m.gen)

/-- A RANK_MAP record arrives (R399); a manager that adopts another's map ceases to manage (R401). -/
def takeMap (rec : List Byte) (s : State) : State :=
    let rc := recOf rec
    let m := mapOf rc
    if !s.cell.located ∨ leAt rc 0 1 ≠ 2 ∨ 17 < m.mgr then s
    else if mapHigher s m then
      let cease := s.cell.ceased || isManager s
      let s := adoptMap m (modCell (fun c => { c with acks := [], switching := .none, ceased := cease }) s)
      noteSensors (settleRanks (sendRec m.mgr (ackRec s) s))
    else if mapHeld s m then sendRec m.mgr (ackRec s) s
    else s
/-- RANK_MAP (R399). -/
def execRankMap (rec : List Byte) (s : State) : Host.Outcome State Fault Refusal := .next (recTake (fun _ => true) (recOf rec) (takeMap rec) s)

/-- A MAP_ACK record arrives (R411). -/
def takeAck (rec : List Byte) (s : State) : State :=
    let rc := recOf rec
    let m := s.cell.map.getD {}
    if !isManager s ∨ leAt rc 0 1 ≠ 3 ∨ leAt rc 2 2 ≠ m.term ∨ leAt rc 4 2 ≠ m.gen then s
    else cellStep (modCell (fun c => { c with acks := if c.acks.contains (leAt rc 1 1) then c.acks else leAt rc 1 1 :: c.acks }) s)
/-- MAP_ACK (R411). -/
def execMapAck (rec : List Byte) (s : State) : Host.Outcome State Fault Refusal := .next (recTake (fun _ => true) (recOf rec) (takeAck rec) s)

/-- UPLINK_SWAP (R408). -/
def execUplinkSwap (n : Port) (s : State) : Host.Outcome State Fault Refusal :=
  .next (
    if inMaint s ∨ !s.cell.carry.contains n.val ∨ (port s n.val).role ≠ 2 ∨ portUp s n.val then s
    else
      match allPorts.find? fun m => portUp s m && decide ((port s m).role = 3) && !s.cell.carry.contains m with
      | none => s
      | some m =>
        let s := putB (aLnkCtrl n.val) 1 true (putB (aLnkCtrl m) 1 false s)
        stick aGlbCellStatus 51 (modCell (fun c => { c with carry := c.carry.map fun k => if k = n.val then m else k }) s))

/-- GLB_LOC as it reads. -/
def locView (s : State) : Nat :=
  s.cell.tier + 2 ^ 8 * s.cell.cell + 2 ^ 16 * s.cell.slot.getD 31 + 2 ^ 24 * b2n s.cell.located + 2 ^ 32 * (ownRank s).getD 0 + 2 ^ 36 * b2n (ownRank s).isSome
/-- GLB_CELL_STATUS, the bits that are not stored. -/
def cellStatusView (s : State) : Nat :=
  let m := s.cell.map.getD {}
  cellState s + 4 * b2n m.full + 8 * b2n (isManager s) + 2 ^ 4 * (managerSlot s).getD 31 + 2 ^ 9 * (if s.cell.located then cellDzl s else 0)
    + 2 ^ 16 * m.gen + 2 ^ 32 * m.term
/-- GLB_RANK_r as it reads. -/
def rankView (s : State) (r : Nat) : Nat :=
  let m := s.cell.map.getD {}
  (rankSlot s r).getD 31 + 2 ^ 8 * (if (rankSlot s r).isNone then 0 else if s.cell.moving.contains r then 2 else 1) + 2 ^ 16 * m.gens.getD r 0
/-- GLB_UPLINK as it reads. -/
def uplinkView (s : State) : Nat := maskOf (carrying s) + 2 ^ 32 * (if inMaint s then (mgmtUplink s).getD 31 else 31)

end Sys2Proof.Machine
end

