-- ==== Sys2Proof/Machine/ImageOps.lean ====
section
/-!
DEFINITION. Machine/ImageOps.lean: Elvain images, their checks and what the two passes of a load do (R43 to R66, R214, R215, R317, R476, R584, R585).
-/
namespace Sys2Proof.Machine

/-- Change the image controller. -/
def modImg (f : ImgSt → ImgSt) (s : State) : State := { s with img := f s.img }

/-! ### Layout -/

/-- A section table entry with its index (R45). -/
structure Sec where
  idx : Nat := 0
  type : Nat := 0
  required : Bool := false
  off : Nat := 0
  len : Nat := 0
  digest : List Byte := []
deriving DecidableEq, Repr, Inhabited

/-- KIND of an image (R44). -/
def imgKind (b : List Byte) : Nat := leAt b 11 1
/-- SECTION_COUNT (R44). -/
def imgCount (b : List Byte) : Nat := leAt b 12 4
/-- IMAGE_LEN (R44). -/
def imgLen (b : List Byte) : Nat := leAt b 16 8
/-- IMAGE_ID (R44). -/
def imgId (b : List Byte) : Nat := leAt b 24 8
/-- BASE_ID (R44). -/
def imgBase (b : List Byte) : Nat := leAt b 32 8
/-- SEC_VERSION (R44). -/
def imgSecVersion (b : List Byte) : Nat := leAt b 40 4
/-- The section table, of at most 256 entries (R45). DESIGN CHOICE: nonzero reserved bytes of the header and of an entry, the other bits of SFLAGS,
RECORD_SIZE and a nonzero DIGEST of the signature section are not looked at, since no rule rejects an image for them (log entry 29). -/
def imgSecs (b : List Byte) : List Sec :=
  (List.range (min 256 (imgCount b))).map fun i =>
    let o := 64 + 64 * i
    { idx := i, type := leAt b o 2, required := bitOf (leAt b (o + 2) 2) 0, off := leAt b (o + 8) 8, len := leAt b (o + 16) 8, digest := slice b (o + 32) 32 }
/-- The bytes of a section. -/
def secBytes (b : List Byte) (x : Sec) : List Byte := slice b x.off x.len
/-- The sections of a type. -/
def secsOf (b : List Byte) (t : Nat) : List Sec := (imgSecs b).filter fun x => x.type = t
/-- The bytes of the first section of a type. -/
def firstSec (b : List Byte) (t : Nat) : List Byte := match secsOf b t with | x :: _ => secBytes b x | [] => []
/-- The bytes of the last section, which is the signature section (R46). -/
def lastSec (b : List Byte) : List Byte := match (imgSecs b).getLast? with | some x => secBytes b x | none => []
/-- The signed message (R47). -/
def imgMessage (b : List Byte) : List Byte := slice b 0 (64 + 64 * imgCount b)

/-- The partition record at `o` (R52). -/
def recordAt (t : List Byte) (o : Nat) : PartRec :=
  let b := slice t o 256
  let tileBytes := b.drop 128
  { action := leAt b 0 1, mode := leAt b 1 1, audit := leAt b 2 1, priority := leAt b 3 1, shapeGroup := leAt b 4 1
    keyId := leAt b 5 1, hostWindow := leAt b 6 1, eclassMask := leAt b 7 1, collUnits := leAt b 8 2
    keepQuota := leAt b 10 2, solverSlots := (List.range 4).map fun d => leAt b (12 + d) 1, wdogMs := leAt b 16 4
    powerShare := leAt b 20 2, bstBase := leAt b 24 8, bstSize := leAt b 32 8, portMask := leAt b 40 8
    peerMask := leAt b 48 8, tiles := (List.range 1024).filter fun t => bitOf (leAt tileBytes (t / 8) 1) (t % 8)
    resvOk := decide (leAt b 22 2 = 0) && (slice b 56 72).all (· == 0) }
/-- The records of an image with their partition numbers. -/
def imgRecords (b : List Byte) : List (Nat × PartRec) := let t := firstSec b 1; (List.range 64).map fun p => (p, recordAt t (256 * p))
/-- The partitions that an image defines or loads (R52). -/
def imgNew (b : List Byte) : List (Nat × PartRec) := (imgRecords b).filter fun e => e.2.action = 1
/-- The partitions that a partial image removes (R52). -/
def imgRemoved (b : List Byte) : List Nat := if imgKind b = 0 then [] else ((imgRecords b).filter fun e => e.2.action = 2).map (·.1)
/-- The section of a type whose byte 0 names partition `p` (R46). -/
def secFor (b : List Byte) (t p : Nat) : Option Sec := (secsOf b t).find? fun x => leAt b x.off 1 = p
/-- CACHE_UNITS that an image leaves in force (R58). -/
def imgUnits (b : List Byte) (s : State) : Nat := if imgKind b = 0 then leAt (firstSec b 2) 0 1 else s.bst.units
/-- W of a partition record (R59). -/
def recWork (units : Nat) (r : PartRec) : Nat := sliceBytes - r.collUnits * 0x40000 - units * 0x40000

/-! ### Keys and signatures (R584, R585) -/

/-- The place of the key that an identifier names: 16 * table + slot. -/
def keyPlace (id : List Byte) : Nat := 16 * leAt id 0 1 + leAt id 1 1
/-- A key of a table is accepted (R584). -/
def keyAccepted (s : State) (table : Nat) (id : List Byte) : Bool :=
  let k := keyPlace id
  let h := tabGet [] k s.fuses.slots
  decide (leAt id 0 1 = table ∧ leAt id 1 1 < (if table = 0 then 4 else 8)) && !h.isEmpty && !s.fuses.revoked.contains k
    && decide (slice id 2 6 = slice h 0 6) && decide (sha3 (tabGet [] k s.flash.keyStore) = h)
/-- The first signature of a section that fails: 5 ECDSA, 6 ML-DSA (R50, R585). -/
def sigFails (s : State) (table : Nat) (msg sig : List Byte) : Option Nat :=
  let a := slice sig 0 8
  let b := slice sig 8 8
  let pair (id : List Byte) : List Byte := tabGet [] (keyPlace id) s.flash.keyStore
  if sig.length ≠ 4739 ∨ !keyAccepted s table a ∨ !Config.sigOk 0 (pair a) msg (slice sig 16 96) then some 5
  else if keyPlace b ≠ keyPlace a ∨ !keyAccepted s table b ∨ !Config.sigOk 1 (pair b) msg (slice sig 112 4627) then some 6
  else none

/-! ### The checks of R50 -/

/-- A failed check: its code, and the section table entry or 0xFFFF. -/
abbrev Reject := Nat × Nat
/-- A check that fails outside any one section. -/
def failIf (c : Bool) (code : Nat) : Option Reject := if c then some (code, 0xFFFF) else none

/-- The stepping of GLB_DEVICE_ID as a byte of R44. -/
def ownStepping (s : State) : Nat := 16 * s.fuses.stepMajor + s.fuses.stepMinor

/-- MAGIC to PART of R50, for images and firmware headers. -/
def headerFails (s : State) (magic : Nat) (b : List Byte) : Option Reject :=
  failIf (decide (leAt b 0 4 ≠ magic)) 1
    <|> failIf (decide (leAt b 4 2 ≠ 1)) 2
    <|> failIf (decide (leAt b 8 1 ≠ 0x2A ∨ leAt b 9 1 ≠ 4 ∨ ownStepping s < leAt b 10 1)) 3

/-- The layout part of LENGTH: alignment, bounds, overlap and the place of the signature section (R43, R50). A section over the header or the table overlaps. -/
def layoutFails (b : List Byte) : Option Reject :=
  let n := imgCount b
  let tend := 64 + 64 * n
  failIf (decide (0x40000000 < imgLen b ∨ n < 2 ∨ 256 < n ∨ imgLen b < tend)) 4
    <|> (let xs := imgSecs b
      let bad (x : Sec) : Bool := decide (x.off % 64 ≠ 0 ∨ imgLen b < x.off + x.len) || (decide (x.len ≠ 0 ∧ x.off < tend))
        || xs.any fun y => decide (y.idx < x.idx ∧ y.len ≠ 0 ∧ x.len ≠ 0 ∧ x.off < y.off + y.len ∧ y.off < x.off + x.len)
      ((xs.find? bad).map fun x => (4, x.idx))
        <|> (match xs.find? fun x => decide (x.idx = n - 1) with
          | some l => if l.type ≠ 0xFFFF ∨ xs.any (fun x => decide (x.idx ≠ l.idx ∧ x.len ≠ 0 ∧ l.off < x.off + x.len)) then some (4, l.idx) else none
          | none => none))

/-- The part of LENGTH that concerns the content of one section (R46, R214, R215, R476). A PROGRAM section may be longer than 64 + CODE_LEN, and its reserved bytes are not
looked at (log entries 14 and 29). -/
def contentFails (s : State) (b : List Byte) (x : Sec) : Bool :=
  let d := secBytes b x
  let f (o n : Nat) : Nat := leAt d o n
  match x.type with
  | 1 => decide (x.len ≠ 16384)
  | 2 => decide (x.len ≠ 64)
  | 3 => decide (x.len ≠ 112)
  | 4 =>
    let u := imgUnits b s
    let r := recordAt (firstSec b 1) (256 * f 0 1)
    let w := recWork u r
    decide (x.len < 64 ∨ x.len < 64 + f 16 8 ∨ f 8 8 % 64 ≠ 0 ∨ f 24 8 % 4 ≠ 0) ||
      decide (f 0 1 < 64 ∧ 1 ≤ u ∧ u ≤ 8 ∧ r.collUnits ≤ 64 ∧ (w < f 8 8 + f 16 8 ∨ w < f 24 8 + 4 ∨ w ≤ f 32 8))
  | 5 => decide (x.len < 64 ∨ f 4 2 = 0 ∨ x.len ≠ 64 + 16 * f 4 2)
  | _ => false

/-- LENGTH (R50); `want` is IMG_LEN in a load from host memory. -/
def lengthFails (s : State) (want : Option Nat) (b : List Byte) : Option Reject :=
  failIf (match want with | some n => decide (imgLen b ≠ n) | none => decide (0x6000000 < imgLen b)) 4
    <|> layoutFails b
    <|> ((imgSecs b).find? (contentFails s b)).map fun x => (4, x.idx)

/-- DIGEST (R50). -/
def digestFails (b : List Byte) : Option Reject :=
  ((imgSecs b).find? fun x => decide (x.type ≠ 0xFFFF ∧ sha3 (secBytes b x) ≠ x.digest)).map fun x => (8, x.idx)
/-- UNKNOWN_SECTION (R48). -/
def unknownFails (b : List Byte) : Option Reject :=
  ((imgSecs b).find? fun x => x.required && !([1, 2, 3, 4, 5, 0xFFFF].contains x.type)).map fun x => (9, x.idx)

/-- Two sections of a type name one partition, or one names a partition that the image does not define (R46, R476). -/
def namesBad (b : List Byte) (t : Nat) : Option Reject :=
  let xs := secsOf b t
  let name (x : Sec) : Nat := leAt b x.off 1
  (xs.find? fun x => !((imgNew b).any fun e => e.1 = name x) || xs.any fun y => decide (y.idx < x.idx ∧ name y = name x)).map fun x => (10, x.idx)

/-- KIND (R46, R50); a KIND byte above 1 fails with it too (log entry 14). -/
def kindFails (s : State) (b : List Byte) : Option Reject :=
  let full := decide (imgKind b = 0)
  let extra (t k : Nat) : Option Reject :=
    let xs := secsOf b t
    if xs.length = k then none else some (10, match xs[k]? with | some x => x.idx | none => 0xFFFF)
  failIf (decide (1 < imgKind b ∨ imgId b = 0)) 10
    <|> failIf (if full then decide (imgBase b ≠ 0) else decide (imgBase b ≠ (reg s aImgActive).toNat ∨ imgBase b = 0)) 10
    <|> extra 1 1 <|> extra 0xFFFF 1 <|> extra 2 (b2n full) <|> extra 3 (b2n full)
    <|> namesBad b 4 <|> namesBad b 5
    <|> failIf ((imgNew b).any fun e => (secFor b 4 e.1).isNone) 10

/-- RUNNING (R62, R63). -/
def runningFails (s : State) (b : List Byte) : Option Reject :=
  failIf (if imgKind b = 0 then s.parts.any fun e => decide (e.2.st = .running ∨ e.2.st = .suspended)
    else (imgRecords b).any fun e => decide ((e.2.action = 1 ∨ e.2.action = 2) ∧ (part s e.1).st ≠ .empty ∧ (part s e.1).st ≠ .stopped ∧ (part s e.1).st ≠ .faulted)) 11

/-- The partitions that a partial image leaves untouched, with their records. -/
def imgOthers (s : State) (b : List Byte) : List (Nat × PartRec) :=
  if imgKind b = 0 then []
  else (s.parts.filter fun e => e.2.st ≠ .empty && !((imgRecords b).any fun r => decide (r.1 = e.1 ∧ (r.2.action = 1 ∨ r.2.action = 2)))).map fun e => (e.1, e.2.prec)
/-- The place of the PARTITIONS section. -/
def partsIdx (b : List Byte) : Nat := match secsOf b 1 with | x :: _ => x.idx | [] => 0xFFFF
/-- The place of the first section of a type. -/
def secIdx (b : List Byte) (t : Nat) : Nat := match secsOf b t with | x :: _ => x.idx | [] => 0xFFFF

/-- A tile of a quadrant that the boot journal marks failed or whose domain failed (R39, R53, R533). -/
def tileLost (s : State) (t : Nat) : Bool := s.failedQuads.contains (quadOf t) || decide (domSt s (quadOf t) = .failed)
/-- TILE (R53, R63). -/
def tileFails (s : State) (b : List Byte) : Option Reject :=
  let new := imgNew b
  if new.any fun e => e.2.tiles.isEmpty || e.2.tiles.any fun t => tileLost s t || (imgOthers s b).any (fun o => o.2.tiles.contains t)
      || new.any fun o => decide (o.1 < e.1) && o.2.tiles.contains t
  then some (12, partsIdx b) else none

/-- The sets of the cache under an image (R58, R316): a full image's cache leaves out every failed quadrant. -/
def imgSets (s : State) (b : List Byte) : Nat :=
  if imgKind b = 0 then ((List.range 1024).filter fun t => !tileLost s t).length * 128 * imgUnits b s else totalSets s
/-- The lowest run of `n` sets that meets none of the runs `used`. -/
def freeRun (n total : Nat) (used : List (Nat × Nat)) : Option Nat :=
  ((0 :: used.map fun u => u.1 + u.2).filter fun i => decide (i + n ≤ total) && used.all fun u => decide (i + n ≤ u.1 ∨ u.1 + u.2 ≤ i ∨ u.2 = 0)).foldl
    (fun m i => match m with | some k => some (min k i) | none => some i) none
/-- The cache regions that an image gives (R317): partition, first set, number of sets. -/
def imgRegions (s : State) (b : List Byte) : Option (List (Nat × Nat × Nat)) :=
  let keep := s.bst.regions.filter fun r => (imgOthers s b).any fun o => o.1 = r.1
  let pool := (s.bst.poolBase, s.bst.poolSize)
  (imgNew b).foldl (fun acc e =>
    match acc with
    | none => none
    | some l =>
      let n := 512 * e.2.keepQuota
      if n = 0 then some l
      else if imgKind b = 0 then
        let at_ := (l.map fun r => r.2.2).sum
        if at_ + n ≤ imgSets s b then some (l ++ [(e.1, at_, n)]) else none
      else (freeRun n (imgSets s b) (pool :: (keep ++ l).map fun r => r.2)).map fun i => l ++ [(e.1, i, n)]) (some [])
/-- CARVE (R58, R317). -/
def carveFails (s : State) (b : List Byte) : Option Reject :=
  let c := firstSec b 2
  if imgKind b = 0 ∧ (leAt c 0 1 < 1 ∨ 8 < leAt c 0 1 ∨ (c.drop 1).any (· != 0)) then some (13, secIdx b 2)
  else failIf ((imgRegions s b).isNone) 13

/-- Role, EXPECT_SLOT, and link encryption of port `n` (R60). -/
def linkRecord (b : List Byte) (n : Nat) : Nat × Nat × Bool := let t := firstSec b 3; (leAt t (4 * n) 1, leAt t (4 * n + 1) 1, bitOf (leAt t (4 * n + 2) 1) 0)
/-- The role of port `n` under an image. -/
def imgRole (s : State) (b : List Byte) (n : Nat) : Nat := if imgKind b = 0 then (linkRecord b n).1 else (port s n).role
/-- LINK (R60). DESIGN CHOICE: an EXPECT_SLOT of 18 to 254 is rejected with this code whatever the port's role; R60 gives it no code and speaks of CELL ports
(log entry 29). -/
def linkFails (s : State) (b : List Byte) : Option Reject :=
  let t := firstSec b 3
  let roles := (List.range 28).map (imgRole s b)
  let k (r : Nat) : Nat := roles.count r
  let bad (n : Nat) : Bool :=
    decide (5 < leAt t (4 * n) 1 ∨ (17 < leAt t (4 * n + 1) 1 ∧ leAt t (4 * n + 1) 1 ≠ 0xFF) ∨ 1 < leAt t (4 * n + 2) 1 ∨ leAt t (4 * n + 3) 1 ≠ 0)
  if imgKind b = 0 ∧ ((List.range 28).any bad ∨ k 2 = 0 ∨ 6 < k 2 ∨ 7 < k 2 + k 3 ∨ 17 < k 1 ∨ 2 < k 4 ∨ 2 < k 5) then some (14, secIdx b 3)
  else failIf ((imgNew b).any fun e => (List.range 28).any fun n => bitOf e.2.portMask n &&
    (decide (roles.getD n 0 < 4) || (imgOthers s b ++ imgNew b).any fun o => decide (o.1 ≠ e.1) && bitOf o.2.portMask n)) 14

/-- SOLVER (R54). -/
def solverFails (s : State) (b : List Byte) : Option Reject :=
  let all := imgOthers s b ++ imgNew b
  let slots (r : PartRec) (d : Nat) : Nat := r.solverSlots.getD d 0
  if (List.range 4).any (fun d => decide (64 < (all.map fun e => slots e.2 d).sum)
      || (imgNew b).any fun e => decide (slots e.2 d ≠ 0) && !e.2.tiles.any fun t => dieOf t = d)
  then some (15, partsIdx b) else none

/-- BSTORE (R54). -/
def bstoreFails (s : State) (b : List Byte) : Option Reject :=
  let g := 0x4000000
  if (imgNew b).any fun e => decide (e.2.bstBase % g ≠ 0 ∨ e.2.bstSize % g ≠ 0 ∨ (e.2.bstSize ≠ 0 ∧ bstCapacity s < e.2.bstBase + e.2.bstSize)) ||
      (imgOthers s b ++ imgNew b).any fun o =>
        decide (o.1 ≠ e.1 ∧ e.2.bstSize ≠ 0 ∧ o.2.bstSize ≠ 0 ∧ e.2.bstBase < o.2.bstBase + o.2.bstSize ∧ o.2.bstBase < e.2.bstBase + e.2.bstSize)
  then some (16, partsIdx b) else none

/-- What the members of a shape group share (R55). -/
def shapeOf (r : PartRec) : Nat × Nat × Nat × Nat × Nat × Nat := (r.tiles.length, r.collUnits, r.keepQuota, r.solverSlots.sum, r.mode, r.audit)
/-- SHAPE (R55). -/
def shapeFails (s : State) (b : List Byte) : Option Reject :=
  let all := imgOthers s b ++ imgNew b
  if all.any fun e => decide (e.2.shapeGroup ≠ 0) && all.any fun o => decide (o.2.shapeGroup = e.2.shapeGroup ∧ shapeOf o.2 ≠ shapeOf e.2)
  then some (17, partsIdx b) else none

/-- A record that R54 rejects with POLICY. -/
def policyBad (b : List Byte) (p : Nat) (r : PartRec) : Bool :=
  decide (3 ≤ r.mode) || (decide (r.audit = 2) && (secFor b 5 p).isNone) || decide (3 ≤ r.audit) || decide (r.eclassMask = 0) || !bitOf r.peerMask p
    || decide (4 ≤ r.hostWindow ∨ 15 < r.priority ∨ 63 < r.shapeGroup ∨ 63 < r.keyId ∨ 64 < r.collUnits ∨ 60000 < r.wdogMs ∨ 2 ^ 28 ≤ r.portMask) || !r.resvOk
/-- POLICY (R54). DESIGN CHOICE: the fields other than ACTION are judged in the records that define a partition (ACTION 1), since a record that keeps or empties
one uses none of them (log entry 29). -/
def policyFails (s : State) (b : List Byte) : Option Reject :=
  if (imgRecords b).any (fun e => decide (2 < e.2.action ∨ (imgKind b = 0 ∧ e.2.action = 2))) ∨ (imgNew b).any (fun e => policyBad b e.1 e.2)
      ∨ 5600 < ((imgOthers s b ++ imgNew b).map fun e => e.2.powerShare).sum
  then some (18, partsIdx b) else none

/-- MAGIC to UNKNOWN_SECTION of R50 with the signatures of a key table. -/
def fileFails (s : State) (want : Option Nat) (b : List Byte) : Option Reject :=
  headerFails s 0x4E564C45 b
    <|> lengthFails s want b
    <|> (sigFails s 1 (imgMessage b) (lastSec b)).map (fun c => (c, imgCount b - 1))
    <|> failIf (decide (imgSecVersion b < s.fuses.secMin)) 7
    <|> digestFails b
    <|> unknownFails b

/-- The first check of R50 that an image fails. -/
def imageFails (s : State) (want : Option Nat) (b : List Byte) : Option Reject :=
  fileFails s want b
    <|> kindFails s b
    <|> runningFails s b
    <|> tileFails s b
    <|> carveFails s b
    <|> linkFails s b
    <|> solverFails s b
    <|> bstoreFails s b
    <|> shapeFails s b
    <|> policyFails s b

/-! ### The passes -/

/-- A load is rejected (R50, R51): STATE, REASON, SECTION and REJECT_EVT. -/
def rejectLoad (r : Reject) (s : State) : State :=
  stick aImgStatus 33 (modImg (fun i => { i with phase := .rejected, reason := r.1, section_ := r.2, img := [] }) s)

/-- The partitions that a load resets (R62, R64). -/
def imgNamed (s : State) (b : List Byte) : List Nat :=
  if imgKind b = 0 then (List.range 64).filter fun p => decide ((part s p).st ≠ .empty) || (imgNew b).any fun e => e.1 = p
  else ((imgRecords b).filter fun e => decide (e.2.action = 1 ∨ e.2.action = 2)).map (·.1)

/-- The lines that a load writes back wait for the board-store PHY (R62, R64, R325). -/
def loadWait (b : List Byte) (s : State) : Option State :=
  if imgKind b = 0 then flushWait 0 (totalSets s) s
  else (imgNamed s b).findSome? fun p => flushWait (regionOf s p).1 ((regionOf s p).1 + (regionOf s p).2) s
/-- The apply pass begins: the partitions that the load resets become LOADING, which powers their quadrants (R62, R64, R492). -/
def beginApply (s : State) : State :=
  let b := s.img.img
  let s := modImg (fun i => { i with phase := .apply }) s
  let s := (imgNamed s b).foldl (fun s p => powerTiles p (setPState p .loading s)) s
  ((imgNew b).flatMap fun e => e.2.tiles.map quadOf).eraseDups.foldl (fun s q => powerUp q s) s

/-- A partition becomes EMPTY; its tiles return to the package (R62, R64). -/
def emptyPart (p : Nat) (s : State) : State :=
  let s := { s with coll := { s.coll with parts := tabDel p s.coll.parts }, dig := s.dig.filter (fun c => c.part ≠ p), pwr := { s.pwr with parts := tabDel p s.pwr.parts } }
  let s := modBst (fun b => { b with regions := b.regions.filter fun r => r.1 ≠ p }) s
  modPart p (fun _ => {}) s
/-- A load that resets a partition puts DL_FORCE back (IMG_AUDIT_p); the status bits stay until they are cleared (R13). -/
def loadEmpty (p : Nat) (s : State) : State := emptyPart p (putB (aImgAudit p) 3 false s)

/-- A full load resets the package (R62, steps 1 to 3). -/
def fullReset (s : State) : State :=
  let s := (List.range 64).foldl (fun s p => solvDropPart p (collEndAll p cReset 0 s)) s
  let s := (List.range 1024).foldl (fun s t => tileReset t s) s
  let s := dropSets 0 (totalSets s) (flushSets 0 (totalSets s) s)
  { s with mem := [], ecc := [] }

/-- A partial load resets a partition that it names (R64). -/
def partReset (p : Nat) (s : State) : State :=
  let x := part s p
  let wc := workBytes s p + collBytes s p
  let s := solvDropPart p (collEndAll p cReset 0 s)
  let s := x.prec.tiles.foldl (fun s t => tileReset t s) s
  let r := regionOf s p
  let s := dropSets r.1 (r.1 + r.2) (flushSets r.1 (r.1 + r.2) s)
  let s := if x.st = .empty then s else x.prec.tiles.foldl (fun s t => zeroRange (pkgAddr t 0) (pkgAddr t wc) s) s
  loadEmpty p s

/-- Apply LINKS (R60): a port whose role changes retrains, the others stay trained. -/
def applyLinks (b : List Byte) (s0 : State) : State :=
  let s := s0
  let s := allPorts.foldl (fun s n =>
    let r := linkRecord b n
    if (port s n).role = r.1 then modPort n (fun x => { x with expect := r.2.1, encReq := r.2.2 }) s
    else
      let s := darkPort n (loseLink n 6 s)
      modPort n (fun x => { x with role := r.1, expect := r.2.1, encReq := r.2.2, attempts := 0 }) s) s
  let s := (List.range 4).foldl (fun s e => if (List.range 7).any (fun i => decide ((port s (7 * e + i)).role ≠ 0)) then powerUp (24 + e) s else s) s
  applyModePorts (allPorts.map fun n => (port s0 n).role) s
where
  /-- MGMT_ONLY of the ports after a load (R377, R408, R409): in MAINT every uplink and standby has it; in FULL a port that carries traffic has not, an uplink that an
  UPLINK_SWAP has set aside keeps it, and a standby has it. The other roles carry all VCs. A port that is no uplink or standby any more carries no uplink traffic. -/
  applyModePorts (was : List Nat) (s : State) : State :=
    let s := modCell (fun c => { c with carry := c.carry.filter fun n => decide ((port s n).role = 2 ∨ (port s n).role = 3) }) s
    allPorts.foldl (fun s n =>
      let r := (port s n).role
      if inMaint s ∧ (r = 2 ∨ r = 3) then putB (aLnkCtrl n) 1 true s
      else if r = 2 then (if s.cell.carry.contains n ∨ was.getD n 0 ≠ 2 then putB (aLnkCtrl n) 1 false s else s)
      else if r = 3 then putB (aLnkCtrl n) 1 (!s.cell.carry.contains n) s
      else if was.getD n 0 ≠ r then putB (aLnkCtrl n) 1 false s
      else s) s

/-- Place a partition's program, seeds and step views; it becomes STOPPED (R62, R64, R214, R215, R475, R476), or FAULTED where a quadrant of its tiles has failed since the
verify pass (R533). -/
def definePart (b : List Byte) (p : Nat) (r : PartRec) (s : State) : State :=
  let d := match secFor b 4 p with | some x => secBytes b x | none => []
  let sx := secFor b 5 p
  let sd := match sx with | some x => secBytes b x | none => []
  let seeds := sx.map fun _ => (List.range (leAt sd 4 2)).map fun i => slice sd (64 + 16 * i) 16
  let step0 := if sx.isSome then leAt sd 8 8 else 0
  let code := slice d 64 (leAt d 16 8)
  let s := modPart p (fun _ => {
    st := .loading
    prec := r
    entry := leAt d 24 8
    handler := leAt d 32 8
    progDigest := match secFor b 4 p with | some x => x.digest | none => []
    seedDigest := match sx with | some x => x.digest | none => []
    seeds := seeds
    step0 := step0 }) s
  let s := r.tiles.foldl (fun s t => modTile t (fun x => { x with step := BitVec.ofNat 64 step0 }) (setBytes (pkgAddr t (leAt d 8 8)) code s)) s
  if r.tiles.any fun t => decide (domSt s (quadOf t) = .failed) then setPState p .faulted (modPart p (fun x => { x with cause := 4 }) s) else setPState p .stopped s

/-- The apply pass ends in DONE (R62, R64): measurement 5 follows (R590). -/
def finishLoad (b : List Byte) (s : State) : State :=
  let m := if imgKind b = 0 then leBytes 8 (imgId b) ++ sha3 (imgMessage b) else sha3 (s.sec.measured ++ imgMessage b)
  let s := { s with sec := { s.sec with measured := m, imgVersion := imgSecVersion b } }
  stick aImgStatus 32 (modImg (fun i => { i with phase := .done, reason := 0, section_ := 0, img := [] }) s)

/-- The apply pass of a full load (R62). -/
def applyFull (b : List Byte) (s : State) : State :=
  let regions := (imgRegions s b).getD []
  let units := imgUnits b s
  let s := fullReset s
  let s := { s with failedQuads := (List.range 16).filter fun q => s.failedQuads.contains q || decide (domSt s q = .failed) }
  let s := (List.range 64).foldl (fun s p => loadEmpty p s) s
  let used := (regions.map fun r => r.2.2).sum
  let s := modBst (fun x => { x with units := units, regions := regions, poolBase := used }) s
  let s := modBst (fun x => { x with poolSize := totalSets s - used }) s
  let s := setReg aImgActive (BitVec.ofNat 64 (imgId b)) s
  let s := applyLinks b s
  let s := allPorts.foldl (fun s n => openPort n s) s
  finishLoad b ((imgNew b).foldl (fun s e => definePart b e.1 e.2 s) s)

/-- The apply pass of a partial load (R64, R317). -/
def applyPartial (b : List Byte) (s : State) : State :=
  let regions := (imgRegions s b).getD []
  let named := imgNamed s b
  let done := named.flatMap fun p => (part s p).prec.tiles
  let s := named.foldl (fun s p => partReset p s) s
  let s := modBst (fun x => { x with regions := x.regions ++ regions }) s
  let s := (imgNew b).foldl (fun s e =>
    let wc := recWork s.bst.units e.2 + e.2.collUnits * 0x40000
    e.2.tiles.foldl (fun s t => zeroRange (pkgAddr t 0) (pkgAddr t wc) (if done.contains t then s else tileReset t s)) s) s
  finishLoad b ((imgNew b).foldl (fun s e => definePart b e.1 e.2 s) s)

/-- A failure in the apply pass (R51, R62, R64). DESIGN CHOICE: after a failed full load CACHE_UNITS stays as it was and the whole cache is the pool; R62 names
partitions, IMG_ACTIVE and port roles only (log entry 29). -/
def failApply (b : List Byte) (r : Reject) (s : State) : State :=
  if imgKind b = 0 then
    let s := (List.range 64).foldl (fun s p => loadEmpty p s) (fullReset s)
    let s := allPorts.foldl (fun s n => if (port s n).boot then s else darkPort n (loseLink n 6 s)) s
    rejectLoad r (setReg aImgActive 0 (modBst (fun x => { x with regions := [], poolBase := 0, poolSize := totalSets s }) s))
  else rejectLoad r ((imgNamed s b).foldl (fun s p => partReset p s) s)

/-- IMG_STATUS, the bits that are not stored. -/
def imgStatusView (s : State) : Nat :=
  (match s.img.phase with | .idle => 0 | .verify => 1 | .apply => 2 | .done => 3 | .rejected => 4) + 2 ^ 8 * s.img.reason + 2 ^ 16 * s.img.section_

end Sys2Proof.Machine
end

