-- ==== Sys2Proof/Machine/DomOps.lean ====
section
/-!
DEFINITION. Machine/DomOps.lean: power domains: when one may be switched off, what switching it off and on does, and failed domains (R347, R386, R492, R532, R533).
-/
namespace Sys2Proof.Machine

/-- The ports of an optical bank (R492). -/
def bankPorts (e : Nat) : List Nat := (List.range 7).map (7 * e + ·)

/-- No collective is queued or running (R492). -/
def collQuiet (s : State) : Bool :=
  s.coll.parts.all (fun e => e.2.run.isNone && e.2.queue.isEmpty && !e.2.held) && s.coll.outq.isEmpty && !s.posts.any fun x => x.kind = .coll
/-- Every slot of a die's sequencer is FREE and no command is queued (R287, R492). -/
def solvEmpty (s : State) (d : Nat) : Bool :=
  (solvOf s d).cmds.isEmpty && (solvOf s d).slots.all (fun e => decide (e.2.st = .free)) && !s.posts.any fun x => decide (x.kind = .solv ∧ x.die = d)

/-- A domain may be switched off (R492, last column; R526: the entry to a sleep state switches quadrants and the collective engine off). -/
def offAllowed (s : State) (n : Nat) : Bool :=
  if n < 16 then
    (match s.pwr.sleep with | .entering _ => true | _ => false) ||
      s.parts.all fun e => !e.2.prec.tiles.any (fun t => quadOf t = n) || (match e.2.st with | .loading => false | .running => false | .suspended => false | _ => true)
  else if n < 20 then false
  else if n < 24 then solvEmpty s (n - 20)
  else if n < 28 then (bankPorts (n - 24)).all fun m => (port s m).role = 0
  else if n = 28 then decide (s.bst.present = 0)
  else collQuiet s

/-- A port of a bank still has frames to send or to have acknowledged, or sends CLOSE frames (R386). -/
def portBusy (s : State) (m : Nat) : Bool := (port s m).closing || (portUp s m && !((port s m).replay.isEmpty && (port s m).txq.isEmpty))
/-- A request is accepted and unanswered at a unit of the domain, or outstanding from one (R347), or a port of its bank is busy (R386). -/
def domOutstanding (s : State) (n : Nat) : Bool :=
  (decide (24 ≤ n ∧ n < 28) && (bankPorts (n - 24)).any (portBusy s))
  || s.ni.any fun i => i.2.entries.any fun e => (e.2.waiting && domainOf e.2.req.dstStn.toNat = some n) || (!e.2.quar && domainOf i.1 = some n)
/-- A drained domain may not go off yet: something is outstanding, or a slot of its sequencer is not FREE or a command queued (R287), which only the entry to a package
state as a whole does not wait for (R526, R527). -/
def domBusy (s : State) (n : Nat) : Bool :=
  domOutstanding s n ||
  (decide (20 ≤ n ∧ n < 24) && !((solvOf s (n - 20)).cmds.isEmpty && (solvOf s (n - 20)).slots.all fun e => decide (e.2.st = .free)))

/-- A domain is switched off (R347, R386): the ports of a bank take the loss with cause DRAIN and go dark. -/
def domainOff (n : Nat) (s : State) : State :=
  let s := if 24 ≤ n ∧ n < 28 then (bankPorts (n - 24)).foldl (fun s m => darkPort m (loseLink m 7 s)) s else s
  modDom n (fun d => { d with st := .off, slow := false, again := false }) (if n = 29 then { s with coll := { s.coll with pend := [], outq := [] } } else s)

/-- The drained domain is switched off; the ACTIVE ports of a bank first take the loss with cause DRAIN and send CLOSE frames (R386). -/
def drainDone (n : Nat) (s : State) : State :=
  if 24 ≤ n ∧ n < 28 ∧ (bankPorts (n - 24)).any (portUp s) then (bankPorts (n - 24)).foldl (fun s m => loseLink m 7 s) s else domainOff n s

/-- A tile's quadrant is powered on: its registers return to their tile-reset values (R599), but RUN keeps the step view (R475). -/
def tileCycle (t : Nat) (s : State) : State := let v := (tile s t).step; modTile t (fun x => { x with step := v }) (tileClear t s)
/-- The units of a domain that has powered up read ACTIVE (R151, R216, R369, R492, R494, R599). -/
def domainOn (n : Nat) (s : State) : State :=
  let s := modDom n (fun d => { d with st := .on, slow := false, again := false }) s
  if n < 16 then
    let s := (List.range 64).foldl (fun s i => tileCycle (64 * n + i) s) s
    (List.range 64).foldl (fun s i =>
      match ownerOf s (64 * n + i) with
      | some p => if (part s p).st = .running ∨ (part s p).st = .suspended then startCore p (64 * n + i) s else s
      | none => s) s
  else if n < 20 then s
  else if n < 24 then solvKickAll s
  else if n < 28 then (bankPorts (n - 24)).foldl (fun s m => openPort m s) s
  else if n = 28 then moveChans .training .trained s
  else s

/-- Every channel is ABSENT (R533). -/
def dropChannels (s : State) : State := modBst (fun b => { b with chans := [] }) s

/-- A partition that holds a tile of a lost domain or clock becomes FAULTED with cause DOMAIN_FAIL, whatever its state was (R533, R535). -/
def domainFault (p : Nat) (s : State) : State :=
  match (part s p).st with
  | .empty => s
  | .running => faultEnd p 4 cTimeout s
  | .suspended => faultEnd p 4 cTimeout s
  | .faulted => modPart p (fun x => { x with cause := 4 }) s
  | _ => setPState p .faulted (modPart p (fun x => { x with cause := 4 }) s)
/-- Partitions with a tile in a failed quadrant become FAULTED (R533). -/
def faultQuad (q : Nat) (s : State) : State :=
  (List.range 64).foldl (fun s p => if (part s p).prec.tiles.any (fun t => quadOf t = q) then domainFault p s else s) s

/-- A domain is FAILED (R533); one that is already stays so. The stations of its units complete what is outstanding to them. -/
def failOne (n : Nat) (s : State) : State :=
  if domSt s n = .failed then s
  else
    let s := (domStations n).foldl (fun s x => endStation cTimeout x s) s
    let s := modDom n (fun d => { d with st := .failed, slow := false, again := false }) s
    if n < 16 then faultQuad n s
    else if n < 20 then s
    else if n < 24 then solvReset (n - 20) s
    else if n < 28 then (bankPorts (n - 24)).foldl (fun s m => darkPort m (loseLink m 3 s)) s
    else if n = 28 then dropChannels s
    else let s := (List.range 64).foldl (fun s p => collEndAll p cOff 0 s) s; solvKickAll { s with coll := { s.coll with pend := [], outq := [] } }
/-- A domain is FAILED; with the stacked memory of a die, its four quadrants (R533). -/
def failDomain (n : Nat) (s : State) : State :=
  let s := failOne n s
  if 16 ≤ n ∧ n < 20 then (List.range 4).foldl (fun s q => failOne (4 * (n - 16) + q) s) s else s

/-! ### Repair (R37, R39, R304) -/

/-- The scratchpad rows that are mapped onto spares (R304): those that the fuses, the self-test and the repair table name. -/
def spareRows (tested : List Nat) (s : State) : List Nat := (s.fuses.badRows ++ tested ++ s.flash.repair).eraseDups
/-- The physical tiles that have a row group with more than one such row (R304). -/
def overTiles (rows : List Nat) : List Nat := ((rows.filter fun x => rows.any fun y => decide (x ≠ y ∧ x / 32 = y / 32)).map (· / 8192)).eraseDups
/-- The physical columns of a row of a quadrant that hold failed tiles: the one that the tile test found, and those without spares (R37, R304). -/
def failedCols (s : State) (skip : Nat) (q r : Nat) : List Nat :=
  ((if skip = 16 then [] else [skip]) ++ ((overTiles s.spares).filter fun x => x / 17 = 4 * q + r).map (· % 17)).eraseDups
/-- The exit from Dark repairs rows as the start does (R304, R527): rows recorded since then take their spares, the Solder map leaves out a tile that has too few, and a
quadrant with two such tiles in a row is failed (R39). -/
def repairRows (s : State) : State :=
  let s := { s with spares := spareRows s.spares s }
  let cols (i : Nat) : List Nat := failedCols s (tabGet 16 i s.solder) (i / 4) (i % 4)
  let bad := (List.range 16).filter fun q => (List.range 4).any fun r => decide (1 < (cols (4 * q + r)).length)
  bad.foldl (fun s q => failOne q s) { s with solder := (List.range 64).foldl (fun t i => tabSet 16 i ((cols i).headD 16) t) [] }

/-- The boot journal's MASK bit and step of a domain (R557). -/
def domStep (n : Nat) : Nat × Nat :=
  if n < 16 then (7, n) else if n < 20 then (5, n - 16) else if n < 24 then (10, n - 20) else if n < 28 then (14, n - 24) else if n = 28 then (11, 0) else (10, 4)
/-- A domain fails: FAILED, the journal, DOM_FAIL and the event (R532, R595). -/
def domFail (n : Nat) (s : State) : State :=
  let s := journalFail (domStep n).1 (domStep n).2 (failDomain n s)
  logEvent { event := 0x16, sev := 2, detail := n } (stick aPwrStatus 22 s)

end Sys2Proof.Machine
end

