-- ==== Sys2Proof/Machine/Thermal.lean ====
section
/-!
DEFINITION. Machine/Thermal.lean: temperature, coolant and HALT_N (R515 to R518, R624 to R626).
-/
namespace Sys2Proof.Machine

/-! ### The stop (R517) -/

/-- Every partition becomes EMPTY (R517, R527, R547): its collectives, solver commands and posts end. -/
def emptyAll (code : Byte) (s : State) : State :=
  let s := (List.range 64).foldl (fun s p => collEndAll p code 0 s) s
  let s := (List.range 4).foldl (fun s d => solvReset d s) s
  let s := (List.range 64).foldl (fun s p => emptyPart p s) s
  setReg aImgActive 0 { s with posts := [], dig := [], coll := {} }
/-- Scratchpad, cache contents and what the quadrants hold are lost (R517, R527, R547). -/
def loseScratch (s : State) : State :=
  let s := (List.range 1024).foldl (fun s t => tileClear t s) s
  modBst (fun b => { b with sets := [], regions := [], flush := none }) { s with mem := [], ecc := [] }
/-- The contents of the devices are lost (R517, R548). -/
def loseDevices (s : State) : State :=
  tickFree (modBst (fun b => { b with dev := [], devGen := s.freeCount, lost := [], selfRefresh := false }) s)
/-- Every switched domain is off without drain: each NI completes what is outstanding to its unit with UNIT_RESET and takes the next epoch (R517, R547). -/
def allOff (s : State) : State :=
  let s := (List.range 1133).foldl (fun s n => resetStation n s) s
  let s := allPorts.foldl (fun s n => darkPort n (loseLink n 3 s)) s
  { s with doms := s.doms.filterMap fun e => if e.2.st = .failed then some (e.1, { st := .failed }) else none }
/-- The start is between BOOT_05 and BOOT_16 (R624). -/
def starting (s : State) : Bool := !s.boot.ended && decide (5 ≤ s.boot.step ∧ s.boot.step ≤ 16) && decide (s.boot.now.outcome ≠ 3)
/-- The start pauses before BOOT_05 (R624): the entry of the step in progress returns to RESULT 0. -/
def pauseStart (s : State) : State :=
  let now := { s.boot.now with steps := tabSet {} s.boot.step { tabGet {} s.boot.step s.boot.now.steps with result := 0, start := 0, stop := 0 } s.boot.now.steps }
  modPwr (fun x => { x with paused := true }) (saveRec now { s with boot := { s.boot with step := 5 } })
/-- The stop of R517 with its STOP_CAUSE: 1 COOLANT, 2 TRIP. -/
def stopAll (cause : Nat) (s : State) : State :=
  let s := loseDevices (loseScratch (emptyAll cReset (allOff s)))
  let s := if s.img.phase = .verify ∨ s.img.phase = .apply then modImg (fun _ => {}) s else s
  let s := modPwr (fun x => { x with sleep := if s.boot.ended then .dark else .active, votes := none, prepared := none, wakeHeld := false }) s
  let s := putF aPwrTherm 3 2 cause (stick aPwrTherm 0 s)
  let s := logEvent { event := 0x18, sev := 3, detail := cause } s
  noteSensors (if starting s then pauseStart s else s)

/-! ### Readings (R515, R516) -/

/-- The thermal cap after a reading (R515): readings are 100 µs apart, so the eleventh below 103 °C in a row ends the first millisecond. -/
def thermalCap (s : State) : State :=
  let h := hottest s
  if 105 ≤ h then
    let c := 98 * min (s.pwr.thermCap.getD (1000 * capW s)) s.pwr.pm / 100
    putB aPwrStatus 5 true (modPwr (fun x => { x with thermCap := some c, cool := 0 }) s)
  else if 103 ≤ h then modPwr (fun x => { x with cool := 0 }) s
  else match s.pwr.thermCap with
    | none => s
    | some c =>
      let k := s.pwr.cool + 1
      let s := modPwr (fun x => { x with cool := k }) s
      if k % 10 ≠ 1 ∨ k = 1 then s
      else
        let c := c + 10 * capW s
        if 1000 * capW s ≤ c then putB aPwrStatus 5 false (modPwr (fun x => { x with thermCap := none, cool := 0 }) s)
        else modPwr (fun x => { x with thermCap := some c }) s

/-- THERMAL_READ (R515, R516): the thermal cap, and the trip, whose stop also follows one for the coolant. -/
def execThermalRead (temps : Temps) (s : State) : Host.Outcome State Fault Refusal :=
  .next (
    let s := thermalCap (modPwr (fun x => { x with quads := temps.quads.take 16, mems := temps.mems.take 4 }) s)
    let h := hottest s
    let s := if 115 ≤ h then { s with pins := { s.pins with trip := true } } else if h < 100 then { s with pins := { s.pins with trip := false } } else s
    if 115 ≤ h ∧ !(getB s aPwrTherm 0 && decide (getF s aPwrTherm 3 2 = 2)) then stopAll 2 s else noteSensors s)

/-! ### Coolant (R517, R518, R624) -/

/-- COOLANT_FALL (R517, R624). -/
def execCoolantFall (s : State) : Host.Outcome State Fault Refusal :=
  .next (if !s.pins.coolant then s else stopAll 1 { s with pins := { s.pins with coolant := false } })

/-- COOLANT_RISE (R518). -/
def execCoolantRise (s : State) : Host.Outcome State Fault Refusal :=
  .next (if s.pins.coolant then s else noteSensors (modPwr (fun x => { x with coolantTick := s.tick }) { s with pins := { s.pins with coolant := true } }))

/-- A write that clears THERM_STOP may take effect (R518). -/
def thermClearable (s : State) : Bool :=
  getB s aPwrTherm 0 && decide (5000 ≤ coolantMs s) && (decide (getF s aPwrTherm 3 2 ≠ 2) || decide (hottest s < 95))
/-! ### What the latest record makes of a step (R554, R556) -/

/-- A mandatory step (R553). -/
def bootMandatory (k : Nat) : Bool := decide (k ≤ 4 ∨ k = 9 ∨ k = 12 ∨ k = 16)
/-- A step with an alternative (R553). -/
def bootHasAlt (k : Nat) : Bool := decide (2 ≤ k ∧ k ≤ 5 ∨ k = 8 ∨ k = 15)
/-- The instances of a step as a mask (R557): dies, quadrants, units, channels, banks, or the step itself. -/
def bootInstances (k : Nat) : Nat :=
  if k = 4 ∨ k = 5 ∨ k = 6 ∨ k = 14 then 15 else if k = 7 ∨ k = 8 then 0xFFFF else if k = 10 then 31 else if k = 11 then 0xFFF else 1
/-- The entry of a step in the latest record. -/
def prevEnt (s : State) (k : Nat) : StepEnt := match s.boot.latest with | some r => tabGet {} k r.steps | none => {}
/-- The instances that failed or were skipped in the latest record; a step that began and has no end failed as a whole (R556). -/
def prevFailed (s : State) (k : Nat) : Nat :=
  let e := prevEnt s k
  if e.start ≠ 0 ∧ e.stop = 0 then bootInstances k
  else if (e.result = 2 ∨ e.result = 5) ∧ e.mask = 0 then bootInstances k
  else e.mask &&& bootInstances k
/-- The instances that run the alternative (rule 2). -/
def bootAlts (s : State) (k : Nat) : Nat := if !s.boot.retryAll && bootHasAlt k && decide ((prevEnt s k).alt = 0) then prevFailed s k else 0
/-- The instances that are skipped (rule 3). -/
def bootSkips (s : State) (k : Nat) : Nat :=
  if s.boot.retryAll || bootMandatory k || (bootHasAlt k && decide ((prevEnt s k).alt = 0)) then 0 else prevFailed s k

/-- The domains that a step ramps, each with the bit of its instance (R553); the PHY, which BOOT_11 ramps for all channels, goes by the step. -/
def rampDomains (k : Nat) : List (Nat × Nat) :=
  if k = 5 then (List.range 4).map fun d => (d, 16 + d)
  else if k = 7 then (List.range 16).map fun q => (q, q)
  else if k = 10 then (List.range 5).map fun i => (i, if i < 4 then 20 + i else 29)
  else if k = 11 then [(12, 28)]
  else if k = 14 then (List.range 4).map fun e => (e, 24 + e)
  else []
/-- A step begins to ramp the domains of the instances that it does not skip; the alternative of BOOT_05 is the slow ramp from the outset (R532, R553). -/
def beginRamps (k : Nat) (s : State) : State :=
  (rampDomains k).foldl (fun s e =>
    if bitOf (bootSkips s k) e.1 ∨ domSt s e.2 ≠ .off ∨ (k = 11 ∧ s.bst.present = 0) then s
    else modDom e.2 (fun _ => { st := .ramping, again := decide (k = 5) && bitOf (bootAlts s k) e.1 }) s) s
/-- Begin a step of the start: its START is written (R558), and its ramps begin. -/
def beginStep (k : Nat) (s : State) : State :=
  let now := { s.boot.now with steps := tabSet {} k { tabGet {} k s.boot.now.steps with result := 0, start := s.tick, stop := 0 } s.boot.now.steps }
  saveRec now (beginRamps k (let s := { s with boot := { s.boot with step := k } }; if k = 11 then beginTraining s else s))
/-- A clear of THERM_STOP (R518, R624): the exit from Dark begins, or the paused start resumes. -/
def thermClearOp (s : State) : State :=
  if !thermClearable s then s
  else
    let s := putF aPwrTherm 3 2 0 (putB aPwrTherm 0 false s)
    noteSensors (
      if s.pwr.paused then beginStep 5 (modPwr (fun x => { x with paused := false }) s)
      else if s.boot.now.outcome = 3 ∨ s.pwr.sleep ≠ .dark then s
      else beginExit 3 s)
/-- THERM_STOP_CLEAR (R518). -/
def execThermStopClear (s : State) : Host.Outcome State Fault Refusal := .next (thermClearOp s)

/-! ### Halt (R625, R626) -/

/-- HALT_ASSERT (R625). -/
def execHaltAssert (s : State) : Host.Outcome State Fault Refusal :=
  .next (
    if s.pins.halt then s
    else
      let s := stick aGlbPins 16 { s with pins := { s.pins with halt := true } }
      (List.range 64).foldl (fun s p => if (part s p).st = .running then modPart p (fun x => { x with suspHalt := true }) (suspendPart p s) else s) s)

/-- HALT_DEASSERT (R625): a partition that R511 also holds stays suspended. -/
def execHaltDeassert (s : State) : Host.Outcome State Fault Refusal :=
  .next (
    if !s.pins.halt then s
    else
      (List.range 64).foldl (fun s p =>
        let x := part s p
        if !x.suspHalt then s else if x.suspPower then modPart p (fun x => { x with suspHalt := false }) s else resumePart p s)
        { s with pins := { s.pins with halt := false } })

end Sys2Proof.Machine
end

