-- ==== Sys2Proof/Machine/ResetOps.lean ====
section
/-!
DEFINITION. Machine/ResetOps.lean: resets of the host port, of units and of the package, and the beginning of a start (R546 to R556, R575).
-/
namespace Sys2Proof.Machine

/-! ### Host port (R546, R575) -/

/-- A host-port reset: the link is down, the configuration space, the MSI-X table and PWR_LTR return to reset; a load that reads host memory is rejected. -/
def hostReset (s : State) : State :=
  let s := { s with host := { accs := s.host.accs, wait := s.host.wait } }
  let s := setReg aPwrLtr (regReset aPwrLtr) (putB aGlbHostStatus 0 false s)
  if s.img.flash then s
  else match s.img.phase with
    | .verify => rejectLoad (0x14, 0xFFFF) s
    | .apply => failApply s.img.img (0x14, 0xFFFF) s
    | _ => s

/-! ### The beginning of a start (R554, R556, R557) -/

/-- The start begins at a step: it acts on the latest record, and RETRY_ALL is taken and cleared (R554). -/
def startBoot (step cause : Nat) (cold retry : Bool) (s : State) : State :=
  let latest := (journalRead s.flash).head?
  let lim := if retry then [15, 15, 15, 15] else match latest with | some r => r.opLimit | none => [15, 15, 15, 15]
  let s := { s with boot := { step := step, cold := cold, retryAll := retry, latest := latest, now := { cause := cause, opLimit := lim } } }
  beginStep step s

/-- The registers that a warm reset keeps (R598, R599): the reset cause, ERR_STATUS, ERR_LOST, ERR_COUNT and the bits of CLK_STOPPED that survive. -/
def warmRegs (s : State) : Tab Word :=
  let t := s.regs.filter fun e => decide (e.1 = aErrStatus ∨ e.1 = aErrLost ∨ e.1 = aErrCount 0 ∨ e.1 = aErrCount 1 ∨ e.1 = aErrCount 2 ∨ e.1 = aErrCount 3)
  tabSet 0 aClkStopped (reg s aClkStopped &&& BitVec.ofNat 64 (2 ^ 4 + 2 ^ 11 + 2 ^ 12)) t

/-- A warm reset (R547): outstanding requests end, the ports go dark, the devices enter self-refresh, the domains go off, and the start runs from BOOT_02. -/
def warmReset (cause : Nat) (s : State) : State :=
  let count := min 0xFFFF (getF s aClkResetCause 16 16 + 1)
  let retry := getB s aClkBootCtrl 0
  let s := (List.range 1135).foldl (fun s n => resetStation n s) s
  let s := allPorts.foldl (fun s n => darkPort n (loseLink n 3 s)) s
  let fresh : State := {
    pending := s.pending
    regs := warmRegs s
    fuses := s.fuses
    bst := { dev := s.bst.dev, devGen := s.bst.devGen, selfRefresh := decide (s.bst.present ≠ 0) || s.bst.selfRefresh }
    err := s.err
    ni := s.ni
    cell := { located := s.cell.located, tier := s.cell.tier, cell := s.cell.cell, slot := s.cell.slot }
    flash := s.flash
    mgt := { sa := s.mgt.sa }
    sec := { fabric := s.sec.fabric, installed := s.sec.installed }
    pins := { s.pins with prsnt := false }
    pwr := { coolantTick := s.pwr.coolantTick }
    keys := s.keys
    tick := s.tick
    sent := s.sent
    freeCount := s.freeCount }
  startBoot 2 cause false retry (putF aClkResetCause 0 4 cause (putF aClkResetCause 16 16 count fresh))

/-- A board description that waits takes effect (R583). -/
def takeBoard (f : FlashSt) : FlashSt := match f.boardNext with | some b => { f with board := b, boardNext := none, imgNext := none } | none => f
/-- A cold reset (R546, R548): everything but boot flash, fuses and pins; the devices keep their contents in self-refresh where `keep` says so. -/
def coldReset (cause : Nat) (keep : Bool) (s : State) : State :=
  let fresh : State := {
    pending := s.pending
    fuses := s.fuses
    bst := if keep then { dev := s.bst.dev, devGen := s.bst.devGen, selfRefresh := decide (s.bst.present ≠ 0) || s.bst.selfRefresh } else { devGen := s.freeCount }
    flash := takeBoard s.flash
    mgt := { sa := s.mgt.sa }
    pins := { s.pins with prsnt := false }
    sent := s.sent
    freeCount := if keep then s.freeCount else s.freeCount + 1 }
  startBoot 1 cause true false (putF aClkResetCause 0 4 cause fresh)

/-- The unpowered package (R618): nothing but boot flash, fuses and the board's pins remains. -/
def unpowered (s : State) : State :=
  { pending := s.pending
    fuses := s.fuses
    bst := { devGen := s.freeCount }
    flash := s.flash
    pins := { s.pins with prsnt := false, trip := false, powered := false }
    sent := s.sent
    freeCount := s.freeCount + 1 }

/-! ### Units (R32, R33, R549 to R551) -/

/-- Unit address `u` names a unit that contains the unit at `v`, at levels 0 to 2. -/
def unitContains (u v : Nat) : Bool :=
  let lu := u / 2 ^ 28
  let lv := v / 2 ^ 28
  let iu := u % 2 ^ 28
  let iv := v % 2 ^ 28
  if lu = lv then decide (iu = iv)
  else if lu = 1 ∧ lv = 0 then decide (iv / 64 = iu)
  else if lu = 2 ∧ lv = 0 then decide (iv / 256 = iu)
  else if lu = 2 ∧ lv = 1 then decide (iv / 4 = iu)
  else false
/-- The logical tiles of a unit. -/
def unitTiles (u : Nat) : List Nat := (List.range 1024).filter fun t => unitContains u t
/-- A unit of this package at level 0 to 2 is reset (R549, R550): partitions with a tile in it become FAULTED with cause UNIT_RESET. -/
def resetUnit (u : Nat) (s : State) : State :=
  let ts := unitTiles u
  let s := (List.range 64).foldl (fun s p => if (part s p).prec.tiles.any fun t => ts.contains t then faultEnd p 5 cReset s else s) s
  let rest := (List.range 1092).filter fun n => unitHas s u n && (stationTile s n).isNone
  let s := ts.foldl (fun s t => tileReset t s) s
  let s := if u / 2 ^ 28 = 2 then solvReset (u % 2 ^ 28) s else s
  let s := rest.foldl (fun s n => resetStation n s) s
  { s with resets := u :: s.resets, resetAt := tabPut u s.tick s.resetAt }
/-- A reset request at level 0 to 2, by who waits for its end: merged with one in progress that covers the unit (R551). -/
def requestReset (u : Nat) (who : Option (Nat × Nat)) (s : State) : State :=
  match s.resets.find? fun r => unitContains r u with
  | some r => { s with resetReqs := s.resetReqs ++ [(r, who)] }
  | none => resetUnit u { s with resetReqs := s.resetReqs ++ [(u, who)] }

end Sys2Proof.Machine
end

