-- ==== Sys2Proof/Machine/Partitions.lean ====
section
/-!
DEFINITION. Machine/Partitions.lean: loading an image, and RUN, STOP and the watchdog of a partition (R50 to R70, R609).
-/
namespace Sys2Proof.Machine

/-- IMG_START (R50, R65): START begins a load with the bytes that the verify pass reads; during a load it sets BUSY. -/
def imgStartOp (img : List Byte) (srcErr flash : Bool) (s : State) : State :=
  if s.img.phase = .verify ∨ s.img.phase = .apply then stick aImgStatus 34 s
  else { s with img := { phase := .verify, img := img, srcErr := srcErr, flash := flash, len := getF s aImgLen 0 31 } }
/-- IMG_START (R50, R65). -/
def execImgStart (img : List Byte) (srcErr : Bool) (s : State) : Host.Outcome State Fault Refusal := .next (imgStartOp img srcErr false s)

/-- ABORT ends the verify pass (R65). -/
def imgAbortOp (s : State) : State := if s.img.phase = .verify then rejectLoad (0x13, 0xFFFF) s else s
/-- IMG_ABORT (R65). -/
def execImgAbort (s : State) : Host.Outcome State Fault Refusal := .next (imgAbortOp s)

/-- The verify pass ends (R50, R66). A read that the host refused is reported before every other failure, and IMG_LEN is taken at START (log entry 29). -/
def verifyEndOp (s : State) : State :=
  if s.img.phase ≠ .verify then s
  else if s.img.srcErr then rejectLoad (0x14, 0xFFFF) s
  else match imageFails s (if s.img.flash then none else some s.img.len) s.img.img with
    | some r => rejectLoad r s
    | none => beginApply s
/-- VERIFY_END (R66). -/
def execVerifyEnd (s : State) : Host.Outcome State Fault Refusal := .next (verifyEndOp s)

/-- The apply pass ends with the bytes of its own read (R62, R64), once the cache lines that it writes back need no longer wait for the PHY (R325). The header and the
section table are those that the verify pass has checked; those of the second read are not looked at, only the digests of its sections (log entry 14). -/
def applyEndOp (img : List Byte) (srcErr : Bool) (s : State) : State :=
  if s.img.phase ≠ .apply then s
  else match loadWait s.img.img s with
  | some s' => s'
  | none =>
    let old := s.img.img
    let n := 64 + 64 * imgCount old
    let b := slice old 0 n ++ img.drop n
    if srcErr then failApply old (0x14, 0xFFFF) s
    else match digestFails b with
      | some r => failApply old r s
      | none => if imgKind old = 0 then applyFull b s else applyPartial b s
/-- APPLY_END (R62). -/
def execApplyEnd (img : List Byte) (srcErr : Bool) (s : State) : Host.Outcome State Fault Refusal := .next (applyEndOp img srcErr s)

/-- RUN of IMG_PART_p (R67); while HALT_N is asserted the partition is suspended at once (R625). -/
def partRunOp (p : Nat) (s : State) : State :=
  let was := (part s p).st
  let s := runPart p s
  if s.pins.halt ∧ was ≠ .running ∧ (part s p).st = .running then modPart p (fun x => { x with suspHalt := true }) (suspendPart p s) else s
/-- PART_RUN (R67). -/
def execPartRun (p : Part) (s : State) : Host.Outcome State Fault Refusal := .next (partRunOp p.val s)

/-- PART_STOP (R68). -/
def execPartStop (p : Part) (s : State) : Host.Outcome State Fault Refusal := .next (stopPart p.val s)

/-- What a stopping partition still waits for is gone (R68, R285): of one that is SUSPENDED or FAULTED, its sequencer commands. -/
def stopReady (s : State) (p : Nat) : Bool :=
  match (part s p).st with
  | .running => partQuiet s p
  | .suspended => solvIdle s p
  | .faulted => solvIdle s p
  | _ => false
/-- PART_STOPPED (R68, R285): a stopping partition with nothing left becomes STOPPED. -/
def execPartStopped (p : Part) (s : State) : Host.Outcome State Fault Refusal :=
  .next (if (part s p.val).stopping ∧ stopReady s p.val then becomeStopped p.val s else s)

/-- PART_WDOG_EXPIRE (R70, R609, R611): the RUNNING partition of the tile becomes FAULTED with cause WATCHDOG, and the tile is reset where WDOG_RESET is set. -/
def execPartWdogExpire (t : Tile) (s : State) : Host.Outcome State Fault Refusal :=
  .next (match ownerOf s t.val with
    | some p =>
      if (part s p).st = .running then
        let s := faultPart p 0x01 cTimeout { event := 0x12, sev := 2, tag := p, code := cTimeout.toNat, detail := tileIndex s p t.val } s
        if getB s aErrCtrl 4 ∧ !s.resets.any (fun u => unitContains u t.val) then resetUnit t.val s else s
      else s
    | none => s)

end Sys2Proof.Machine
end

