-- ==== Sys2Proof/Machine/Power.lean ====
section
/-!
DEFINITION. Machine/Power.lean: the estimate, budgets, operating points, caps and calibration (R491 to R514, R519 to R523). Powers are in mW, energies in mW times µs.
-/
namespace Sys2Proof.Machine

/-! ### The estimate (R495, R500, R503) -/

/-- The voltage of an operating point in mV (R495). -/
def opVolts (op : Nat) : Nat := [600, 615, 630, 645, 660, 680, 700, 720, 740, 760, 775, 790, 805, 820, 835, 850].getD op 850
/-- The voltage of a quadrant in mV: that of the highest OP among its clocked tiles (R496), and 0 while its domain is switched off. -/
def quadVolts (s : State) (q : Nat) : Nat :=
  if domSt s q = .off ∨ domSt s q = .failed then 0
  else opVolts (((List.range 64).filter fun p => clocked s p && (part s p).prec.tiles.any fun t => quadOf t = q).foldl (fun m p => max m (pwrPart s p).op) 0)
/-- θ of a quadrant: its sensor's reading less 85 (R500); before the first reading 0. -/
def quadTheta (s : State) (q : Nat) : Int := match s.pwr.quads[q]? with | some t => (t : Int) - 85 | none => 0
/-- The coefficients as fused, and those in force (R502). -/
def fusedCoef (s : State) (d : Nat) : List Int := s.fuses.coef.getD d []
/-- The coefficients in force (R502). -/
def coefOf (s : State) (d : Nat) : List Int := (tabFind d s.pwr.coef).getD (fusedCoef s d)

/-- The 15 features of some tiles of a quadrant in one period: the counts weighted by the square of the voltage in mV², and the three leakage terms times 68 * 850. -/
def features (s : State) (q n : Nat) (counts : List Nat) : List Int :=
  let v : Int := quadVolts s q
  let th := quadTheta s q
  ((List.range 12).map fun i => v * v * (counts.getD i 0 : Int)) ++ [n * v, n * v * th, n * v * th * th]
/-- The power in mW that coefficients give for features. -/
def powerOf (coef feat : List Int) : Int :=
  ((List.range 12).map fun i => coef.getD i 0 * feat.getD i 0).sum / (850 * 850 * 2000) + ((List.range 3).map fun i => coef.getD (12 + i) 0 * feat.getD (12 + i) 0).sum / (68 * 850)
/-- The counts of a partition in a quadrant (R499). -/
def countsOf (acts : List Activity) (p q : Nat) : List Nat := match acts.find? fun a => decide (a.part.val = p ∧ a.quad.val = q) with | some a => a.counts | none => []
/-- The tiles of a partition in a quadrant. -/
def tilesIn (s : State) (p q : Nat) : Nat := (part s p).prec.tiles.countP fun t => quadOf t = q
/-- The estimate of a partition on a die under coefficients (R500). -/
def estOn (s : State) (acts : List Activity) (coef : List Int) (p d : Nat) : Nat :=
  (((List.range 4).map fun i => let q := 4 * d + i; if tilesIn s p q = 0 then 0 else powerOf coef (features s q (tilesIn s p q) (countsOf acts p q))).sum).toNat
/-- EST_DEGRADED. -/
def estDegraded (s : State) : Bool := getB s aPwrStatus 4
/-- The share of a die's latest sample that falls to a partition, times 1.10 (R503). -/
def degradedOn (s : State) (acts : List Activity) (p d : Nat) : Nat :=
  let own := estOn s acts (fusedCoef s d) p d
  let all := ((List.range 64).map fun r => estOn s acts (fusedCoef s d) r d).sum
  if all = 0 then 0 else 11 * s.pwr.core.getD d 0 * own / (10 * all)
/-- The estimate of a partition (R500, R503). -/
def partEst (s : State) (acts : List Activity) (p : Nat) : Nat :=
  ((List.range 4).map fun d => if estDegraded s then degradedOn s acts p d else estOn s acts (coefOf s d) p d).sum

/-! ### The package term (R500) -/

/-- The tiles of a quadrant that no partition owns. -/
def unowned (s : State) (q : Nat) : Nat := 64 - ((List.range 64).map fun p => if (part s p).st = .empty then 0 else tilesIn s p q).sum
/-- The features of the package term in one period (R500): link frames, the on-time of the optical banks and of the PHY in ns, and the three of leakage. R500 gives the term the form of
P̂_p without its voltage and θ: it runs on VIN_AUX, which no OP moves, and θ is that of the hottest sensor (DESIGN CHOICE, log entry 29). -/
def pkgFeatures (s : State) (frames : Nat) : List Int :=
  let th : Int := (hottest s : Int) - 85
  let on (n : Nat) : Bool := decide (domSt s n = .on ∨ domSt s n = .draining)
  [(frames : Int), 2000 * (((List.range 4).countP fun e => on (24 + e) : Nat) : Int), if on 28 then 2000 else 0, 1, th, th * th]
/-- The coefficients of the package term in force (R502). -/
def pkgCoefOf (s : State) : List Int := s.pwr.pkgCoef.getD s.fuses.pkgCoef
/-- The power in mW of the package term's own features. -/
def pkgPower (coef feat : List Int) : Int :=
  ((List.range 3).map fun i => coef.getD i 0 * feat.getD i 0).sum / 2000 + ((List.range 3).map fun i => coef.getD (3 + i) 0 * feat.getD (3 + i) 0).sum
/-- P̂_pkg (R500): with the leakage of the tiles that no partition owns. -/
def pkgEst (s : State) (frames : Nat) : Nat :=
  (pkgPower (pkgCoefOf s) (pkgFeatures s frames)
    + ((List.range 16).map fun q => powerOf (coefOf s (q / 4)) (features s q (unowned s q) [])).sum).toNat

/-! ### Budgets and operating points (R504 to R511, R513) -/

/-- The partitions that are RUNNING. -/
def runningParts (s : State) : List Nat := (List.range 64).filter fun p => decide ((part s p).st = .running)
/-- The budget of a partition from the available power (R505). -/
def budgetOf (s : State) (p : Nat) : Nat :=
  let rs := runningParts s
  let share (r : Nat) : Nat := 1000 * (part s r).prec.powerShare
  let f := (rs.map share).sum
  let a := available s
  if f ≤ a then (if share p ≠ 0 then share p else (a - f) / rs.countP fun r => share r = 0) else share p * a / f
/-- The account of a partition after a control period (R505, R506): budget, estimate and bucket, which RUN has filled where it came since the last period. -/
def accountStep (s : State) (p est budget : Nat) : PartPwr :=
  let x := pwrPart s p
  let k := budget * getF s aPwrCtrl 0 16
  let b := min k ((if x.fresh then k else x.bucket) + 2 * budget - 2 * est)
  { x with budget := budget, est := est, bucket := b, fresh := false, hist := (est :: x.hist).take 500 }
/-- A tile of a partition runs an item of a class that is not admitted (R508, R509). -/
def runsRefused (s : State) (p : Nat) : Bool :=
  (part s p).prec.tiles.any fun t => (match (core s t).run with | .running => true | _ => false) && (match (core s t).item with | some c => !classAdmitted s p c | none => false)
/-- The OP of a RUNNING partition for the next period (R497, R510); a budget of 0 steps it down (R504). -/
def nextOp (s : State) (p : Nat) : Nat :=
  let x := pwrPart s p
  let k := x.budget * getF s aPwrCtrl 0 16
  if opMax s p < x.op ∨ runsRefused s p ∨ 8 * x.bucket < k ∨ x.budget = 0 then x.op - 1
  else if 3 * k ≤ 4 * x.bucket then min (opMax s p) (x.op + 1)
  else x.op
/-- Put the account of a partition. -/
def setPwrPart (p : Nat) (x : PartPwr) (s : State) : State := modPwr (fun w => { w with parts := tabSet {} p x w.parts }) s

/-- Issue duty and CAP_UNATTAINABLE (R511, R513), with `low` where every RUNNING partition was at OP0. -/
def dutyStep (low : Bool) (s : State) : State :=
  let est := (s.pwr.parts.map fun e => e.2.est).sum + s.pwr.est
  let lim := s.pwr.corr * effCap s / 65536
  let unmet := low && decide (lim < est)
  let margin := if estDegraded s then est / 10 else est * getF s aPwrCtrl 16 8 / 256
  let exceeds := decide (1000 * s.pwr.limit < est + margin)
  let d := if unmet || exceeds then max 1 (s.pwr.duty - 1) else if 100 * est < 95 * lim then min 16 (s.pwr.duty + 1) else s.pwr.duty
  let susp := s.parts.any fun e => e.2.suspPower
  let full := if d = 16 then s.pwr.dutyFull + 1 else 0
  let s := modPwr (fun x => { x with duty := d, dutyFull := min 50000 full }) s
  if unmet then (if getB s aPwrStatus 3 then s else stick aPwrStatus 16 (putB aPwrStatus 3 true s))
  else if 50000 ≤ full ∧ !susp then putB aPwrStatus 3 false s
  else s

/-- The activity features of a window (R502). -/
def windowStep (acts : List Activity) (frames : Nat) (s : State) : State :=
  let feat := (List.range 4).map fun d =>
    let fs := (List.range 64).flatMap fun p => (List.range 4).filterMap fun i =>
      let q := 4 * d + i
      if tilesIn s p q = 0 then none else some (features s q (tilesIn s p q) (countsOf acts p q))
    (List.range 15).map fun i => (s.pwr.window.feat.getD d []).getD i 0 + (fs.map fun f => f.getD i 0).sum
  let pf := pkgFeatures s frames
  let pkg := (List.range 6).map fun i => s.pwr.window.pkgFeat.getD i 0 + pf.getD i 0
  modPwr (fun x => { x with window := { x.window with feat := feat, pkgFeat := pkg } }) s

/-- CONTROL_PERIOD (R491, R500 to R513): the figures of the period that has ended, then budgets, buckets, OPs and D. -/
def execControlPeriod (acts : List Activity) (frames : Nat) (s : State) : Host.Outcome State Fault Refusal :=
  .next (
    if s.boot.step < 16 ∨ !s.boot.ended then s
    else
      let ests := (List.range 64).map fun p => partEst s acts p
      let low := (runningParts s).all fun p => (pwrPart s p).op = 0
      let s := windowStep acts frames s
      let s := modPwr (fun x => { x with est := if estDegraded s then 11 * x.aux / 10 else pkgEst s frames }) s
      let rs := runningParts s
      let bs := rs.map fun p => (p, budgetOf s p)
      let s := ((List.range 64).filter fun p => decide ((part s p).st ≠ .empty)).foldl (fun s p =>
        if rs.contains p then s else setPwrPart p { pwrPart s p with est := ests.getD p 0 } s) s
      let s := bs.foldl (fun s x => setPwrPart x.1 (accountStep s x.1 (ests.getD x.1 0) x.2) s) s
      let ops := rs.map fun p => (p, nextOp s p)
      let s := ops.foldl (fun s x => setPwrPart x.1 { pwrPart s x.1 with op := x.2 } s) s
      dutyStep low s)

/-! ### Measurement and calibration (R501 to R504) -/

/-- AVS_SAMPLE (R501, R504): P_m and the correction factor, which R504 leaves open where the effective cap is 0; a regulator that does not answer keeps its last
sample. -/
def execAvsSample (rails : Rails) (s : State) : Host.Outcome State Fault Refusal :=
  .next (
    let core := (List.range 4).map fun d => match rails.core.getD d none with | some x => x | none => s.pwr.core.getD d 0
    let aux := rails.aux.getD s.pwr.aux
    let pm := core.sum + aux
    let cap := effCap s
    let c := if cap = 0 then (Config.free s.freeCount).toNat % 65537 else s.pwr.corr * (5 * cap - pm) / (4 * cap)
    let c := if c < 32768 then 32768 else if 65536 < c then 65536 else c
    let e := (List.range 4).map (fun d => s.pwr.window.energy.getD d 0 + 50 * core.getD d 0) ++ [s.pwr.window.energy.getD 4 0 + 50 * aux]
    noteSensors (tickFree (modPwr (fun x => { x with core := core, aux := aux, pm := pm, corr := c, window := { x.window with energy := e } }) s)))

/-- The prediction of a window for a die: its features under the coefficients in force, over periods of 2 µs (R502). -/
def predicted (s : State) (d : Nat) : Nat := (2 * powerOf (coefOf s d) (s.pwr.window.feat.getD d [])).toNat
/-- A residual in units of 2^-24 (R503); the spec states none for a window without energy. -/
def residual (s : State) (d : Nat) : Nat :=
  let e := s.pwr.window.energy.getD d 0
  let p := predicted s d
  if e = 0 then (Config.free (s.freeCount + d)).toNat % 2 ^ 24 else ((e - p) + (p - e)) * 2 ^ 24 / e
/-! ### The fit (R502), exact in the rationals -/

/-- Gauss-Jordan elimination of `n` rows with their right side last, for a matrix whose leading minors are not 0. -/
def eliminate (n : Nat) (rows : List (List Rat)) : List (List Rat) :=
  (List.range n).foldl (fun m k =>
    let p := (m.getD k []).map (· / (m.getD k []).getD k 0)
    (List.range n).map fun i => if i = k then p else List.zipWith (fun a b => a - (m.getD i []).getD k 0 * b) (m.getD i []) p) rows
/-- The x that minimises Σ w (e - f·x)² + ρ ‖x - x0‖² over rows (w, f, e), from its normal equations: for ρ > 0 there is exactly one. -/
def ridge (rho : Rat) (x0 : List Rat) (rows : List (Rat × List Rat × Rat)) : List Rat :=
  let n := x0.length
  let sys := (List.range n).map fun i =>
    ((List.range n).map fun j => (rows.map fun r => r.1 * r.2.1.getD i 0 * r.2.1.getD j 0).sum + (if i = j then rho else 0))
      ++ [(rows.map fun r => r.1 * r.2.1.getD i 0 * r.2.2).sum + rho * x0.getD i 0]
  (eliminate n sys).map fun r => r.getD n 0
/-- The fitted coefficients (R502): `scale` turns a feature into the energy that a unit of its coefficient predicts, windows are weighted by (63/64)^age, and ρ is 2^-8 times the
mean square energy of the last 64. The norm is that of the coefficients in the units in which they are fused, rounded to whole units (DESIGN CHOICE, log entry 29). -/
def fitCoef (scale : Nat → Rat) (fused : List Int) (ws : List (List Int × Nat)) : List Int :=
  let last := ws.take 64
  let rho : Rat := (last.map fun w => (w.2 : Rat) * w.2).sum / (256 * last.length)
  if rho = 0 then Config.fit fused ws
  else
    let rows := (List.range ws.length).map fun a =>
      let w := ws.getD a ([], 0)
      ((63 / 64 : Rat) ^ a, (List.range fused.length).map fun i => (w.1.getD i 0 : Rat) * scale i, (w.2 : Rat))
    (ridge rho (fused.map fun (x : Int) => (x : Rat)) rows).map fun x => (x + 1 / 2).floor
/-- The energy in mW times µs that a unit of a die's coefficient predicts for a unit of its feature, over periods of 2 µs. -/
def dieScale (i : Nat) : Rat := if i < 12 then 2 / (850 * 850 * 2000) else 2 / (68 * 850)
/-- The same for the package term. -/
def pkgScale (i : Nat) : Rat := if i < 3 then 2 / 2000 else 2

/-- A coefficient held within half and twice its fused value (R502). -/
def holdCoef (fused x : Int) : Int := if 0 ≤ fused then clampI (fused / 2) (2 * fused) x else clampI (2 * fused) (fused / 2) x
/-- The sum of a die's residuals over its last 16 windows, and their number (R503). -/
def residSum (ws : List PwrWin) (d : Nat) : Nat × Nat := let l := (ws.take 16).map fun w => w.resid.getD d 0; (l.sum, l.length)
/-- CALIBRATION_WINDOW (R502, R503): the residuals of the window, EST_DEGRADED, and the refit for the next window. -/
def execCalibrationWindow (s : State) : Host.Outcome State Fault Refusal :=
  .next (
    let w := { s.pwr.window with resid := (List.range 4).map (residual s) }
    let s := { s with freeCount := s.freeCount + 4 }
    let ws := w :: s.pwr.windows
    let lim := getF s aPwrCtrl 16 8
    let above := (List.range 4).any fun d => let r := residSum ws d; decide (lim * r.2 * 2 ^ 16 < r.1)
    let below := (List.range 4).all fun d => let r := residSum ws d; decide (2 * r.1 < lim * r.2 * 2 ^ 16)
    let worst := ((List.range 4).map fun d => let r := residSum ws d; r.1 / (r.2 * 2 ^ 16)).foldl max 0
    let s := if above then (if getB s aPwrStatus 4 then s else stick aPwrStatus 17 (putB aPwrStatus 4 true s)) else if below then putB aPwrStatus 4 false s else s
    let s := putF aPwrStatus 24 8 (min 255 worst) s
    let coef := (List.range 4).foldl (fun t d =>
      let f := fusedCoef s d
      let x := fitCoef dieScale f (ws.map fun w => (w.feat.getD d [], w.energy.getD d 0))
      tabPut d ((List.range 15).map fun i => holdCoef (f.getD i 0) (x.getD i 0)) t) s.pwr.coef
    let f := s.fuses.pkgCoef
    let y := fitCoef pkgScale f (ws.map fun w => (w.pkgFeat, w.energy.getD 4 0))
    let pkg := (List.range 6).map fun i => holdCoef (f.getD i 0) (y.getD i 0)
    modPwr (fun x => { x with coef := coef, pkgCoef := some pkg, window := {}, windows := ws }) s)

/-! ### Suspension (R511) -/

/-- POWER_SUSPEND (R511): the RUNNING partition of lowest PRIORITY, of equal ones the highest numbered, is suspended. -/
def execPowerSuspend (s : State) : Host.Outcome State Fault Refusal :=
  .next (
    if 100 * s.pwr.pm ≤ 105 * effCap s then s
    else
      let rs := runningParts s
      let low := rs.foldl (fun (m : Option Nat) p => match m with
        | none => some p
        | some q => if (part s p).prec.priority ≤ (part s q).prec.priority then some p else some q) none
      match low with
      | none => s
      | some p =>
        let s := modPart p (fun x => { x with suspPower := true }) (suspendPart p s)
        logEvent { event := 0x17, sev := 2, tag := p, detail := s.pwr.pm / 1000 } (stick aPwrStatus 18 s))

/-- The mean estimate of a partition over its last millisecond before suspension (R511). -/
def meanEst (s : State) (p : Nat) : Nat := let h := (pwrPart s p).hist; if h.isEmpty then 0 else h.sum / h.length
/-- POWER_RESUME (R511): the power-suspended partition of highest PRIORITY resumes; one that HALT_N also holds stays suspended (R625). -/
def execPowerResume (s : State) : Host.Outcome State Fault Refusal :=
  .next (
    let ps := (List.range 64).filter fun p => (part s p).suspPower && decide ((part s p).st = .suspended)
    let top := ps.foldl (fun (m : Option Nat) p => match m with
      | none => some p
      | some q => if (part s q).prec.priority < (part s p).prec.priority then some p else some q) none
    match top with
    | none => s
    | some p =>
      if 95 * effCap s ≤ 100 * (s.pwr.pm + meanEst s p) then s
      else if s.pins.halt then modPart p (fun x => { x with suspPower := false, suspHalt := true }) s
      else resumePart p s)

/-! ### Caps (R495, R514, R519 to R523) -/

/-- A cap within 1,500 to 5,600 W (R514). -/
def capClamp (w : Nat) : Nat := if w < 1500 then 1500 else if 5600 < w then 5600 else w
/-- A write of PWR_CAP (R514, R523): the package's cap returns to its BASE; in a cell an increase comes from the manager. -/
def pwrCapOp (v : Word) (s : State) : State :=
  let w := capClamp (wfld v 0 13)
  capToBase s.cell.map.isSome (putF aPwrCap 0 13 w s)
/-- PWR_CAP_WRITE (R514). -/
def execPwrCapWrite (v : Word) (s : State) : Host.Outcome State Fault Refusal := .next (pwrCapOp v s)

/-- A write of PWR_PART_p (R495): OP_MAX above the part's ceiling is stored as the ceiling. -/
def opMaxOp (p : Nat) (v : Word) (s : State) : State :=
  let m := wfld v 4 4
  if partCeiling s < m then stick aPwrStatus 19 (putF (aPwrPart p) 4 4 (partCeiling s) s) else putF (aPwrPart p) 4 4 m s
/-- OP_MAX_WRITE (R495). -/
def execOpMaxWrite (p : Part) (v : Word) (s : State) : Host.Outcome State Fault Refusal := .next (opMaxOp p.val v s)

/-- The bounds of a package's cap in W (R520); LIMIT_W is known of this package alone. -/
def capLow (base : Nat) : Nat := max 1500 (ceilDiv (8 * base) 10)
/-- The upper bound (R520). -/
def capHigh (s : State) (k base : Nat) : Nat := let h := min 5600 (12 * base / 10); if s.cell.slot = some k then min h s.pwr.limit else h

/-- The window of WAIT ends (R519): the increases of COLL_WAIT in µs over the partitions that completed a collective; a count that CLEAR has put to 0 in the window
counts from there. -/
def waitStep (s : State) : State :=
  let inc (p : Nat) : Nat := let c := getF s (aCollWait p) 0 48; let b := tabGet 0 p s.cell.waitBase; if c < b then c else c - b
  let ended := (List.range 64).filter fun p => decide ((collPart s p).lastSeq ≠ tabGet 0 (64 + p) s.cell.waitBase ∧ (collPart s p).lastSeq ≠ 0)
  let w := if ended.isEmpty then 0xFFFF else min 0xFFFE (((List.range 64).map inc).sum / 1000 / ended.length)
  let base := (List.range 64).foldl (fun t p => tabSet 0 (64 + p) (collPart s p).lastSeq (tabSet 0 p (getF s (aCollWait p) 0 48) t)) []
  modCell (fun c => { c with wait := w, waitBase := base }) s

/-- Put a slot into a list in order of WAIT, ties by slot. -/
def waitInsert (s : State) (k : Nat) : List Nat → List Nat
  | [] => [k]
  | j :: r =>
    let a := (slotPower s k).1
    let b := (slotPower s j).1
    if a < b ∨ (a = b ∧ k ≤ j) then k :: j :: r else j :: waitInsert s k r
/-- Rank holders by WAIT, ties by slot (R520). -/
def byWait (s : State) (l : List Nat) : List Nat := l.foldr (waitInsert s) []
/-- The pairs of a boundary (R520): giver, gainer and δ. -/
def capPairs (s : State) : List (Nat × Nat × Nat) :=
  let l := byWait s ((capSlots s).filter fun k => decide ((slotPower s k).1 ≠ 0xFFFF) && !(slotPower s k).2.2.2)
  (List.range (l.length / 2)).filterMap fun i =>
    let lo := l.getD i 0
    let hi := l.getD (l.length - 1 - i) 0
    let a := slotPower s lo
    let b := slotPower s hi
    let d := min (10 * getF s aPwrCtrl 48 8) (min (capHigh s lo a.2.2.1 - a.2.1) (b.2.1 - capLow b.2.2.1))
    if a.1 + getF s aPwrCtrl 56 8 < b.1 ∧ 0 < d then some (hi, lo, d) else none
/-- The manager shifts budget (R520, R521): decreases at once, increases held until the giver shows its reduced cap; then the shortfall. -/
def shiftStep (s : State) : State :=
  let ps := capPairs s
  let hs := capSlots s
  let gain (k : Nat) : Nat := ((ps.filter fun x => x.2.1 = k).map fun x => x.2.2).sum
  let caps := (hs.map fun k => (slotPower s k).2.1).sum
  let bases := (hs.map fun k => (slotPower s k).2.2.1).sum
  let low := (byWait s hs).head?
  let extra := match low with
    | some k => let a := slotPower s k; min (bases - caps) (capHigh s k a.2.2.1 - (a.2.1 + gain k))
    | none => 0
  let raises := ps.map fun x => (x.2.1, (slotPower s x.2.1).2.1 + x.2.2 + (if low = some x.2.1 then extra else 0), x.1, (slotPower s x.1).2.1 - x.2.2)
  let s' := modCell (fun c => { c with raises := raises }) s
  let s' := ps.foldl (fun t x => sendCap x.1 ((slotPower s x.1).2.1 - x.2.2) t) s'
  match low with
  | some k => if 0 < extra ∧ !ps.any (fun x => x.2.1 = k || x.1 = k) then sendCap k ((slotPower s k).2.1 + extra) s' else s'
  | none => s'
/-- The manager returns every cap to its BASE (R523): increases follow decreases. -/
def baseStep (s : State) : State :=
  let hs := capSlots s
  let up := hs.filter fun k => decide ((slotPower s k).2.1 < (slotPower s k).2.2.1)
  let down := hs.filter fun k => decide ((slotPower s k).2.2.1 < (slotPower s k).2.1)
  let s' := modCell (fun c => { c with raises := up.map fun k => (k, (slotPower s k).2.2.1, 31, 0) }) s
  down.foldl (fun t k => sendCap k (slotPower s k).2.2.1 t) s'

/-- BUDGET_SHIFT (R519 to R523): the 1 ms boundary; increases that were not sent are dropped. -/
def execBudgetShift (s : State) : Host.Outcome State Fault Refusal :=
  .next (
    let s := waitStep s
    if !isManager s ∨ s.cell.map.isNone then s
    else
      let old := s.cell.bases
      let now := (capSlots s).foldl (fun t k => tabSet 0 k (slotPower s k).2.2.1 t) []
      let changed := s.cell.rebase || now.any fun e => (match tabFind e.1 old with | some b => decide (b ≠ e.2) | none => false)
      let s := modCell (fun c => { c with bases := now, raises := [], rebase := false }) s
      if changed then capStep (baseStep s)
      else if getB s aPwrCtrl 24 then capStep (shiftStep s)
      else s)

/-- A CAP_SET record arrives (R521): one with the TERM of the adopted map sets the cap, within its bounds (R520). -/
def takeCap (rec : List Byte) (s : State) : State :=
    let r := recOf rec
    match s.cell.map with
    | none => s
    | some m =>
      if leAt r 0 1 ≠ 8 ∨ leAt r 2 2 ≠ m.term then s
      else
        let base := capW s
        let hi := capHigh s (s.cell.slot.getD 31) base
        modPwr (fun x => { x with shiftCap := min hi (max (capLow base) (leAt r 6 2)) }) s
/-- CAP_SET (R521). -/
def execCapSet (rec : List Byte) (s : State) : Host.Outcome State Fault Refusal := .next (recTake (fun _ => true) (recOf rec) (takeCap rec) s)

end Sys2Proof.Machine
end

