-- ==== Sys2Proof/Machine/Boot.lean ====
section
/-!
DEFINITION. Machine/Boot.lean: the steps of a start, the boot journal, and the supplies (R553 to R558, R584 to R587, R617 to R620, R632; log entry 20).
-/
namespace Sys2Proof.Machine

/-! ### The work of the steps (R553) -/

/-- Change this start's record. -/
def modNow (f : JRec → JRec) (s : State) : State := saveRec (f s.boot.now) s
/-- Lower the tclk ceiling of some dies by two OPs (R553, R554). -/
def lowerOps (dies : List Nat) (s : State) : State :=
  if dies.isEmpty then s
  else stick aPwrStatus 19 (modNow (fun r => { r with opLimit := (List.range 4).map fun d => let x := min (partCeiling s) (r.opLimit.getD d 15); if dies.contains d then x - 2 else r.opLimit.getD d 15 }) s)
/-- The numbers below `n` whose bit is set. -/
def bitsOf (m n : Nat) : List Nat := (List.range n).filter fun i => bitOf m i
/-- The numbers below `n` whose bit is clear. -/
def bitsClear (m n : Nat) : List Nat := (List.range n).filter fun i => !bitOf m i

/-- The derived key of a board-store slot (R587). -/
def derivedKey (s : State) (k : Nat) : List Byte :=
  hkdf ("S4 storage".toUTF8.toList.map fun b => BitVec.ofNat 8 b.toNat) s.fuses.secret
    (("bst".toUTF8.toList.map fun b => BitVec.ofNat 8 b.toNat) ++ leBytes 1 k ++ leBytes 2 (tabGet 0 k s.flash.gens)) 64
/-- Put the derived key into a slot. -/
def deriveSlot (k : Nat) (s : State) : State := { s with keys := tabPut k (derivedKey s k) s.keys }

/-- BOOT_03: the board description takes effect, and the record is opened in both copies, the older of which is repaired from the other (R553, R557, R558, R632). -/
def bootJournal (s : State) : State :=
  let b := s.flash.board
  let f (i : Nat) : Nat := Config.boardField i b
  let slot := f 5
  let now := { s.boot.now with seq := ((match s.boot.latest with | some r => r.seq | none => 0) + 1) % 2 ^ 32 }
  let s := modBst (fun x => { x with present := f 0 % 2 ^ 12, density := f 1 % 4, clamshell := decide (f 2 = 1) }) s
  let s := modPwr (fun x => { x with limit := capClamp (f 4), shiftCap := min x.shiftCap (capClamp (f 4)) }) s
  { s with
    board := { bootPort := some (f 3 % 28), imageSlot := if slot < 2 then some slot else none }
    boot := { s.boot with now := now }
    flash := { s.flash with journal := (now :: journalRead s.flash).take 64, copy := (now :: journalRead s.flash).take 64 } }

/-- The quadrants that this start has lost: failed or skipped in BOOT_07 or BOOT_08, or on a die that BOOT_05 or BOOT_06 lost (R39, R553). -/
def lostQuads (s : State) : List Nat :=
  let m (k : Nat) : Nat := (tabGet {} k s.boot.now.steps).mask
  (List.range 16).filter fun q => bitOf (m 7) q || bitOf (m 8) q || bitOf (m 5) (q / 4) || bitOf (m 6) (q / 4)

/-- The SKIP that the tile test of BOOT_08 gives for a row of a quadrant. -/
def testSkip (r : BootReport) (q row : Nat) : Nat := ((r.solder.reverse.find? fun e => e.1 = 4 * q + row).map fun e => e.2 % 17).getD 16
/-- The quadrants with a row of more than one failed tile (R39). -/
def crowdedQuads (r : BootReport) (s : State) : Nat :=
  (((List.range 16).filter fun q => (List.range 4).any fun row => decide (1 < (failedCols s (testSkip r q row) q row).length)).map (2 ^ ·)).sum
/-- The Solder map that BOOT_08 builds (R37). -/
def solderMap (r : BootReport) (s : State) : Tab Nat :=
  (List.range 64).foldl (fun t i => tabSet 16 i ((failedCols s (testSkip r (i / 4) (i % 4)) (i / 4) (i % 4)).headD 16) t) []

/-- Mark the channels as BOOT_11 leaves them (R308, R309). -/
def trainChannels (bad : Nat) (fails : List (Nat × Nat)) (s : State) : State :=
  let chan (c : Nat) : ChanSt :=
    if !bitOf s.bst.present c then {}
    else if bitOf bad c then { st := .failed, failStep := match fails.find? fun e => e.1 = c with | some e => e.2 % 8 | none => 0 }
    else { st := .trained }
  modBst (fun b => { b with chans := (List.range 12).foldl (fun t c => tabSet {} c (chan c) t) [], selfRefresh := false }) s

/-- The ramp of a step has passed: the units of its domain read ACTIVE, unless the domain failed or they do already. -/
def rampStands (n : Nat) (s : State) : State := if domSt s n = .ramping ∨ domSt s n = .off then domainOn n s else s
/-- The instances of a step whose domain has failed in its ramps (R532); with the PHY's, every channel. -/
def rampFailures (k : Nat) (s : State) : Nat :=
  if k = 11 then (if domSt s 28 = .failed then bootInstances 11 else 0)
  else (((rampDomains k).filter fun e => decide (domSt s e.2 = .failed)).map fun e => 2 ^ e.1).sum

/-- BOOT_14: the banks are on, and the boot port enters DETECT (R379). -/
def bootOptics (bad : Nat) (s : State) : State :=
  let s := match s.board.bootPort with
    | some n => putB (aLnkCtrl n) 1 true (modPort n (fun x => { x with role := 2, boot := true }) s)
    | none => s
  let s := (bitsClear bad 4).foldl (fun s e => rampStands (24 + e) s) s
  (bitsOf bad 4).foldl (fun s e => failDomain (24 + e) s) s

/-- The image slot that BOOT_15 loads (R553, R583): the one activated last or that the board description names; the alternative is the other. -/
def bootSlot (s : State) (alt : Bool) : Option Nat :=
  match (match s.flash.imgNext with | some k => some k | none => s.board.imageSlot) with
  | some k => some (if alt then 1 - k else k)
  | none => none
/-- BOOT_15: the load from flash, both passes; `false` where it is rejected (R50, R553). -/
def bootImage (alt : Bool) (s : State) : State × Bool :=
  match bootSlot s alt with
  | none => (s, true)
  | some k =>
    let b := tabGet [] k s.flash.imgs
    let s := applyEndOp b false (verifyEndOp (imgStartOp b false true s))
    (s, decide (s.img.phase = .done))

/-- The effects of a step's instances, with those that failed or were skipped in `bad` (R553). -/
def bootWork (k bad : Nat) (r : BootReport) (s : State) : State :=
  match k with
  | 2 => modNow (fun x => { x with fwSlot := if bootAlts s 2 ≠ 0 then 1 - s.flash.fwNext else s.flash.fwNext }) s
  | 3 => bootJournal s
  | 4 => putF aClkStatus 0 4 (15 - bad % 16) (lowerOps (bitsOf (bootAlts s 4) 4) s)
  | 5 => (bitsOf bad 4).foldl (fun s d => failDomain (16 + d) s) ((bitsClear bad 4).foldl (fun s d => rampStands (16 + d) s) s)
  | 6 => (bitsOf bad 4).foldl (fun s d => failDomain (16 + d) s) { s with spares := spareRows (r.rows.map fun e => 8192 * e.1 + e.2 % 8192) s }
  | 7 => (bitsOf bad 16).foldl (fun s q => failDomain q s) ((bitsClear bad 16).foldl (fun s q => rampStands q s) s)
  | 8 =>
    let s := lowerOps ((bitsOf (bootAlts s 8) 16).map (· / 4)).eraseDups s
    { s with solder := solderMap r s }
  | 10 =>
    let s := (bitsClear bad 5).foldl (fun s i => rampStands (if i < 4 then 20 + i else 29) s) s
    (bitsOf bad 5).foldl (fun s i => failDomain (if i < 4 then 20 + i else 29) s) s
  | 11 => if s.bst.present = 0 ∨ domSt s 28 = .failed then s else trainChannels bad r.chanFail (rampStands 28 s)
  | 12 => ((List.range 65).filter fun k => !s.sec.installed.contains k).foldl (fun s k => deriveSlot k s) s
  | 13 =>
    if bad ≠ 0 then s
    else { s with pins := { s.pins with prsnt := true } }
  | 14 => bootOptics bad s
  | _ => s

/-! ### The end of a step (R553 to R558) -/

/-- The safe state (R555, R628, R633): only the always-on domain is powered, every port is dark and PRSNT_N is released. -/
def safeState (s : State) : State :=
  let s := loseScratch (emptyAll cReset (allOff s))
  let s := { s with doms := [], pins := { s.pins with prsnt := false } }
  noteSensors (modNow (fun r => { r with outcome := 3 }) s)

/-- HANDOFF (R552, R553): the power manager takes control, the record is closed and the package watchdog runs. -/
def handoff (s : State) : State :=
  let good := (List.range 16).all fun i => let e := tabGet {} (i + 1) s.boot.now.steps; decide (e.result = 1 ∧ e.mask = 0)
  let s := modNow (fun r => { r with outcome := if good then 1 else 2 }) { s with boot := { s.boot with ended := true } }
  noteSensors { s with kick := some s.tick }

/-- The start goes on to the next step; it pauses before BOOT_05 while COOLANT_OK is low or THERM_STOP is set (R624). -/
def nextStep (k : Nat) (s : State) : State :=
  if k = 16 then handoff s
  else if k = 4 ∧ (!s.pins.coolant ∨ getB s aPwrTherm 0) then
    let s := if getB s aPwrTherm 0 then s else putF aPwrTherm 3 2 1 (stick aPwrTherm 0 s)
    noteSensors (modPwr (fun x => { x with paused := true }) { s with boot := { s.boot with step := 5 } })
  else beginStep (k + 1) s

/-- A step ends (R553 to R558): the instances that failed in `r`, those that this start skips, RESULT, ALT, FAILS and MASK, and what follows. -/
def endStep (r : BootReport) (s : State) : State :=
  let k := s.boot.step
  let all := bootInstances k
  let alts := bootAlts s k
  let skips := bootSkips s k
  let run := all &&& (all - skips)
  let failed := if r.pass then (r.mask.toNat ||| rampFailures k s) &&& run else run
  let x := if k = 15 ∧ run ≠ 0 ∧ failed = 0 then bootImage (decide (alts ≠ 0)) s else (s, true)
  let failed := if x.2 then failed else run
  let failed := if k = 8 then failed ||| (run &&& crowdedQuads r s) else failed
  let s := x.1
  let bad := failed ||| skips
  let s := if bootMandatory k ∧ k ≠ 4 ∧ failed ≠ 0 then s else bootWork k bad r s
  let prev := prevEnt s k
  let result := if run = 0 then 3 else if failed ≠ 0 then (if alts ≠ 0 then 5 else 2) else if alts ≠ 0 then 4 else 1
  let fails := if failed ≠ 0 then min 255 (prev.fails + 1) else 0
  let ent : StepEnt := {
    result := result
    alt := if bad = 0 then 0 else if alts ≠ 0 then min 255 (prev.alt + 1) else prev.alt
    fails := fails
    mask := bad
    start := (tabGet {} k s.boot.now.steps).start
    stop := s.tick }
  let s := modNow (fun j => { j with steps := tabSet {} k ent j.steps }) s
  let s := if k = 8 then { s with failedQuads := lostQuads s } else s
  if bootMandatory k ∧ 3 ≤ fails then safeState s else nextStep k s

/-- A step of the start is running. -/
def bootRuns (s : State) : Bool := s.pins.powered && !s.boot.ended && !s.pwr.paused && decide (s.boot.now.outcome ≠ 3)
/-- BOOT_STEP_DONE (R553). -/
def execBootStepDone (r : BootReport) (s : State) : Host.Outcome State Fault Refusal := .next (if bootRuns s then endStep r s else s)
/-- BOOT_STEP_LIMIT (R553): the step fails; the channels that have not finished are FAILED with FAIL_STEP 7 (R308). -/
def execBootStepLimit (s : State) : Host.Outcome State Fault Refusal :=
  .next (if bootRuns s then endStep { pass := false, chanFail := ((bitsClear (bootSkips s 11) 12).map fun c => (c, 7)) } s else s)

/-! ### Supplies (R617 to R620) -/

/-- POWER_ON_RELEASE (R618, R629). -/
def execPowerOnRelease (sa : BitVec 3) (s : State) : Host.Outcome State Fault Refusal :=
  .next (if s.pins.powered then s
    else coldReset 0 false { s with pins := { s.pins with powered := true }, mgt := { s.mgt with sa := sa.toNat } })
/-- AUX_FAIL (R618). -/
def execAuxFail (s : State) : Host.Outcome State Fault Refusal := .next (if s.pins.powered then unpowered s else s)
/-- REFCLK_LOSS (R618). -/
def execRefclkLoss (s : State) : Host.Outcome State Fault Refusal := .next (if s.pins.powered then unpowered s else s)

/-- A domain is powered. -/
def domPowered (s : State) (n : Nat) : Bool := decide (domSt s n ≠ .off ∧ domSt s n ≠ .failed)
/-- CORE_RAIL_FAIL (R620). -/
def execCoreRailFail (d : Die) (s : State) : Host.Outcome State Fault Refusal :=
  .next (
    let ns : List Nat := [4 * d.val, 4 * d.val + 1, 4 * d.val + 2, 4 * d.val + 3, 16 + d.val, 20 + d.val]
    if ns.any (domPowered s) then (ns.filter (fun n => decide (domSt s n ≠ .failed))).foldl (fun s n => domFail n s) s else s)
/-- VDDQ_FAIL (R620). -/
def execVddqFail (s : State) : Host.Outcome State Fault Refusal := .next (if domPowered s 28 then domFail 28 s else s)

end Sys2Proof.Machine
end

