-- ==== Sys2Proof/Machine/Clocks.lean ====
section
/-!
DEFINITION. Machine/Clocks.lean: stopped clocks and the time base of a cell (R534 to R545).
-/
namespace Sys2Proof.Machine

/-- Partitions with a tile on a die become FAULTED with cause DOMAIN_FAIL (R535). -/
def faultDie (d : Nat) (s : State) : State :=
  (List.range 64).foldl (fun s p => if (part s p).prec.tiles.any fun t => dieOf t = d then domainFault p s else s) s
/-- A stopped clock is journalled as a failure of BOOT_04 (R535): RESULT, FAILS and a bit of MASK, that of the die for tclk and sclk. R535 and R557 name no bit for bclk, pclk and
the optical transmit PLLs: 4, 5 and 8 + e, which no instance of BOOT_04 has (DESIGN CHOICE, log entry 20). -/
def clockJournal (bit : Nat) (s : State) : State :=
  let e := tabGet {} 4 s.boot.now.steps
  let e' := { e with
    result := if e.result = 4 ∨ e.result = 5 then 5 else 2
    fails := if e.result = 2 ∨ e.result = 5 then e.fails else min 255 ((prevEnt s 4).fails + 1) }
  journalFail 4 bit (saveRec { s.boot.now with steps := tabSet {} 4 e' s.boot.now.steps } s)
/-- The record of a stopped clock (R595). -/
def clockLog (bit : Nat) (s : State) : State := logEvent { event := 0x16, sev := 2, detail := 0x80 + bit } s
/-- Fail the stations of a range. -/
def failStations (lo hi : Nat) (s : State) : State := ((List.range hi).filter fun n => lo ≤ n).foldl (fun s n => failStation n s) s

/-- CLOCK_STOPPED (R535), by the bit of CLK_STOPPED. -/
def execClockStopped (bit : Fin 45) (s : State) : Host.Outcome State Fault Refusal :=
  .next (
    let b := bit.val
    if !s.pins.powered then s
    else
      let s := stick aClkStopped b s
      if b < 4 then clockLog b (clockJournal b (faultDie b (failStations (272 * b) (272 * b + 272) s)))
      else if b = 4 ∨ b = 11 ∨ b = 12 then noteSensors (warmReset 7 (clockLog b s))
      else if b < 9 then clockLog b (clockJournal (b - 5) (failDomain (20 + (b - 5)) (failStations (1088 + (b - 5)) (1089 + (b - 5)) s)))
      else if b = 9 then clockLog b (clockJournal 4 (failDomain 28 (failStations 1120 1132 s)))
      else if b = 10 then clockLog b (clockJournal 5 (hostReset (failStations 1133 1134 s)))
      else if b < 17 then clockLog b (clockJournal (8 + (b - 13)) (failDomain (24 + (b - 13)) (failStations (1092 + 7 * (b - 13)) (1099 + 7 * (b - 13)) s)))
      else loseLink (b - 17) 3 s)

/-! ### The time base (R538, R539) -/

/-- This package is a member that follows its manager's tick. -/
def followsTick (s : State) : Bool := match s.cell.map with | some m => s.cell.located && decide (s.cell.slot ≠ some m.mgr) | none => false
/-- A TIME record (R538). -/
def timeRec (kind slot term t1 t2 t3 : Nat) : List Byte :=
  leBytes 1 kind ++ leBytes 1 slot ++ leBytes 2 term ++ leBytes 4 0 ++ leBytes 8 t1 ++ leBytes 8 t2 ++ leBytes 8 t3

/-- TIME_EXCHANGE (R538). -/
def execTimeExchange (s : State) : Host.Outcome State Fault Refusal :=
  .next (if !followsTick s ∨ !recordsOn s then s
    else let m := s.cell.map.getD {}; sendRec m.mgr (timeRec 9 (s.cell.slot.getD 31) m.term s.tick 0 0) s)

/-- A TIME_REQ record arrives at the manager (R538). -/
def takeTimeReq (rec : List Byte) (s : State) : State :=
    let r := recOf rec
    if !isManager s ∨ leAt r 0 1 ≠ 9 ∨ 17 < leAt r 1 1 then s
    else sendRec (leAt r 1 1) (timeRec 10 (s.cell.slot.getD 31) (s.cell.map.getD {}).term (leAt r 8 8) s.tick s.tick) s
/-- TIME_REQ (R538). -/
def execTimeReq (rec : List Byte) (s : State) : Host.Outcome State Fault Refusal := .next (recTake (fun _ => true) (recOf rec) (takeTimeReq rec) s)

/-- No partition is RUNNING or SUSPENDED (R539). -/
def noneLive (s : State) : Bool := s.parts.all fun e => decide (e.2.st ≠ .running ∧ e.2.st ≠ .suspended)

/-- A TIME_RSP record arrives (R538, R539): the offset; the catch-up, or the slew. -/
def takeTimeRsp (rec : List Byte) (s : State) : State :=
    let r := recOf rec
    let m := s.cell.map.getD {}
    if !followsTick s ∨ leAt r 0 1 ≠ 10 ∨ leAt r 1 1 ≠ m.mgr ∨ leAt r 2 2 ≠ m.term then s
    else
      let off := (tickDiff (leAt r 16 8) (leAt r 8 8) + tickDiff (leAt r 24 8) s.tick) / 2
      let s := putF aClkStatus 32 16 (wrapTo 16 off) { s with clk := { s.clk with offsets := (off :: s.clk.offsets).take 3 } }
      if s.clk.half ≠ 0 then s
      else if s.clk.waiting ∧ noneLive s then
        let s := { s with clk := { s.clk with waiting := false, slew := 0 } }
        if 0 < off then { s with tick := (s.tick + off.toNat) % 2 ^ 64 } else { s with clk := { s.clk with half := (-off).toNat, held := false } }
      else { s with clk := { s.clk with slew := off } }
/-- TIME_RSP (R538, R539). -/
def execTimeRsp (rec : List Byte) (s : State) : Host.Outcome State Fault Refusal := .next (recTake (fun _ => true) (recOf rec) (takeTimeRsp rec) s)

/-- TICK_SLEW (R539): every 10,000 ticks one count is added, or one is withheld. -/
def execTickSlew (s : State) : Host.Outcome State Fault Refusal :=
  .next (
    if !followsTick s ∨ s.clk.half ≠ 0 ∨ s.clk.slew = 0 then s
    else if 0 < s.clk.slew then { s with tick := (s.tick + 1) % 2 ^ 64, clk := { s.clk with slew := s.clk.slew - 1 } }
    else { s with clk := { s.clk with slew := s.clk.slew + 1, held := true } })

/-- SYNC of CLK_STATUS (R539). -/
def syncView (s : State) : Bool :=
  followsTick s && !s.clk.waiting && decide (s.clk.half = 0) && decide (s.clk.offsets.length = 3) && s.clk.offsets.all fun o => decide (-8 ≤ o ∧ o ≤ 8)

end Sys2Proof.Machine
end

