-- ==== Sys2Proof/Machine/CoreAlu.lean ====
section
/-!
DEFINITION. Machine/CoreAlu.lean: the arithmetic instructions of the control core (R219 to R221). One command is one issued instruction of tile `t`.
-/
namespace Sys2Proof.Machine

/-- A two-operand arithmetic instruction of registers. -/
def aluOp (t : Tile) (d a b : GReg) (f : Word → Word → Word) (s : State) : State :=
  issueG t d (fun s => f (getG s t a) (getG s t b)) s
/-- An instruction of one register and a signed 16-bit immediate, sign-extended (R219). -/
def immOp (t : Tile) (d a : GReg) (imm : BitVec 16) (f : Word → Word → Word) (s : State) : State :=
  issueG t d (fun s => f (getG s t a) (imm.signExtend 64)) s
/-- An instruction of one register. -/
def unOp (t : Tile) (d a : GReg) (f : Word → Word) (s : State) : State := issueG t d (fun s => f (getG s t a)) s

/-- 1 or 0 as a word. -/
def flagWord (b : Bool) : Word := if b then 1 else 0
/-- The shift amount B[5:0] (R220). -/
def shAmt (b : Word) : Nat := b.toNat % 64
/-- Bits [127:64] of a product (R220). -/
def mulHigh (x y : Int) : Word := BitVec.ofInt 64 (x * y / 2 ^ 64)
/-- DIV: truncated toward zero, 0 for a division by zero (R220). -/
def divS (a b : Word) : Word := if b = 0 then 0 else BitVec.ofInt 64 (a.toInt.tdiv b.toInt)
/-- REM: the remainder of DIV, A for a division by zero (R220). -/
def remS (a b : Word) : Word := if b = 0 then a else BitVec.ofInt 64 (a.toInt.tmod b.toInt)
/-- DIVU (R220). -/
def divU (a b : Word) : Word := if b = 0 then 0 else BitVec.ofNat 64 (a.toNat / b.toNat)
/-- REMU (R220). -/
def remU (a b : Word) : Word := if b = 0 then a else BitVec.ofNat 64 (a.toNat % b.toNat)

/-- ADD: A + B, modulo 2^64 (R220). -/
def execAdd (t : Tile) (d a b : GReg) (s : State) : Host.Outcome State Fault Refusal :=
  .next (onWord (.add t d a b) t (aluOp t d a b (fun a b => a + b)) s)
/-- SUB: A - B, modulo 2^64 (R220). -/
def execSub (t : Tile) (d a b : GReg) (s : State) : Host.Outcome State Fault Refusal :=
  .next (onWord (.sub t d a b) t (aluOp t d a b (fun a b => a - b)) s)
/-- AND: A AND B (R220). -/
def execAnd (t : Tile) (d a b : GReg) (s : State) : Host.Outcome State Fault Refusal :=
  .next (onWord (.and t d a b) t (aluOp t d a b (fun a b => a &&& b)) s)
/-- OR: A OR B (R220). -/
def execOr (t : Tile) (d a b : GReg) (s : State) : Host.Outcome State Fault Refusal :=
  .next (onWord (.or t d a b) t (aluOp t d a b (fun a b => a ||| b)) s)
/-- XOR: A XOR B (R220). -/
def execXor (t : Tile) (d a b : GReg) (s : State) : Host.Outcome State Fault Refusal :=
  .next (onWord (.xor t d a b) t (aluOp t d a b (fun a b => a ^^^ b)) s)
/-- SLL: A shifted left by B[5:0] (R220). -/
def execSll (t : Tile) (d a b : GReg) (s : State) : Host.Outcome State Fault Refusal :=
  .next (onWord (.sll t d a b) t (aluOp t d a b (fun a b => a <<< shAmt b)) s)
/-- SRL: A shifted right, zeros entering (R220). -/
def execSrl (t : Tile) (d a b : GReg) (s : State) : Host.Outcome State Fault Refusal :=
  .next (onWord (.srl t d a b) t (aluOp t d a b (fun a b => a >>> shAmt b)) s)
/-- SRA: A shifted right, A[63] entering (R220). -/
def execSra (t : Tile) (d a b : GReg) (s : State) : Host.Outcome State Fault Refusal :=
  .next (onWord (.sra t d a b) t (aluOp t d a b (fun a b => a.sshiftRight (shAmt b))) s)
/-- SLT: 1 if A < B, signed (R220). -/
def execSlt (t : Tile) (d a b : GReg) (s : State) : Host.Outcome State Fault Refusal :=
  .next (onWord (.slt t d a b) t (aluOp t d a b (fun a b => flagWord (decide (a.toInt < b.toInt)))) s)
/-- SLTU: 1 if A < B, unsigned (R220). -/
def execSltu (t : Tile) (d a b : GReg) (s : State) : Host.Outcome State Fault Refusal :=
  .next (onWord (.sltu t d a b) t (aluOp t d a b (fun a b => flagWord (decide (a.toNat < b.toNat)))) s)
/-- MIN: the smaller, signed (R220). -/
def execMin (t : Tile) (d a b : GReg) (s : State) : Host.Outcome State Fault Refusal :=
  .next (onWord (.min t d a b) t (aluOp t d a b (fun a b => if b.toInt < a.toInt then b else a)) s)
/-- MAX: the larger, signed (R220). -/
def execMax (t : Tile) (d a b : GReg) (s : State) : Host.Outcome State Fault Refusal :=
  .next (onWord (.max t d a b) t (aluOp t d a b (fun a b => if a.toInt < b.toInt then b else a)) s)
/-- MINU: the smaller, unsigned (R220). -/
def execMinu (t : Tile) (d a b : GReg) (s : State) : Host.Outcome State Fault Refusal :=
  .next (onWord (.minu t d a b) t (aluOp t d a b (fun a b => if b.toNat < a.toNat then b else a)) s)
/-- MAXU: the larger, unsigned (R220). -/
def execMaxu (t : Tile) (d a b : GReg) (s : State) : Host.Outcome State Fault Refusal :=
  .next (onWord (.maxu t d a b) t (aluOp t d a b (fun a b => if a.toNat < b.toNat then b else a)) s)
/-- MUL: bits [63:0] of the product (R220). -/
def execMul (t : Tile) (d a b : GReg) (s : State) : Host.Outcome State Fault Refusal :=
  .next (onWord (.mul t d a b) t (aluOp t d a b (fun a b => a * b)) s)
/-- MULHI: bits [127:64], both signed (R220). -/
def execMulhi (t : Tile) (d a b : GReg) (s : State) : Host.Outcome State Fault Refusal :=
  .next (onWord (.mulhi t d a b) t (aluOp t d a b (fun a b => mulHigh a.toInt b.toInt)) s)
/-- MULHIU: bits [127:64], both unsigned (R220). -/
def execMulhiu (t : Tile) (d a b : GReg) (s : State) : Host.Outcome State Fault Refusal :=
  .next (onWord (.mulhiu t d a b) t (aluOp t d a b (fun a b => mulHigh a.toNat b.toNat)) s)
/-- MULHIM: bits [127:64], A signed and B unsigned (R220). -/
def execMulhim (t : Tile) (d a b : GReg) (s : State) : Host.Outcome State Fault Refusal :=
  .next (onWord (.mulhim t d a b) t (aluOp t d a b (fun a b => mulHigh a.toInt b.toNat)) s)
/-- DIV: the quotient, signed (R220). -/
def execDiv (t : Tile) (d a b : GReg) (s : State) : Host.Outcome State Fault Refusal :=
  .next (onWord (.div t d a b) t (aluOp t d a b (fun a b => divS a b)) s)
/-- DIVU: the quotient, unsigned (R220). -/
def execDivu (t : Tile) (d a b : GReg) (s : State) : Host.Outcome State Fault Refusal :=
  .next (onWord (.divu t d a b) t (aluOp t d a b (fun a b => divU a b)) s)
/-- REM: the remainder of DIV (R220). -/
def execRem (t : Tile) (d a b : GReg) (s : State) : Host.Outcome State Fault Refusal :=
  .next (onWord (.rem t d a b) t (aluOp t d a b (fun a b => remS a b)) s)
/-- REMU: the remainder of DIVU (R220). -/
def execRemu (t : Tile) (d a b : GReg) (s : State) : Host.Outcome State Fault Refusal :=
  .next (onWord (.remu t d a b) t (aluOp t d a b (fun a b => remU a b)) s)
/-- SEXT8: A[7:0], sign-extended (R220). -/
def execSext8 (t : Tile) (d a : GReg) (s : State) : Host.Outcome State Fault Refusal :=
  .next (onWord (.sext8 t d a) t (unOp t d a (fun a => (a.setWidth 8).signExtend 64)) s)
/-- SEXT16: A[15:0], sign-extended (R220). -/
def execSext16 (t : Tile) (d a : GReg) (s : State) : Host.Outcome State Fault Refusal :=
  .next (onWord (.sext16 t d a) t (unOp t d a (fun a => (a.setWidth 16).signExtend 64)) s)
/-- SEXT32: A[31:0], sign-extended (R220). -/
def execSext32 (t : Tile) (d a : GReg) (s : State) : Host.Outcome State Fault Refusal :=
  .next (onWord (.sext32 t d a) t (unOp t d a (fun a => (a.setWidth 32).signExtend 64)) s)
/-- ADDI: A + imm, imm sign-extended (R219). -/
def execAddi (t : Tile) (d a : GReg) (imm : BitVec 16) (s : State) : Host.Outcome State Fault Refusal :=
  .next (onWord (.addi t d a imm) t (immOp t d a imm (fun a b => a + b)) s)
/-- ANDI: A AND imm, imm sign-extended (R219). -/
def execAndi (t : Tile) (d a : GReg) (imm : BitVec 16) (s : State) : Host.Outcome State Fault Refusal :=
  .next (onWord (.andi t d a imm) t (immOp t d a imm (fun a b => a &&& b)) s)
/-- ORI: A OR imm, imm sign-extended (R219). -/
def execOri (t : Tile) (d a : GReg) (imm : BitVec 16) (s : State) : Host.Outcome State Fault Refusal :=
  .next (onWord (.ori t d a imm) t (immOp t d a imm (fun a b => a ||| b)) s)
/-- XORI: A XOR imm, imm sign-extended (R219). -/
def execXori (t : Tile) (d a : GReg) (imm : BitVec 16) (s : State) : Host.Outcome State Fault Refusal :=
  .next (onWord (.xori t d a imm) t (immOp t d a imm (fun a b => a ^^^ b)) s)
/-- SLTI: 1 if A < imm, signed, imm sign-extended (R219). -/
def execSlti (t : Tile) (d a : GReg) (imm : BitVec 16) (s : State) : Host.Outcome State Fault Refusal :=
  .next (onWord (.slti t d a imm) t (immOp t d a imm (fun a b => flagWord (decide (a.toInt < b.toInt)))) s)
/-- SLTIU: 1 if A < imm, unsigned, imm sign-extended (R219). -/
def execSltiu (t : Tile) (d a : GReg) (imm : BitVec 16) (s : State) : Host.Outcome State Fault Refusal :=
  .next (onWord (.sltiu t d a imm) t (immOp t d a imm (fun a b => flagWord (decide (a.toNat < b.toNat)))) s)
/-- UPPER_IMMEDIATE: imm << 43 (R219). -/
def execUpperImmediate (t : Tile) (d : GReg) (imm : BitVec 21) (s : State) : Host.Outcome State Fault Refusal :=
  .next (onWord (.upperImmediate t d imm) t (issueG t d (fun _ => imm.signExtend 64 <<< 43)) s)
/-- SLLI (R221). -/
def execSlli (t : Tile) (d a : GReg) (amt : BitVec 6) (s : State) : Host.Outcome State Fault Refusal :=
  .next (onWord (.slli t d a amt) t (unOp t d a (fun a => a <<< amt.toNat)) s)
/-- SRLI (R221). -/
def execSrli (t : Tile) (d a : GReg) (amt : BitVec 6) (s : State) : Host.Outcome State Fault Refusal :=
  .next (onWord (.srli t d a amt) t (unOp t d a (fun a => a >>> amt.toNat)) s)
/-- SRAI (R221). -/
def execSrai (t : Tile) (d a : GReg) (amt : BitVec 6) (s : State) : Host.Outcome State Fault Refusal :=
  .next (onWord (.srai t d a amt) t (unOp t d a (fun a => a.sshiftRight amt.toNat)) s)

end Sys2Proof.Machine
end

