-- ==== Sys2Proof/Machine/CoreControl.lean ====
section
/-!
DEFINITION. Machine/CoreControl.lean: branches and jumps of the control core (R219, R221).
-/
namespace Sys2Proof.Machine

/-- A branch: when the comparison holds, PC + 4 * off, signed (R219). -/
def branchOp (t : Tile) (a b : GReg) (off : BitVec 8) (f : Word → Word → Bool) (s : State) : State :=
  issue t (fun s => if f (getG s t a) (getG s t b) then setPc t (getPc s t + off.signExtend 64 <<< 2) s else nextPc t s) s

/-- BEQ (R221). -/
def execBeq (t : Tile) (a b : GReg) (off : BitVec 8) (s : State) : Host.Outcome State Fault Refusal :=
  .next (onWord (.beq t a b off) t (branchOp t a b off (fun a b => decide (a = b))) s)
/-- BNE (R221). -/
def execBne (t : Tile) (a b : GReg) (off : BitVec 8) (s : State) : Host.Outcome State Fault Refusal :=
  .next (onWord (.bne t a b off) t (branchOp t a b off (fun a b => decide (a ≠ b))) s)
/-- BLT (R221). -/
def execBlt (t : Tile) (a b : GReg) (off : BitVec 8) (s : State) : Host.Outcome State Fault Refusal :=
  .next (onWord (.blt t a b off) t (branchOp t a b off (fun a b => decide (a.toInt < b.toInt))) s)
/-- BGE (R221). -/
def execBge (t : Tile) (a b : GReg) (off : BitVec 8) (s : State) : Host.Outcome State Fault Refusal :=
  .next (onWord (.bge t a b off) t (branchOp t a b off (fun a b => decide (b.toInt ≤ a.toInt))) s)
/-- BLTU (R221). -/
def execBltu (t : Tile) (a b : GReg) (off : BitVec 8) (s : State) : Host.Outcome State Fault Refusal :=
  .next (onWord (.bltu t a b off) t (branchOp t a b off (fun a b => decide (a.toNat < b.toNat))) s)
/-- BGEU (R221). -/
def execBgeu (t : Tile) (a b : GReg) (off : BitVec 8) (s : State) : Host.Outcome State Fault Refusal :=
  .next (onWord (.bgeu t a b off) t (branchOp t a b off (fun a b => decide (b.toNat ≤ a.toNat))) s)

/-- JAL: D = PC + 4; PC = PC + 4 * imm (R219). -/
def execJal (t : Tile) (d : GReg) (imm : BitVec 21) (s : State) : Host.Outcome State Fault Refusal :=
  .next (onWord (.jal t d imm) t (issue t (fun s => setPc t (getPc s t + imm.signExtend 64 <<< 2) (setG t d (getPc s t + 4) s))) s)

/-- JR: D = PC + 4; PC = A + imm; a target that is not a multiple of 4 raises MISALIGN (R219, R236). -/
def execJr (t : Tile) (d a : GReg) (imm : BitVec 16) (s : State) : Host.Outcome State Fault Refusal :=
  .next (onWord (.jr t d a imm) t (issue t (fun s =>
    let x := getG s t a + imm.signExtend 64
    if x.toNat % 4 ≠ 0 then raiseExc t exMisalign x.toNat s
    else setPc t x (setG t d (getPc s t + 4) s))) s)

end Sys2Proof.Machine
end

