-- ==== Sys2Proof/Machine/CoreMemory.lean ====
section
/-!
DEFINITION. Machine/CoreMemory.lean: loads and stores of the control core (R219, R224, R301, R302).
-/
namespace Sys2Proof.Machine

/-- The address of a load or store, A + imm. -/
def loadAddr (s : State) (t : Nat) (a : GReg) (imm : BitVec 16) : Nat := (getG s t a + imm.signExtend 64).toNat

/-- The exception of a scalar access of `n` bytes at `x`: RANGE before MISALIGN (R219, R235). -/
def accessFault (s : State) (t n x : Nat) : Option Nat :=
  if tileW s t < x + n then some exRange else if x % n ≠ 0 then some exMisalign else none

/-- A load of `n` bytes, zero-extended (R219); an uncorrectable word raises POISON (R235). -/
def loadOp (n : Nat) (t : Tile) (d a : GReg) (imm : BitVec 16) (s : State) : State :=
  issue t (fun s =>
    let x := loadAddr s t a imm
    match accessFault s t n x with
    | some c => raiseExc t c x s
    | none =>
      let y := pkgAddr t x
      let s' := touchRange 0 y n s
      if anyBad s y n then raiseExc t exPoison x s'
      else nextPc t (setG t d (BitVec.ofNat 64 (leVal (memBytes s y n))) s')) s

/-- A store of the low `n` bytes of D (R219); a store of part of an uncorrectable word is not made and raises POISON (R235, R302). -/
def storeOp (n : Nat) (t : Tile) (d a : GReg) (imm : BitVec 16) (s : State) : State :=
  issue t (fun s =>
    let x := loadAddr s t a imm
    match accessFault s t n x with
    | some c => raiseExc t c x s
    | none =>
      let y := pkgAddr t x
      let s' := spWrite 0 y (leBytes n (getG s t d).toNat) s
      if writePoisons s y n then raiseExc t exPoison x s' else nextPc t s') s

/-- LOAD_64 (R219). -/
def execLoad64 (t : Tile) (d a : GReg) (imm : BitVec 16) (s : State) : Host.Outcome State Fault Refusal := .next (onWord (.load64 t d a imm) t (loadOp 8 t d a imm) s)
/-- LOAD_32 (R219). -/
def execLoad32 (t : Tile) (d a : GReg) (imm : BitVec 16) (s : State) : Host.Outcome State Fault Refusal := .next (onWord (.load32 t d a imm) t (loadOp 4 t d a imm) s)
/-- LOAD_16 (R219). -/
def execLoad16 (t : Tile) (d a : GReg) (imm : BitVec 16) (s : State) : Host.Outcome State Fault Refusal := .next (onWord (.load16 t d a imm) t (loadOp 2 t d a imm) s)
/-- LOAD_8 (R219). -/
def execLoad8 (t : Tile) (d a : GReg) (imm : BitVec 16) (s : State) : Host.Outcome State Fault Refusal := .next (onWord (.load8 t d a imm) t (loadOp 1 t d a imm) s)
/-- STORE_64 (R219). -/
def execStore64 (t : Tile) (d a : GReg) (imm : BitVec 16) (s : State) : Host.Outcome State Fault Refusal := .next (onWord (.store64 t d a imm) t (storeOp 8 t d a imm) s)
/-- STORE_32 (R219). -/
def execStore32 (t : Tile) (d a : GReg) (imm : BitVec 16) (s : State) : Host.Outcome State Fault Refusal := .next (onWord (.store32 t d a imm) t (storeOp 4 t d a imm) s)
/-- STORE_16 (R219). -/
def execStore16 (t : Tile) (d a : GReg) (imm : BitVec 16) (s : State) : Host.Outcome State Fault Refusal := .next (onWord (.store16 t d a imm) t (storeOp 2 t d a imm) s)
/-- STORE_8 (R219). -/
def execStore8 (t : Tile) (d a : GReg) (imm : BitVec 16) (s : State) : Host.Outcome State Fault Refusal := .next (onWord (.store8 t d a imm) t (storeOp 1 t d a imm) s)

end Sys2Proof.Machine
end

