-- ==== Sys2Proof/Machine/Matrix.lean ====
section
/-!
DEFINITION. Machine/Matrix.lean: the matrix engine and the accumulator file (R112 to R170): operands, chunks, promotion, starts and ends of descriptors.
-/
namespace Sys2Proof.Machine

/-! ### Operands (R118, R119, R106) -/

/-- How an operand is read: formats, place, sizes and rounding. -/
structure Operand where
  of : Fmt
  sf : Fmt
  base : Nat
  ld : Nat
  rows : Nat
  k : Nat
  stoch : Bool
  satmode : Bool
  key : List Byte
  step : Nat
  q : Nat
deriving Repr

/-- The operand is decoded exactly (R106). -/
def Operand.exact (o : Operand) : Bool := decide (o.sf.code = o.of.code) || decide (o.sf.width < o.of.width)
/-- The bytes of `n` elements of a row from element `k0`: start and length. -/
def Operand.span (o : Operand) (r k0 n : Nat) : Nat × Nat := (o.base + r * o.ld + k0 * o.sf.width / 8, o.sf.bytes n)
/-- Their scale bytes. -/
def Operand.scaleSpan (o : Operand) (r k0 n : Nat) : Nat × Nat :=
  if o.sf.blockScaled then (o.base + o.rows * o.ld + r * ceilDiv o.k 32 + k0 / 32, ceilDiv n 32) else (0, 0)
/-- A row's part meets an uncorrectable word (R130). -/
def Operand.bad (o : Operand) (s : State) (t r k0 n : Nat) : Bool :=
  let a := o.span r k0 n
  let c := o.scaleSpan r k0 n
  anyBad s (pkgAddr t a.1) a.2 || anyBad s (pkgAddr t c.1) c.2
/-- The words read for eight rows' parts, a word of scale bytes once; rows at a pitch of 0 are one row. -/
def Operand.words (o : Operand) (t r0 k0 n : Nat) : List Nat :=
  let rows := (List.range 8).map (r0 + ·)
  ((if o.ld = 0 then [r0] else rows).flatMap fun r => let a := o.span r k0 n; wordsOf (pkgAddr t a.1) a.2)
    ++ (rows.flatMap fun r => let c := o.scaleSpan r k0 n; wordsOf (pkgAddr t c.1) c.2).eraseDups
/-- The values of `n` elements of a row from element `k0`, with the events of their conversion. -/
def Operand.row (o : Operand) (s : State) (t r k0 n : Nat) : List Val × CvtEv :=
  let a := o.span r k0 n
  let codes := o.sf.unpack n (memBytes s (pkgAddr t a.1) a.2)
  let vals := if o.sf.blockScaled then
      let c := o.scaleSpan r k0 n
      codes.mapIdx fun i x => o.sf.decodeScaled (memByte s (pkgAddr t (c.1 + i / 32))).toNat x
    else codes.map o.sf.decodeElem
  if o.exact then (vals, {})
  else
    let e := o.of.encodeRow o.satmode (fun i => roundOf o.stoch o.key o.step o.q (r * o.k + k0 + i)) vals
    (if o.of.blockScaled then e.1.mapIdx fun i x => o.of.decodeScaled (e.2.1.getD (i / 32) 0) x else e.1.map o.of.decodeElem, e.2.2)

/-- Operand A or B of a descriptor in the queue. -/
def operandOf (s : State) (t : Nat) (e : MxEntry) (b : Bool) : Operand :=
  let x := mxBits e.w0 e.w1
  let p := (ownerOf s t).getD 64
  { of := if b then mxOfmtB x else mxOfmtA x, sf := if b then mxSfmtB x else mxSfmtA x, base := if b then mxBaseB x else mxBaseA x,
    ld := if b then mxLdB x else mxLdA x, rows := if b then mxN x else mxM x, k := mxK x, stoch := isStoch (mxRnd x) e.cvt, satmode := cvtSatmode e.cvt,
    key := seedKey s p (wfld e.rng 0 8), step := e.step.toNat, q := wfld e.rng 8 24 + b2n b }

/-! ### Chunk values (R115, R132 to R135, R152 to R154) -/

/-- What special values make of a chunk (R115): a NaN or an infinity, or nothing. -/
def specialOf (ps : List Val) : Option Val :=
  if ps.any Val.isNan ∨ (ps.any (· = .inf false) ∧ ps.any (· = .inf true)) then some vNan
  else ps.find? Val.isInf

/-- The window of Electrum (R133). -/
def windowOf (cls elec : Nat) : Nat := if cls = 3 then 26 else if elec = 2 then 53 else 107
/-- e of R132: the binade of the largest finite magnitude of a row in the chunk. -/
def rowExp (xs : List Val) : Int := match (xs.filter fun v => !v.isNan && !v.isInf && !v.isZero).map Val.floorLog2 with | [] => 0 | a :: r => r.foldl max a
/-- The aligned integer of an element (R132). -/
def alignInt (w : Nat) (ea : Int) (v : Val) : Int :=
  match v with
  | .fin s m e => let n := roundMag .rne m (e + w - 1 - ea) 0; if s then -(n : Int) else n
  | _ => 0
/-- The moduli in order (R133). -/
def electrumModuli : List Nat :=
  [256, 255, 253, 251, 247, 241, 239, 233, 229, 227, 223, 211, 199, 197, 193] ++ [191, 181, 179, 173, 167, 163, 157, 151, 149, 139, 137, 131, 127, 113, 109]
/-- The number of moduli that a mode uses, by its window (R133). -/
def modulusCount (w : Nat) : Nat := match w with | 26 => 8 | 53 => 15 | _ => 30
/-- The residue of an integer (R134): in [-128, 127] for 256, symmetric about 0 for an odd modulus. -/
def residue (m : Nat) (x : Int) : Int := let h : Int := if m = 256 then 128 else (m - 1) / 2; (x + h) % m - h
/-- σ of a modulus: the 32-bit sum of the products of residues over a chunk (R134). -/
def residueSum (m : Nat) (as bs : List Int) : BitVec 32 := (List.zipWith (fun a b => residue m a * residue m b) as bs).foldl (fun σ p => σ + BitVec.ofInt 32 p) 0
/-- The inverse of `p` modulo `m`, for coprime numbers. -/
def inverseMod (m p : Nat) : Nat := ((List.range m).find? fun y => p * y % m = 1 % m).getD 0
/-- The least natural number that is congruent to each sum modulo its modulus, with the product of the moduli. -/
def crtFold (l : List (Nat × Int)) : Nat × Nat :=
  l.foldl (fun (x : Nat × Nat) q => (x.1 + x.2 * (((q.2 - (x.1 : Int)) * (inverseMod q.1 (x.2 % q.1) : Int)) % (q.1 : Int)).toNat, x.2 * q.1)) (0, 1)
/-- S of R135: the integer of [-P/2, P/2) that is congruent to every sum. -/
def crtSigned (l : List (Nat × Int)) : Int := let x := crtFold l; if x.2 ≤ 2 * x.1 then (x.1 : Int) - x.2 else x.1
/-- The chunk sum of aligned integers, by the residue columns of a mode (R133 to R135). -/
def electrumSum (w : Nat) (as bs : List Int) : Int := crtSigned ((electrumModuli.take (modulusCount w)).map fun m => (m, (residueSum m as bs).toInt))
/-- The chunk value of Electrum (R135). -/
def electrumPair (w : Nat) (xs ys : List Val) : Val × Val :=
  let ea := rowExp xs
  let eb := rowExp ys
  let z := electrumSum w (xs.map (alignInt w ea)) (ys.map (alignInt w eb))
  let v : Val := if z = 0 then vZero else .fin (decide (z < 0)) z.natAbs (ea + eb - 2 * w + 2)
  let hi := rn64 v
  if hi.isInf then (hi, vZero) else (hi, rn64 (subV v hi))
/-- The chunk value of the compensated columns (R152). -/
def columnPair (d : Nat) (ps : List Val) : Val × Val :=
  (chunksOf d ps.length ps).foldl (fun p g => foldPair p (rn64 (sumV g))) (vZero, vZero)
/-- The chunk value of a floating-point element as a pair; a special value stands in the first place. -/
def chunkPair (x : Nat) (xs ys : List Val) : Val × Val :=
  match specialOf (List.zipWith mulV xs ys) with
  | some v => (v, vZero)
  | none => if 3 ≤ mxClass x then electrumPair (windowOf (mxClass x) (mxElec x)) xs ys else columnPair (mxD x) (List.zipWith mulV xs ys)
/-- The chunk value of an integer element (R154): the exact sum of the products, which are integers unless a narrower stored format held fractions (R106). -/
def chunkInt (xs ys : List Val) : Int :=
  match sumV (List.zipWith mulV xs ys) with
  | .fin s m e =>
    let n := m * 2 ^ e.toNat
    let d := 2 ^ (-e).toNat
    let z : Int := if s then -(n / d : Nat) else (n / d : Nat)
    if n % d = 0 then z else Config.chunkInt (if s then -(n / Nat.gcd n d : Nat) else (n / Nat.gcd n d : Nat)) (d / Nat.gcd n d)
  | _ => Config.chunkInt 0 0

/-! ### Promotion (R157 to R161) -/

/-- A promoted element: codes of total and compensation term, and whether it overflowed or was clamped. -/
structure Promoted where
  tot : Nat := 0
  comp : Nat := 0
  inf : Bool := false
  sat : Bool := false
deriving DecidableEq, Repr, Inhabited

/-- The format of a floating-point slot. -/
def slotFmt (afmt : Nat) : FloatFmt := if afmt = 2 ∨ afmt = 3 then fmtFp64 else fmtFp32
/-- The slot is compensated. -/
def slotComp (afmt : Nat) : Bool := decide (afmt = 1 ∨ afmt = 3)

/-- The promotion of a floating-point chunk value into total `T` and compensation term `c` (R157, R159, R160). -/
def promote (afmt : Nat) (T c : Nat) (v : Val × Val) : Promoted :=
  let f := slotFmt afmt
  let t := f.decode T
  let code (x : Val) : Nat := (f.encode false .rne x).code
  if v.1.isNan ∨ t.isNan then ⟨f.nanCode false, 0, false, false⟩
  else if v.1.isInf ∧ t.isInf then ⟨if v.1 = t then code t else f.nanCode false, 0, false, false⟩
  else if v.1.isInf then ⟨code v.1, 0, false, false⟩
  else if t.isInf then ⟨code t, 0, false, false⟩
  else
    let x := posZero (addV (addV t (if slotComp afmt then f.decode c else vZero)) (addV v.1 v.2))
    match x with
    | .fin sg m e =>
      if f.overflows m e then ⟨f.infCode sg, 0, true, false⟩
      else
        let r := rnTo f x
        ⟨code r, if slotComp afmt then code (posZero (subV x r)) else 0, false, false⟩
    | _ => ⟨f.nanCode false, 0, false, false⟩

/-- The promotion into an INT32 total (R161). -/
def promoteInt (T : Nat) (z : Int) : Promoted :=
  let x := signedOf 32 T + z
  let y := clampI (-2147483648) 2147483647 x
  ⟨wrapTo 32 y, 0, false, decide (x ≠ y)⟩

/-- The last two of a list. -/
def lastTwo {α : Type} (l : List α) : List α := l.drop (l.length - 2)

/-- The end of a chunk: rows read, chunk values formed and promoted (R122, R130, R157). Each strip of A is fetched once and each block of B once per strip into
the operand buffer, whose two halves then hold the two fetched last (R123; when the next chunk's first are fetched is timing). An element in an uncorrectable
word is converted like any other and its overflow counted, since R97 counts every overflow and R130 marks the row (DEDUCED, log entry 14). -/
def chunkEnd (t : Nat) (e : MxEntry) (r : MxRun) (s : State) : State :=
  let x := mxBits e.w0 e.w1
  let k0 := r.chunk * mxChunkLen x
  let n := min (mxChunkLen x) (mxK x - k0)
  let oa := operandOf s t e false
  let ob := operandOf s t e true
  let ms := List.range (mxM x)
  let ns := List.range (mxN x)
  let badA := ms.filter fun m => oa.bad s t m k0 n
  let badB := ns.filter fun j => ob.bad s t j k0 n
  let as := ms.map fun m => oa.row s t m k0 n
  let bs := ns.map fun j => ob.row s t j k0 n
  let ev := (as ++ bs).foldl (fun a y => a.add y.2) {}
  let first := decide (r.chunk = 0) && !mxAcc x
  let afmt := (mxBind x).afmt
  let slot := accSlot s t (mxSlot x)
  let cell (m j : Nat) : Promoted :=
    let i := m * mxN x + j
    let T := if first then 0 else tabGet 0 i slot.tot
    let c := if first then 0 else tabGet 0 i slot.comp
    let va := (as.getD m ([], {})).1
    let vb := (bs.getD j ([], {})).1
    if afmt = 4 then promoteInt T (chunkInt va vb)
    else promote afmt T c (if badA.contains m || badB.contains j then (vNan, vZero) else chunkPair x va vb)
  let cells := ms.flatMap fun m => ns.map fun j => (m * mxN x + j, cell m j)
  let poison := decide (afmt = 4) && !(badA.isEmpty && badB.isEmpty)
  let half (l : List (List Val × CvtEv)) (i : Nat) : OpHalf := { chunk := r.chunk, row := 8 * i, vals := ((l.drop (8 * i)).take 8).map (·.1) }
  let strips := (List.range (mxM x / 8)).map (half as)
  let blocks := (List.range (mxM x / 8)).flatMap fun _ => (List.range (mxN x / 8)).map (half bs)
  let inf := cells.any fun y => y.2.inf
  let sat := cells.any fun y => y.2.sat
  let s := (List.range (mxM x / 8)).foldl (fun s i =>
    (List.range (mxN x / 8)).foldl (fun s j => touchWords 0 (ob.words t (8 * j) k0 n) s) (touchWords 0 (oa.words t (8 * i) k0 n) s)) s
  let s := modSlot t (mxSlot x) (fun a => { a with
    tot := cells.foldl (fun l y => tabSet 0 y.1 y.2.tot l) a.tot
    comp := cells.foldl (fun l y => tabSet 0 y.1 y.2.comp l) a.comp
    inf := a.inf || inf, isat := a.isat || sat, poison := a.poison || poison, held := (a.held && !first) || poison }) s
  let s := if inf then stick (aAccStatus t) 10 s else s
  let s := if sat then stick (aAccStatus t) 9 s else s
  let s := if poison then stick (aAccStatus t) 11 s else s
  let s := recordCvt t ev s
  let s := if isStoch (mxRnd x) e.cvt ∧ !(oa.exact && ob.exact) then noteSeed ((ownerOf s t).getD 64) (wfld e.rng 0 8) s else s
  let s := bump (aTileMxBusy t) (mxM x / 8 * (mxN x / 8) * ceilDiv n (mxD x)) (aTileMxStatus t) 11 s
  modTile t (fun y => { y with mxRun := some {
    chunk := r.chunk + 1, poisonA := r.poisonA ++ badA, poisonB := r.poisonB ++ badB, bufA := lastTwo (r.bufA ++ strips), bufB := lastTwo (r.bufB ++ blocks) } }) s

/-! ### Completion (R124, R129, R634) -/

/-- The transaction entry that a descriptor's deferred access holds at its tile's NI: TXID and entry. -/
def stEntryNi (s : State) (t seq : Nat) : Option (Nat × NiEntry) :=
  (niOf s (tileStation s t)).entries.find? fun e => !e.2.quar && match e.2.use with | .stream q _ _ => decide (q = seq) | _ => false
/-- An earlier operation of a slot holds a matrix descriptor back (R166): a free, or a stream read whose accesses have not begun, or of which one is deferred and has yet to be made.
From the first access on the read has its own copy of the slot (`StEntry.slot`), so that it sees nothing of the later descriptor (R168). -/
def slotHolds (s : State) (t : Nat) : SlotOp → Bool
  | .mx _ _ => false
  | .rd q => !((tile s t).stRun && ((tile s t).stq.head?.map (·.seq)) = some q) || (stEntryNi s t q).isSome
  | .free => true

/-- MX_DESC_START (R127, R166, R607). -/
def mxStart (t : Nat) (parity : Bool) (s : State) : State :=
  match (tile s t).mxq, (tile s t).mxRun with
  | e :: _, none =>
    let x := mxBits e.w0 e.w1
    if parity ∧ !engineGated s then
      let s := modTile t (fun y => { y with mxq := y.mxq.drop 1 }) s
      let s := seqRefill (modSlot t (mxSlot x) (fun a => { a with order := a.order.filter fun o => match o with | .mx q _ => decide (q ≠ e.seq) | _ => true }) s)
      match ownerOf s t with | some p => parityFault p 1 (tileStation s t) t s | none => s
    else if engineGated s ∨ e.skip.isSome ∨ (slotBefore (accSlot s t (mxSlot x)) e.seq).any (slotHolds s t) then s
    else
      let s := modSlot t (mxSlot x) (fun a => if a.bind.isSome then a else { a with bind := some (mxBind x), tot := [], comp := [], held := false, owner := e.solv }) s
      modTile t (fun y => { y with mxRun := some {} }) s
  | _, _ => s

/-- MX_DESC_START (R127): a descriptor starts its first block. -/
def execMxDescStart (t : Tile) (parity : Bool) (s : State) : Host.Outcome State Fault Refusal := .next (mxStart t parity s)

/-- MX_CHUNK_END (R157): a chunk ends and is promoted. What the chunks of a sequencer's descriptor hold is the sequencer's own (R283): its totals stand when it
completes. -/
def execMxChunkEnd (t : Tile) (s : State) : Host.Outcome State Fault Refusal :=
  .next (match (tile s t).mxq, (tile s t).mxRun with
    | e :: _, some r => if !engineGated s ∧ e.solv.isNone ∧ r.chunk < mxChunks (mxBits e.w0 e.w1) then chunkEnd t e r s else s
    | _, _ => s)

/-- A sequencer's descriptor that has run completes with DONE (R129, R142, R283): the totals that it leaves in its slot are values that the spec does not give, functions of its
words, of the command's data and of what the slot held (R136, R268). -/
def seqMxDone (t : Nat) (e : MxEntry) (o : Nat × Nat) (s : State) : State :=
  let x := mxBits e.w0 e.w1
  let data := seqData s o ++ [(List.range (mxM x * mxN x)).map fun i => tabGet 0 i (accSlot s t (mxSlot x)).tot]
  seqEnded o t cDone 0 false (seqEndMx t e cDone (modSlot t (mxSlot x) (fun a => { a with
    tot := (List.range (mxM x * mxN x)).foldl (fun l i => tabSet 0 i (Config.seqTotal [e.w0, e.w1] data i % 2 ^ 64) l) a.tot }) s))

/-- MX_DESC_DONE (R124, R129, R130): the descriptor whose chunks have ended completes; `stall` is the tclk it waited on the read port. -/
def execMxDescDone (t : Tile) (stall : Nat) (s : State) : Host.Outcome State Fault Refusal :=
  .next (match (tile s t).mxq, (tile s t).mxRun with
    | e :: _, some r =>
      let s' := bump (aTileMxStall t) stall (aTileMxStatus t) 12 s
      if engineGated s then s
      else match e.solv with
        | some o => seqRefill (seqMxDone t e o s')
        | none =>
          if r.chunk = mxChunks (mxBits e.w0 e.w1) then seqRefill (mxComplete t e (if r.poisonA.isEmpty ∧ r.poisonB.isEmpty then cDone else cPoison) s') else s
    | _, _ => s)

/-- A sequencer's descriptor that took ACC_FORMAT_FAULT completes, and its command ends (R149, R283, R284). -/
def seqMxSkip (t : Nat) (e : MxEntry) (code : Byte) (o : Nat × Nat) (s : State) : State := seqEnded o t cFormat 0x07 false (seqEndMx t e code s)

/-- MX_SKIP_DONE (R634): a descriptor that is not executed completes at the front of the queue. -/
def execMxSkipDone (t : Tile) (s : State) : Host.Outcome State Fault Refusal :=
  .next (match (tile s t).mxq with
    | e :: _ =>
      if engineGated s then s
      else match e.skip, e.solv with
      | some c, none => seqRefill (mxComplete t e c s)
      | some c, some o => seqRefill (seqMxSkip t e c o s)
      | none, _ => s
    | [] => s)

/-- ACC_SLOT_FREE (R150): a BAR0 write places a free of each named slot. -/
def execAccSlotFree (t : Tile) (mask : Word) (s : State) : Host.Outcome State Fault Refusal := .next (placeFrees t mask s)

/-- ACC_FREE_EFFECT (R150): a free takes effect. -/
def execAccFreeEffect (t : Tile) (slot : Fin 64) (s : State) : Host.Outcome State Fault Refusal := .next (freeEffect t slot s)

end Sys2Proof.Machine
end

