-- ==== Sys2Proof/Machine/Special.lean ====
section
/-!
DEFINITION. Machine/Special.lean: the special functions of the stream engine whose last bits the spec leaves open, held to its bound (R185): RSQRT
and EXP to SILU give a free value within 1 ulp (2 ulp in FP64) of the exact result. The exact result is enclosed by integer arithmetic to far more
bits than the bound needs: its own error is below 2^-100 ulp (log entry 16).
-/
namespace Sys2Proof.Machine

/-! ### Fixed-point values: an integer `x` with `p` fraction bits stands for `x / 2^p` -/

/-- A value in fixed point. -/
def toFix (p : Nat) : Val → Int
  | .fin s m e =>
    let k := e + (p : Int)
    let x : Nat := if 0 ≤ k then m * 2 ^ k.toNat else m / 2 ^ (-k).toNat
    if s then -(x : Int) else x
  | _ => 0
/-- The value of a fixed-point number times `2^k`. -/
def ofFix (p : Nat) (x k : Int) : Val := .fin (decide (x < 0)) x.natAbs (k - p)
/-- The product of two fixed-point numbers. -/
def fixMul (p : Nat) (x y : Int) : Int := x * y / 2 ^ p
/-- The sum of the terms of a power series from term `k` on: each term is the last times `r`, over `d k`. -/
def fixSeries (p : Nat) (r : Int) (d : Nat → Nat) : Nat → Nat → Int → Int → Int
  | 0, _, _, acc => acc
  | n + 1, k, t, acc =>
    let t' := fixMul p t r / (d k : Int)
    fixSeries p r d n (k + 1) t' (acc + t')
/-- The sum of `z * w^k / (2k + 1)`: the inverse hyperbolic tangent with `w = z^2`, the arctangent with `w = -z^2`. -/
def fixOdd (p : Nat) (w : Int) : Nat → Nat → Int → Int → Int
  | 0, _, _, acc => acc
  | n + 1, k, t, acc => fixOdd p w n (k + 1) (fixMul p t w) (acc + t / (2 * k + 1 : Int))
/-- Inverse hyperbolic tangent of at most a third. -/
def fixAtanh (p : Nat) (z : Int) : Int := fixOdd p (fixMul p z z) (p / 3 + 4) 0 z 0
/-- The natural logarithm of 2. -/
def fixLn2 (p : Nat) : Int := 2 * fixAtanh p (2 ^ p / 3)
/-- Arctangent of `1/n`. -/
def fixAtanInv (p n : Nat) : Int :=
  let z : Int := 2 ^ p / (n : Int)
  fixOdd p (-(fixMul p z z)) (p / 3 + 4) 0 z 0
/-- The number pi. -/
def fixPi (p : Nat) : Int := 4 * (4 * fixAtanInv p 5 - fixAtanInv p 239)
/-- `e^x` as a fixed-point number from 1 to 2 and a power of two. -/
def fixExp (p : Nat) (x : Int) : Int × Int :=
  let l := fixLn2 p
  let k := x / l
  (fixSeries p (x - k * l) id (p / 4 + 24) 1 (2 ^ p) (2 ^ p), k)

/-! ### The functions -/

/-- Fraction bits of the enclosures: of a small result's cancellation there remain more than 160. -/
def specP : Nat := 320
/-- `e^a`; next to 1 by the first terms of its series. -/
def expEncl (a : Val) : Val :=
  match a with
  | .fin s m e =>
    if m = 0 ∨ (Nat.log2 m : Int) + e < -150 then addV (.fin false 1 0) a
    else if 2 ^ 11 ≤ (if 0 ≤ e then m * 2 ^ e.toNat else m / 2 ^ (-e).toNat) then .fin false 1 (if s then -4000 else 4000)
    else let r := fixExp specP (toFix specP a); ofFix specP r.1 r.2
  | v => v
/-- `ln a` of a positive value. -/
def logEncl (a : Val) : Val :=
  match a with
  | .fin _ m e =>
    let k := Nat.log2 m
    let x : Int := (m * 2 ^ specP / 2 ^ k : Nat)
    let z := (x - 2 ^ specP) * 2 ^ specP / (x + 2 ^ specP)
    ofFix specP ((e + k) * fixLn2 specP + 2 * fixAtanh specP z) 0
  | v => v
/-- The magnitude lies below `2^k`. -/
def belowPow (k : Int) : Val → Bool
  | .fin _ m e => decide (m = 0 ∨ (Nat.log2 m : Int) + e < k)
  | _ => false
/-- The number 1, written with as many bits as a quotient of it is to have. -/
def wideOne : Val := .fin false (2 ^ specP) (-(specP : Int))
/-- The same value, written with more bits, which a root of it then has. -/
def wide : Val → Val
  | .fin s m e => .fin s (m * 2 ^ specP) (e - specP)
  | v => v
/-- `tanh a`; next to 0 and to 1 by the first terms of its series, so that the enclosure lies on the side of them that the exact result does. -/
def tanhEncl (a : Val) : Val :=
  if belowPow (-40) a then
    let w := mulV a a
    subV (addV a (divV (wide (mulV (mulV a w) (mulV (.fin false 2 0) w))) (.fin false 15 0))) (divV (wide (mulV a w)) (.fin false 3 0))
  else
    let t := expEncl (mulV (.fin true 2 0) a.abs)
    let r := if belowPow (-150) t then subV wideOne (mulV (.fin false 2 0) t) else divV (subV wideOne t) (addV wideOne t)
    if a.neg? then r.negate else r
/-- `1/(1 + e^-a)`; next to a half and to 1 by the first terms of its series. -/
def sigmoidEncl (a : Val) : Val :=
  let t := expEncl a.abs.negate
  if belowPow (-150) a then addV (.fin false 1 (-1)) (mulV a (.fin false 1 (-2)))
  else if a.neg? then divV (wide t) (addV wideOne t)
  else if belowPow (-150) t then subV wideOne t
  else divV wideOne (addV wideOne t)
/-- Fraction bits for the normal distribution, whose lower tail cancels up to 1,160 of them. -/
def normP : Nat := 1440
/-- The standard normal distribution function between -40 and 40: a half and the density times the series of the odd powers over the odd
factorials. -/
def normEncl (a : Val) : Val :=
  let x := toFix normP a.abs
  let w := fixMul normP x x
  let sum := fixSeries normP w (fun k => 2 * k + 1) 4096 1 x x
  let ph := fixExp normP (-(w / 2))
  let root : Int := (isqrt (normP + 2) (2 * (fixPi normP).toNat * 2 ^ normP) 0 : Nat)
  let body := mulV (ofFix normP ph.1 ph.2) (.fin false (sum * 2 ^ normP / root).toNat (-(normP : Int)))
  let half : Val := .fin false 1 (-1)
  if a.neg? then subV half body else addV half body
/-- `a` times the standard normal distribution function. -/
def geluEncl (a : Val) : Val :=
  if belowPow 5 a then mulV a (normEncl a)
  else if ltV a (.fin true 40 0) then .fin true 1 (-4000)
  else if ltV (.fin false 40 0) a then subV a (.fin false 1 (-4000))
  else mulV a (normEncl a)
/-- The enclosure of an opcode's result on a finite operand; a NaN or an infinity where its expression has no real value or a pole (IEEE 754, DEDUCED). -/
def specialEncl (op : Nat) (a : Val) : Val :=
  match a with
  | .fin s m _ =>
    match op with
    | 0x13 => if m = 0 then .inf s else if s then vNan else divV wideOne (sqrtV (wide a))
    | 0x14 => expEncl a
    | 0x15 => if m = 0 then .inf true else if s then vNan else logEncl a
    | 0x16 => tanhEncl a
    | 0x17 => sigmoidEncl a
    | 0x18 => geluEncl a
    | _ => mulV a (sigmoidEncl a)
  | v => v
/-- The result of an opcode on a NaN, which gives the canonical NaN, or on an infinity, which gives the limit (IEEE 754, DEDUCED); none for GELU and SILU of minus
infinity, whose expression is minus infinity times 0 and for which the spec states no result. -/
def specialEdge (op : Nat) : Val → Option Val
  | .nan s => some (.nan s)
  | .inf s =>
    let one : Val := .fin false 1 0
    match op with
    | 0x13 => some (if s then vNan else vZero)
    | 0x14 => some (if s then vZero else .inf false)
    | 0x15 => some (if s then vNan else .inf false)
    | 0x16 => some (if s then one.negate else one)
    | 0x17 => some (if s then vZero else one)
    | _ => if s then none else some (.inf false)
  | .fin _ _ _ => none

/-! ### The bound -/

/-- The exponent of one unit in the last place of a format at a value's magnitude. -/
def ulpExp (f : FloatFmt) (v : Val) : Int :=
  let low : Int := 1 - (f.bias : Int) - f.fw
  match v with
  | .fin _ m e => if m = 0 then low else max low ((Nat.log2 m : Int) + e - f.fw)
  | _ => low
/-- IEEE 754 rounding to nearest, ties to even, into a format; overflow gives the infinity. -/
def rnIeee (f : FloatFmt) (v : Val) : Val :=
  match v with
  | .fin s m e => if f.overflows m e then .inf s else f.decode (f.signed s (f.roundCode .rne m e))
  | v => v
/-- A result lies within `k` ulp of an enclosed value; the infinity is one only where the value itself rounds to it. -/
def withinUlp (f : FloatFmt) (k : Nat) (x r : Val) : Bool :=
  match r with
  | .fin _ _ _ => !ltV (.fin false k (ulpExp f x)) (subV r x).abs
  | .inf s => decide (rnIeee f x = .inf s)
  | .nan _ => false
/-- The result of a special function (R185): the free value where it lies within the bound of a real result, else the rounded exact result. -/
def specialValue (f : FloatFmt) (wprec op : Nat) (a : Val) : Val :=
  let r := f.decode (Config.special op wprec (f.encode false .rne a).code % 2 ^ f.width)
  match a with
  | .fin _ _ _ =>
    match specialEncl op a with
    | .fin s m e => if withinUlp f (if f.width = 64 then 2 else 1) (.fin s m e) r then r else rnIeee f (.fin s m e)
    | v => v
  | v => (specialEdge op v).getD r

end Sys2Proof.Machine
end

