-- ==== Sys2Proof/Machine/Stream.lean ====
section
/-!
DEFINITION. Machine/Stream.lean: execution of stream descriptors (R171 to R210): masks, accesses, stages, outputs, faults and completion.
-/
namespace Sys2Proof.Machine

/-! ### Context of a descriptor -/

/-- What an executing descriptor consists of. -/
structure StCtx where
  t : Nat
  part : Nat
  x : Nat
  ins : List StreamRec
  outs : List StreamRec
  gs : List StageRec
  e : StEntry
  /-- an ending is known beforehand: what was served before it is not deferred any more (R198, R199) -/
  forced : Bool := false
  /-- the elements whose data arrived with an uncorrectable word, by stream and index (R351) -/
  ue : List (Nat × Nat) := []
deriving Repr

/-- The context of an entry. -/
def stCtx (s : State) (t : Nat) (e : StEntry) : StCtx :=
  let x := stBits e.ws
  { t := t, part := (ownerOf s t).getD 64, x := x, ins := stIns x e.chain, outs := stOuts x e.chain, gs := stStageRecs x e.chain, e := e }
def ctxRows (c : StCtx) : Nat := stRows c.x
def ctxCols (c : StCtx) : Nat := stCols c.x
def ctxFmt (c : StCtx) : FloatFmt := wprecFmt (stWprec c.x)
/-- The number of elements. -/
def ctxTotal (c : StCtx) : Nat := ctxRows c * ctxCols c
/-- The rounding of element `i` of stream number `STREAM_NO + n` (R173). -/
def ctxRnd (s : State) (c : StCtx) (n i : Nat) : Rnd :=
  roundOf (isStoch (stRnd c.x) c.e.cvt) (seedKey s c.part (stSeed c.x)) c.e.step.toNat (stStream c.x + n) i

/-- How a descriptor ends early: element, stream of STRM_FAULT_INFO, its cause, the completion code, the offset of an access that was refused, and whether the access of the element
has been answered or given up already, so that it is not made again (R198). -/
structure StEnding where
  elem : Nat := 0
  stream : Nat := 7
  cause : Nat := 0
  code : Byte := 0
  addr : Nat := 0
  answered : Bool := false
deriving DecidableEq, Repr, Inhabited

/-- The precedence of R198. -/
def endRank (x : StEnding) : Nat :=
  match x.cause with | 7 => 0 | 6 => 0 | 4 => 1 | 5 => 2 | _ => 3
/-- The ending that is met first. -/
def firstEnding (a b : Option StEnding) : Option StEnding :=
  match a, b with
  | none, b => b
  | a, none => a
  | some x, some y => if y.elem < x.elem ∨ (y.elem = x.elem ∧ endRank y < endRank x) then some y else some x

/-! ### Access to streams -/

/-- The place of element (row, col): start of its packed row, index in it, and its scale byte (R178, R179). -/
def recPlace (r : StreamRec) (cols row col : Nat) : Nat × Nat × Nat :=
  match r.bcast with
  | 0 => (r.base + row * r.pitch, col, recScale r + ceilDiv cols 32 * row + col / 32)
  | 1 => (r.base + row * r.pitch, 0, recScale r + row / 32)
  | 2 => (r.base, col, recScale r + col / 32)
  | _ => (r.base, 0, recScale r)
/-- The bytes of element `i` of a packed row: offset and length (R84). -/
def elemSpan (f : Fmt) (i : Nat) : Nat × Nat :=
  if 8 ≤ f.width then (i * (f.width / 8), f.width / 8) else if f.width = 6 then (i / 4 * 3, 3) else (i / 2, 1)
/-- The code of element `i` in the bytes of its span (R84). -/
def elemCode (f : Fmt) (i : Nat) (b : List Byte) : Nat :=
  if 8 ≤ f.width then leVal b else if f.width = 6 then fieldOf (leVal b) (6 * (i % 4)) 6 else fieldOf (leVal b) (4 * (i % 2)) 4
/-- The address and bit of the mask bit of element (row, col) (R193). -/
def bitPlace (r : StreamRec) (row col : Nat) : Nat × Nat :=
  match r.bcast with
  | 0 => (r.base + row * r.pitch + col / 8, col % 8)
  | 1 => (r.base + row / 8, row % 8)
  | 2 => (r.base + col / 8, col % 8)
  | _ => (r.base, 0)
/-- The byte spans that an element of a stream needs, in stream addresses: data, and scale byte where there is one. -/
def elemNeeds (r : StreamRec) (cols row col : Nat) : List (Nat × Nat) :=
  if r.bits then [((bitPlace r row col).1, 1)]
  else
    let p := recPlace r cols row col
    let d := elemSpan r.fmt p.2.1
    (p.1 + d.1, d.2) :: (if r.fmt.blockScaled then [(p.2.2, 1)] else [])
/-- The element of a stream that element (row, col) of the rectangle reads: its row and column in the stream's shape. -/
def recKey (r : StreamRec) (row col : Nat) : Nat × Nat :=
  match r.bcast with | 0 => (row, col) | 1 => (row, 0) | 2 => (0, col) | _ => (0, 0)
/-- The element index of R173 of a stream element. -/
def recIndex (r : StreamRec) (cols : Nat) (k : Nat × Nat) : Nat :=
  match r.bcast with | 0 => k.1 * cols + k.2 | 1 => k.1 | 2 => k.2 | _ => 0

/-- Lines of the board store that a descriptor read: bytes and poisoned words of each. -/
abbrev StLines := Tab (List Byte × List Nat)

/-- The board-store base of the context's partition (R74). -/
def ctxBst (s : State) (c : StCtx) : Nat := (part s c.part).prec.bstBase
/-- The byte at address `a` of a stream, and whether it is poisoned. -/
def streamByte (s : State) (c : StCtx) (r : StreamRec) (ls : StLines) (a : Nat) : Byte × Bool :=
  if r.kind = 2 then
    let y := ctxBst s c + a
    let l := tabGet ([], []) (y / 128) ls
    (l.1.getD (y % 128) 0, l.2.contains (y % 128 / 8))
  else
    let y := pkgAddr (if r.kind = 1 then recTile r else c.t) a
    (memByte s y, badByte s y)

/-- The answer that a REMOTE target gives before it serves a request, in the order of R593 (R31, R34, R72, R198, R346, R348): its code, cDone where it serves. -/
def remoteAnswer (s : State) (c : StCtx) (tgt a : Nat) : State × Byte :=
  let n := tileStation s tgt
  if !unitExists s tgt ∨ (unitState s n = .failed ∧ domSt s (quadOf tgt) = .failed) then
    (logEvent { event := 0x01, sev := 1, tag := c.part, code := cOff.toNat, station := n, unit := tgt } s, cOff)
  else if unitState s n = .failed then (s, cOff)
  else if ownerOf s tgt ≠ some c.part then
    (logEvent { event := 0x02, sev := 1, tag := c.part, code := cPart.toNat, station := n, unit := tgt, detail := tagOf s tgt, addr := a } s, cPart)
  else match unitGate n 3 s with
    | some x => (x.2.2, x.1)
    | none => (s, cDone)

/-- The access that was deferred: of a REMOTE target, a read of a board-store line under a hint, or a write to the board store (R198); with its element and stream. -/
inductive StWait where
  | remote (tgt addr elem stream : Nat)
  | load (hint line elem stream : Nat)
  | store (hint addr elem stream : Nat)
deriving DecidableEq, Repr

/-- What an access phase has seen: state, lines, the lines that LAST inputs read, ending, and the access whose DEFER keeps the descriptor waiting. -/
structure StSeen where
  s : State
  lines : StLines := []
  last : List Nat := []
  ending : Option StEnding := none
  wait : Option StWait := none
deriving Repr

/-- A line of the board store as it is, its bytes and its poisoned words: what a read of it brought that was served before. -/
def lineHeld (s : State) (A : Nat) : List Byte × List Nat :=
  match (lineSet s A).bind fun j => (findWay s j A).map fun w => (j, w) with
  | some (j, w) => (memBytes s (wayAddr s j w) 128, (List.range 16).filter fun i => badWord s (wayAddr s j w / 8 + i))
  | none => let r := chanRead s A; (r.bytes, r.bad)
/-- The accesses of one row of needed elements of input stream `j`; each is given as its linear index and its byte spans. -/
def fetchRow (c : StCtx) (j : Nat) (r : StreamRec) (need : List (Nat × List (Nat × Nat))) (y : StSeen) : StSeen :=
  if y.wait.isSome ∨ y.ending.isSome ∨ need.isEmpty then y
  else
    let spans := need.flatMap (·.2)
    if r.kind = 2 then
      let b := ctxBst y.s c
      let lineOf (a : Nat) : Nat := (b + a) / 128
      let lines := (spans.flatMap fun p => [lineOf p.1, lineOf (p.1 + p.2 - 1)]).eraseDups
      lines.foldl (fun y A =>
        if y.wait.isSome ∨ y.ending.isSome then y
        else
          let z := bstReadLine c.part r.hint A y.s
          let i := ((need.find? fun n => n.2.any fun p => decide (lineOf p.1 = A) || decide (lineOf (p.1 + p.2 - 1) = A)).map (·.1)).getD 0
          let seen (s : State) (l : List Byte × List Nat) : StSeen :=
            { y with s := s, lines := tabPut A l y.lines, last := if r.hint = 2 then y.last ++ [A] else y.last }
          if z.2.code = cDone ∨ z.2.code = cPoison then seen z.1 (z.2.bytes, z.2.bad)
          else if z.2.code = cDefer ∧ c.forced then seen y.s (lineHeld y.s A)
          else if z.2.code = cDefer then { y with s := z.1, wait := some (.load r.hint A i j) }
          else
            { y with s := z.1, ending := some { elem := i, stream := j, cause := causeOf z.2.code, code := z.2.code } }) y
    else
      let tgt := if r.kind = 1 then recTile r else c.t
      let a := (spans.head?.map (·.1)).getD 0
      let g := if r.kind = 1 then remoteAnswer y.s c tgt a else (y.s, cDone)
      let g := if g.2 = cDefer ∧ c.forced then (y.s, cDone) else g
      if g.2 = cDefer then { y with s := g.1, wait := some (.remote tgt a ((need.head?.map (·.1)).getD 0) j) }
      else if g.2 ≠ cDone then { y with s := g.1, ending := some { elem := (need.head?.map (·.1)).getD 0, stream := j, cause := causeOf g.2, code := g.2 } }
      else
        let ws := (spans.flatMap fun p => wordsOf (pkgAddr tgt p.1) p.2).eraseDups
        { y with s := touchWords (if r.kind = 1 then 1 else 0) ws g.1 }

/-- The elements of a stream that a set of needed elements, in linear order, reads: by stream row, with the first linear index of each. -/
def needRows (c : StCtx) (r : StreamRec) (need : List (Nat × Nat)) : List (List (Nat × List (Nat × Nat))) :=
  let cols := ctxCols c
  let cells := need.foldl (fun (l : List (Nat × Nat × Nat)) p =>
    let k := recKey r p.1 p.2
    if l.any fun q => q.2 = k then l else l ++ [(p.1 * cols + p.2, k)]) []
  let rows := (cells.map fun q => q.2.1).eraseDups
  rows.map fun i => (cells.filter fun q => q.2.1 = i).map fun q => (q.1, elemNeeds r cols q.2.1 q.2.2)
/-- The accesses of input stream `j` for needed elements. -/
def fetchStream (c : StCtx) (j : Nat) (need : List (Nat × Nat)) (y : StSeen) : StSeen :=
  let r := c.ins.getD j default
  if r.kind = 3 then y else (needRows c r need).foldl (fun y n => fetchRow c j r n y) y

/-! ### Masks (R192 to R197) -/

/-- CAUSAL of R192. -/
def causal (x row col : Nat) : Bool := decide (stK0 x + col ≤ stQ0 x + row + stMp0 x)
/-- The part of the mask that no stream supplies. -/
def maskPos (x row col : Nat) : Bool :=
  let q := stQ0 x + row
  let k := stK0 x + col
  match stMask x with
  | 1 => causal x row col
  | 2 => decide (q ≤ k + stMp0 x ∧ k ≤ q + stMp1 x)
  | 3 => decide (stMp0 x ≤ k ∧ k < stMp1 x)
  | 5 => causal x row col
  | _ => true
/-- Every element below a linear index, in linear order, that a test admits. -/
def elemsBelow (c : StCtx) (limit : Nat) (f : Nat → Nat → Bool) : List (Nat × Nat) :=
  ((List.range (min limit (ctxTotal c))).map fun i => (i / ctxCols c, i % ctxCols c)).filter fun p => f p.1 p.2
/-- The data of an element of stream `j` arrived with an uncorrectable word (R351). -/
def netBad (c : StCtx) (j : Nat) (r : StreamRec) (k : Nat × Nat) : Bool := decide (r.kind = 1 ∨ r.kind = 2) && c.ue.contains (j, recIndex r (ctxCols c) k)
/-- Whether an element is active, and whether the byte of its mask bit is poisoned (R192, R201); an ACC input with BITS = 1 as mask source has its mask bytes at BASE of the
own slice (log entry 16). -/
def activity (s : State) (c : StCtx) (ls : StLines) (row col : Nat) : Bool × Bool :=
  if !maskPos c.x row col then (false, false)
  else if stMask c.x < 4 then (true, false)
  else
    let r := c.ins.getD (stMsrc c.x) default
    let p := bitPlace r row col
    let b := streamByte s c r ls p.1
    if b.2 || netBad c (stMsrc c.x) r (recKey r row col) then (true, true) else (bitOf b.1.toNat p.2, false)

/-! ### Elements (R172, R201) -/

/-- An element in the working precision and whether it is poisoned. -/
structure Elem where
  v : Val := .fin false 0 0
  bad : Bool := false
deriving DecidableEq, Repr, Inhabited

/-- The stored format is an integer format. -/
def recIsInt (r : StreamRec) : Bool := if r.kind = 3 then decide (fieldOf r.sel 6 3 = 4) else r.fmt.isInt
/-- The exact value of element `k` of a slot (R89, R162). -/
def slotVal (a : AccSlot) (afmt k : Nat) : Val :=
  if afmt = 4 then .ofInt (signedOf 32 (tabGet 0 k a.tot))
  else
    let f := slotFmt afmt
    let v := f.decode (tabGet 0 k a.tot)
    if slotComp afmt then addV v (f.decode (tabGet 0 k a.comp)) else v
/-- The stored code of an element of a stream, and whether any of its bytes is poisoned. -/
def rawElem (s : State) (c : StCtx) (r : StreamRec) (ls : StLines) (k : Nat × Nat) : Nat × Nat × Bool :=
  let p := recPlace r (ctxCols c) k.1 k.2
  let d := elemSpan r.fmt p.2.1
  let bs := (List.range d.2).map fun i => streamByte s c r ls (p.1 + d.1 + i)
  let sc := if r.fmt.blockScaled then streamByte s c r ls p.2.2 else (0, false)
  (elemCode r.fmt p.2.1 (bs.map (·.1)), sc.1.toNat, bs.any (·.2) || sc.2)
/-- Element `k` of input stream `j`, converted to the working precision, with the events of its conversion; an INT32 slot total goes through the working precision too
(R172; against R95, log entry 16). -/
def loadElem (s : State) (c : StCtx) (j : Nat) (ls : StLines) (k : Nat × Nat) : Elem × CvtEv :=
  let r := c.ins.getD j default
  let src : Val × Bool :=
    if r.kind = 3 then
      let a := c.e.slot.getD {}
      if a.held ∨ a.poison then (vZero, true) else (slotVal a (recBind r).afmt (k.1 * ctxCols c + k.2), false)
    else
      let q := rawElem s c r ls k
      if q.2.2 || netBad c j r k then (if recIsInt r then vZero else vNan, true)
      else (if r.fmt.blockScaled then r.fmt.decodeScaled q.2.1 q.1 else r.fmt.decodeElem q.1, false)
  let z := (ctxFmt c).encode (cvtSatmode c.e.cvt) (ctxRnd s c j (recIndex r (ctxCols c) k)) src.1
  (⟨(ctxFmt c).decode z.code, src.2⟩, ⟨b2n z.sat, z.nanInt, false⟩)
/-- Input `j` as element (row, col) of the rectangle sees it; a poisoned mask byte makes it poisoned (R201). -/
def inputAt (s : State) (c : StCtx) (j : Nat) (ls : StLines) (maskBad : Bool) (row col : Nat) : Elem :=
  let r := c.ins.getD j default
  if maskBad then ⟨if recIsInt r then vZero else vNan, true⟩ else (loadElem s c j ls (recKey r row col)).1

/-! ### Stages (R182 to R187) -/

/-- The result of an opcode that works on one element (R184, R185). -/
def stageValue (f : FloatFmt) (wprec op : Nat) (a b c : Val) : Val :=
  let one : Val := .fin false 1 0
  match op with
  | 0x00 => a
  | 0x01 => rnIeee f (addV a b)
  | 0x02 => rnIeee f (subV a b)
  | 0x03 => rnIeee f (mulV a b)
  | 0x04 => rnIeee f (fmaV a b c)
  | 0x05 => minV a b
  | 0x06 => maxV a b
  | 0x07 => a.abs
  | 0x08 => a.negate
  | 0x09 => minV (maxV a b) c
  | 0x0A => maxV a vZero
  | 0x0B => if ltV a b then one else vZero
  | 0x0C => if eqV a b then one else vZero
  | 0x0D => if c.isZero then b else a
  | 0x10 => rnIeee f (divV one a)
  | 0x11 => rnIeee f (divV a b)
  | 0x12 => rnIeee f (sqrtV a)
  | _ => specialValue f wprec op a

/-- One fold of R186; a value that is not finite stands in the first place. -/
def foldSum (p : Val × Val) (t : Val) : Val × Val :=
  let h := rn64 (addV p.1 t)
  match h with
  | .fin _ _ _ => foldPair p t
  | v => (v, vZero)
/-- The value of a folded pair in the working precision. -/
def pairValue (f : FloatFmt) (p : Val × Val) : Val := rnIeee f (addV p.1 p.2)

/-- What runs along a row: the scan pairs by stage, the operands of row reductions by stage, columns of them, whether any input was poisoned, and table elements read. -/
structure RowAcc where
  scans : Tab ((Val × Val) × Bool) := []
  reds : Tab (List (Nat × Val)) := []
  bad : Bool := false
  gathered : List (Nat × Nat) := []
  fault : Option Nat := none
deriving Repr, Inhabited

/-- The operand that a selector names (R183). -/
def operandAt (s : State) (c : StCtx) (ls : StLines) (maskBad : Bool) (row col k : Nat) (g : StageRec) (res : List Elem) (sel : Nat) : Elem :=
  if sel = 5 then ⟨(ctxFmt c).decode (c.e.consts.getD g.cidx 0), false⟩
  else match selInput k sel with
    | some j => inputAt s c j ls maskBad row col
    | none => match selStage k sel g.tap with | some i => res.getD i {} | none => {}
/-- The integer that indexes a table (R200). -/
def gatherIndex (cols : Nat) (v : Val) : Option Nat :=
  match v with
  | .fin sg m e =>
    let n := if 0 ≤ e then m * 2 ^ e.toNat else m / 2 ^ (-e).toNat
    let whole := decide (0 ≤ e) || decide (m % 2 ^ (-e).toNat = 0)
    if whole ∧ (m = 0 ∨ sg = false) ∧ n < cols then some n else none
  | _ => none

/-- Stage `k` of an element. -/
def runStage (s : State) (c : StCtx) (ls : StLines) (maskBad : Bool) (row col : Nat) (z : RowAcc × List Elem) (kg : Nat × StageRec) : RowAcc × List Elem :=
  let acc := z.1
  let res := z.2
  let k := kg.1
  let g := kg.2
  let f := ctxFmt c
  let ops := g.sels.map (operandAt s c ls maskBad row col k g res)
  let bad := ops.any (·.bad)
  let a := (ops.getD 0 {}).v
  if opRed g.op then ({ acc with reds := tabPut k (tabGet [] k acc.reds ++ [(col, a)]) acc.reds }, res ++ [⟨a, bad⟩])
  else if g.op = 0x23 then
    let q := tabGet ((vZero, vZero), false) k acc.scans
    let p := foldSum q.1 a
    ({ acc with scans := tabPut k (p, q.2 || bad) acc.scans }, res ++ [⟨pairValue f p, q.2 || bad⟩])
  else if g.op = 0x28 then
    match gatherIndex (ctxCols c) a with
    | none => ({ acc with fault := some (acc.fault.getD k) }, res ++ [⟨vNan, bad⟩])
    | some i =>
      let v := (loadElem s c g.aux ls (0, i)).1
      ({ acc with gathered := acc.gathered ++ [(g.aux, i)], bad := acc.bad || v.bad }, res ++ [⟨v.v, bad || v.bad⟩])
  else
    let v :=
      match g.op with
      | 0x29 => rnIeee f (.ofInt (stK0 c.x + col))
      | 0x2A => rnIeee f (.ofInt (stQ0 c.x + row))
      | 0x2B => rnIeee f (.fin false (replayBits (seedKey s c.part (stSeed c.x)) c.e.step.toNat ((stStream c.x + 6) % 2 ^ 24) (row * ctxCols c + col)) (-16))
      | _ => stageValue f (stWprec c.x) g.op a (ops.getD 1 {}).v (ops.getD 2 {}).v
    (acc, res ++ [⟨v, bad⟩])

/-- The result of a row reduction (R186). -/
def reduceRow (f : FloatFmt) (op : Nat) (xs : List (Nat × Val)) : Val :=
  if op = 0x20 then
    let groups := (xs.map fun x => x.1 / 32).eraseDups
    pairValue f (groups.foldl (fun p g => foldSum p (rn64 (sumV ((xs.filter fun x => x.1 / 32 = g).map (·.2))))) (vZero, vZero))
  else
    match xs.find? fun x => x.2.isNan with
    | some x => x.2
    | none =>
      match xs.map (·.2) with
      | [] => .inf (decide (op = 0x21))
      | a :: r => r.foldl (fun m v => if op = 0x21 then maxV m v else minV m v) a

/-- A row computed: the results of its active elements by column and stage, and of its reductions by stage. -/
structure RowRes where
  elems : Tab (List Elem) := []
  reds : Tab Elem := []
  acc : RowAcc := {}
deriving Repr, Inhabited

/-- One row: its active columns with the poison of their mask bytes, in order, up to a gather fault. -/
def runRow (s : State) (c : StCtx) (ls : StLines) (row : Nat) (cols : List (Nat × Bool)) : RowRes :=
  let used := stUsed c.gs
  let r := cols.foldl (fun (y : RowRes) cm =>
    if y.acc.fault.isSome then y
    else
      let ins := used.any fun j => (inputAt s c j ls cm.2 row cm.1).bad
      let acc := { y.acc with bad := y.acc.bad || cm.2 || ins }
      let z := (c.gs.mapIdx fun k g => (k, g)).foldl (runStage s c ls cm.2 row cm.1) (acc, [])
      match z.1.fault with
      | some k => { y with acc := { z.1 with fault := some (cm.1 * 8 + k) } }
      | none => { y with elems := y.elems ++ [(cm.1, z.2)], acc := z.1 }) {}
  { r with reds := (c.gs.mapIdx fun k g => (k, g)).filterMap fun kg =>
      if opRed kg.2.op then some (kg.1, ⟨reduceRow (ctxFmt c) kg.2.op (tabGet [] kg.1 r.acc.reds), r.acc.bad⟩) else none }

/-! ### Evaluation -/

/-- What the elements below a limit give: state after the accesses, rows, activity, ending, poison, and conversion events. -/
structure StEval where
  seen : StSeen
  rows : List RowRes := []
  bad : Bool := false
  ev : CvtEv := {}
deriving Repr

/-- Whether the descriptor only copies bytes to the board store (R188, R105): it then converts nothing. -/
def copies (c : StCtx) : Bool := c.outs.all fun o => o.kind = 2

/-- The elements whose access of input `j` is made: all but the one whose answer ended the descriptor. -/
def needed (cut : Option StEnding) (cols j : Nat) (need : List (Nat × Nat)) : List (Nat × Nat) :=
  match cut with
  | some n => if n.answered ∧ n.stream = j then need.filter fun p => decide (p.1 * cols + p.2 < n.elem) else need
  | none => need
/-- Accesses and results of the elements up to a known ending, each stream element converted once (R172, R196). The element at which an access ended is not
converted: its bytes did not arrive (R97, R199); a gather fault and a refused write come after its conversion. A LOCAL word of inactive elements alone is not read (log entry 16). -/
def evalTo (c : StCtx) (cut : Option StEnding) (s : State) : StEval :=
  let limit := match cut with | some n => min (ctxTotal c) (n.elem + 1) | none => ctxTotal c
  let y := if 4 ≤ stMask c.x then fetchStream c (stMsrc c.x) (needed cut (ctxCols c) (stMsrc c.x) (elemsBelow c limit (maskPos c.x))) { s := s } else { s := s }
  let limit := match y.ending with | some n => min limit n.elem | none => limit
  let act (row col : Nat) : Bool × Bool := if row * ctxCols c + col < limit then activity s c y.lines row col else (false, false)
  let need := elemsBelow c limit fun r k => (act r k).1
  let used := (stUsed c.gs).filter fun j => decide (j < c.ins.length)
  let y := used.foldl (fun y j => let z := fetchStream c j (needed cut (ctxCols c) j need) { y with ending := none }; { z with ending := firstEnding y.ending z.ending }) y
  if y.wait.isSome then { seen := y }
  else
    let rows := (List.range (ctxRows c)).map fun row =>
      runRow s c y.lines row ((List.range (ctxCols c)).filterMap fun col =>
        let a := act row col
        if a.1 ∧ (match y.ending with | some n => decide (row * ctxCols c + col < n.elem) | none => true) = true then some (col, a.2) else none)
    let gath := rows.findIdx? fun r => r.acc.fault.isSome
    let ending := match gath with
      | some row =>
        let f := ((rows.getD row {}).acc.fault).getD 0
        firstEnding y.ending (some { elem := row * ctxCols c + f / 8, stream := (c.gs.getD (f % 8) default).aux, cause := 3, code := cPart })
      | none => y.ending
    let tables := (rows.flatMap fun r => r.acc.gathered).eraseDups
    let y := (stTables c.gs).eraseDups.foldl (fun y j =>
      let r := c.ins.getD j default
      { y with s := touchWords 0 ((tables.filter fun g => g.1 = j).flatMap fun g =>
          (elemNeeds r (ctxCols c) 0 g.2).flatMap fun p => wordsOf (pkgAddr c.t p.1) p.2).eraseDups y.s }) y
    let cvtd (p : Nat × Nat) : Bool := match firstEnding ending cut with
      | some n => decide (p.1 * ctxCols c + p.2 < n.elem ∨ n.cause = 3 ∨ (4 ≤ n.stream ∧ n.stream < 6))
      | none => true
    let cells := (used.flatMap fun j =>
      let r := c.ins.getD j default
      ((need.filter fun p => cvtd p && !(act p.1 p.2).2).map fun p => (j, recKey r p.1 p.2)).eraseDups) ++ tables.map fun g => (g.1, (0, g.2))
    let ev := if copies c then {} else (cells.map fun k => (loadElem s c k.1 y.lines k.2).2).foldl CvtEv.add {}
    { seen := { y with ending := ending }, rows := rows, bad := rows.any fun r => r.acc.bad, ev := ev }

/-! ### Outputs (R172, R195, R199, R201, R601, R602) -/

/-- A piece of an output: stream address, bytes, and whether its words take the poison mark; `elem` is the element it belongs to. -/
structure Piece where
  elem : Nat := 0
  addr : Nat := 0
  bytes : List Byte := []
  mark : Bool := false
deriving DecidableEq, Repr, Inhabited

/-- Adjacent pieces of one kind written together, but not over a place where a board-store line begins: one line is one request. -/
def joinPieces (lineAt : Nat → Bool) : List Piece → List Piece
  | [] => []
  | p :: r =>
    match joinPieces lineAt r with
    | [] => [p]
    | q :: r' =>
      if p.addr + p.bytes.length = q.addr ∧ p.mark = q.mark ∧ !lineAt q.addr then { p with bytes := p.bytes ++ q.bytes } :: r' else p :: q :: r'
/-- A piece of a block cut where a board-store line begins, the rest with the first element that has bytes in it. -/
def cutPiece (base width : Nat) (p : Piece) : List Piece :=
  let o := 128 - (base + p.addr) % 128
  if p.bytes.length ≤ o then [p]
  else [{ p with bytes := p.bytes.take o }, { p with elem := p.elem + 8 * o / width, addr := p.addr + o, bytes := p.bytes.drop o }]
/-- The pieces of an output as they are written. -/
def writtenPieces (s : State) (c : StCtx) (n : Nat) (o : StreamRec) (ps : List Piece) : List Piece :=
  let b := ctxBst s c
  let ps := ps.map fun p => { p with mark := p.mark || (decide (o.kind = 1 ∨ o.kind = 2) && c.ue.contains (4 + n, p.elem)) }
  if o.kind = 2 then joinPieces (fun a => decide ((b + a) % 128 = 0)) (ps.flatMap (cutPiece b o.fmt.width)) else joinPieces (fun _ => false) ps

/-- The code written for an inactive element (R195). -/
def fillCode (f : Fmt) (fill : Nat) : Nat :=
  if fill = 2 then
    match f.float? with
    | some g => match g.special with | .ieee => g.infCode true | _ => g.signed true g.maxCode
    | none => wrapTo f.width f.range.1
  else 0

/-- The code of an active element in an output format, with its events and its mark (R172, R201). A poisoned element raises no event of its own at an element-rate
output, as its value stands for none; a block that holds one is converted as a block and counts its overflows and clamps (DEDUCED, log entry 16). -/
def outCode (s : State) (c : StCtx) (n : Nat) (f : Fmt) (i : Nat) (x : Elem) : Nat × CvtEv × Bool :=
  if x.bad ∧ f.float?.isSome then ((f.encodeElem false .rne vNan).code, {}, false)
  else
    let z := f.encodeElem (cvtSatmode c.e.cvt) (ctxRnd s c (4 + n) i) x.v
    (z.code, if x.bad then {} else ⟨b2n z.sat, z.nanInt, false⟩, x.bad)

/-- The pieces of a packed row of codes from address `a` in a format that is not block-scaled; the second code of a byte of an INT4 row keeps its old bits
where it is not written, and the spare bits are 0 (R84, R86). Each code carries its element and mark. -/
def packRow (s : State) (c : StCtx) (r : StreamRec) (a : Nat) (codes : List (Option (Nat × Nat × Bool))) : List Piece :=
  if 8 ≤ r.fmt.width then
    (codes.mapIdx fun i o => o.map fun x =>
      ({ elem := x.1, addr := a + i * (r.fmt.width / 8), bytes := leBytes (r.fmt.width / 8) x.2.1, mark := x.2.2 } : Piece)).filterMap id
  else
    (List.range (ceilDiv codes.length 2)).filterMap fun k =>
      let lo := (codes.getD (2 * k) none)
      let hi := (codes.getD (2 * k + 1) none)
      match lo.orElse fun _ => hi with
      | none => none
      | some x =>
        let old := (if r.kind = 2 then bstByte s (ctxBst s c + a + k) else (streamByte s c r [] (a + k)).1).toNat
        let l := match lo with | some y => y.2.1 | none => old % 16
        let h := match hi with | some y => y.2.1 | none => if 2 * k + 1 < codes.length then old / 16 else 0
        some { elem := x.1, addr := a + k, bytes := [BitVec.ofNat 8 (l + 16 * h)], mark := (lo.any fun y => y.2.2) || (hi.any fun y => y.2.2) }

/-- The pieces of a block: its element codes and its scale byte (R86, R107, R602). -/
def blockPieces (f : Fmt) (elem : Nat) (addrs : List Nat) (packed : Bool) (sc : Nat) (b : CvtBlock) (mark : Bool) : List Piece :=
  (if packed then [{ elem := elem, addr := addrs.getD 0 0, bytes := f.pack b.codes, mark := mark }]
   else (List.zip addrs b.codes).map fun x => { elem := elem, addr := x.1, bytes := f.pack [x.2], mark := mark })
    ++ [{ elem := elem, addr := sc, bytes := [BitVec.ofNat 8 b.scale], mark := mark }]

/-- A list of elements of a block converted (R88, R195). -/
def convBlock (s : State) (c : StCtx) (n : Nat) (f : Fmt) (idx : List Nat) (xs : List (Option Elem)) : CvtBlock :=
  f.encodeBlock (cvtSatmode c.e.cvt) (fun j => ctxRnd s c (4 + n) (idx.getD j 0)) (xs.map fun x => (x.getD {}).v)

/-- The pieces of row `row` of an element-rate output below a limit, with events. -/
def outRowPieces (s : State) (c : StCtx) (n : Nat) (o : StreamRec) (limit row : Nat) (res : RowRes) : List Piece × CvtEv :=
  let cols := ctxCols c
  let k := feedOf c.gs n
  let at_ (col : Nat) : Option Elem := (tabFind col res.elems).map fun l => l.getD k {}
  let a := o.base + row * o.pitch
  if o.fmt.blockScaled then
    let bs := (List.range (ceilDiv cols 32)).filter fun b => decide (row * cols + min (32 * b + 32) cols ≤ limit)
    let ps := bs.map fun b =>
      let cs := (List.range (min 32 (cols - 32 * b))).map (32 * b + ·)
      let xs := cs.map at_
      let y := convBlock s c n o.fmt (cs.map (row * cols + ·)) xs
      (blockPieces o.fmt (row * cols + 32 * b) [a + 4 * b * o.fmt.width] true (recScale o + ceilDiv cols 32 * row + b) y (xs.any fun x => (x.getD {}).bad),
        (⟨y.sats, false, y.clamp⟩ : CvtEv))
    (ps.flatMap (·.1), (ps.map (·.2)).foldl CvtEv.add {})
  else
    let ps := (List.range cols).map fun col =>
      if limit ≤ row * cols + col then (none, ({} : CvtEv))
      else match at_ col with
        | some x => let z := outCode s c n o.fmt (row * cols + col) x; (some (row * cols + col, z.1, z.2.2), z.2.1)
        | none => (if stFill c.x = 0 then none else some (row * cols + col, fillCode o.fmt (stFill c.x), false), {})
    (packRow s c o a (ps.map (·.1)), (ps.map (·.2)).foldl CvtEv.add {})

/-- The pieces of a row of a copy to the board store: raw codes and scale bytes of the input (R105, R188); a poisoned element of a floating-point format is the canonical NaN (R201). -/
def copyPieces (s : State) (c : StCtx) (o : StreamRec) (limit row : Nat) (res : RowRes) : List Piece :=
  let cols := ctxCols c
  let r := c.ins.getD 0 default
  let raw (col : Nat) : Nat × Nat × Bool := rawElem s c r [] (row, col)
  let a := o.base + row * o.pitch
  if o.fmt.blockScaled then
    ((List.range (ceilDiv cols 32)).filter fun b => decide (row * cols + min (32 * b + 32) cols ≤ limit)).flatMap fun b =>
      let cs := (List.range (min 32 (cols - 32 * b))).map (32 * b + ·)
      let on := cs.filter fun k => (tabFind k res.elems).isSome
      let sc := match on with | k :: _ => (raw k).2.1 | [] => 0
      blockPieces o.fmt (row * cols + 32 * b) [a + 4 * b * o.fmt.width] true (recScale o + ceilDiv cols 32 * row + b)
        { scale := sc, codes := cs.map fun k => if on.contains k then (raw k).1 else 0 } (on.any fun k => (raw k).2.2)
  else
    packRow s c o a ((List.range cols).map fun col =>
      if limit ≤ row * cols + col then none
      else if (tabFind col res.elems).isSome then
        let q := raw col
        if q.2.2 ∧ o.fmt.float?.isSome then some (row * cols + col, (o.fmt.encodeElem false .rne vNan).code, false) else some (row * cols + col, q.1, q.2.2)
      else if stFill c.x = 0 then none else some (row * cols + col, fillCode o.fmt (stFill c.x), false))

/-- The pieces of a row-reduction output for the rows below `rows` (R186, R197, R199). -/
def redPieces (s : State) (c : StCtx) (n : Nat) (o : StreamRec) (rows : Nat) (res : List RowRes) : List Piece × CvtEv :=
  let k := feedOf c.gs n
  let x (i : Nat) : Elem := tabGet {} k (res.getD i {}).reds
  if o.fmt.blockScaled then
    let bs := (List.range (ceilDiv (ctxRows c) 32)).filter fun b => decide (min (32 * b + 32) (ctxRows c) ≤ rows)
    let ps := bs.map fun b =>
      let rs := (List.range (min 32 (ctxRows c - 32 * b))).map (32 * b + ·)
      let y := convBlock s c n o.fmt rs (rs.map fun i => some (x i))
      (blockPieces o.fmt (32 * b * ctxCols c) (rs.map fun i => o.base + i * o.pitch) false (recScale o + b) y (rs.any fun i => (x i).bad),
        (⟨y.sats, false, y.clamp⟩ : CvtEv))
    (ps.flatMap (·.1), (ps.map (·.2)).foldl CvtEv.add {})
  else
    let ps := (List.range rows).map fun i =>
      let z := outCode s c n o.fmt i (x i)
      (packRow s c o (o.base + i * o.pitch) [some (i * ctxCols c, z.1, z.2.2)], z.2.1)
    (ps.flatMap (·.1), (ps.map (·.2)).foldl CvtEv.add {})

/-- What writing has done: state, a merge not made, the words that take the poison mark when the outputs are written (R602), and how it ended. -/
structure StWritten where
  s : State
  bad : Bool := false
  marks : List Nat := []
  ending : Option StEnding := none
  wait : Option StWait := none
deriving Repr

/-- A write to the board store that was served before: to the cached line, or to the devices. -/
def bstPut (c : StCtx) (p : Piece) (s : State) : State :=
  let a := ctxBst s c + p.addr
  match (lineSet s (a / 128)).bind fun j => (findWay s j (a / 128)).map fun w => (j, w) with
  | some (j, w) => putWay j w { wayOf s j w with dirty := true } (if p.mark then spWriteMarked (wayAddr s j w + a % 128) p.bytes s else spWrite 2 (wayAddr s j w + a % 128) p.bytes s)
  | none => writeDev (a / 128) (mergeLine (chanRead s (a / 128)).bytes (a % 128) p.bytes) s
/-- Write a piece of output `n`. -/
def writePiece (c : StCtx) (n : Nat) (o : StreamRec) (w : StWritten) (p : Piece) : StWritten :=
  if w.wait.isSome ∨ w.ending.isSome then w
  else if o.kind = 2 then
    let z := bstWrite c.part o.hint (ctxBst w.s c + p.addr) p.bytes p.mark w.s
    if z.2 = cDone then { w with s := z.1 }
    else if z.2 = cPoison then { w with s := z.1, bad := true }
    else if z.2 = cDefer ∧ c.forced then { w with s := bstPut c p w.s }
    else if z.2 = cDefer then { w with s := z.1, wait := some (.store o.hint p.addr p.elem (4 + n)) }
    else { w with s := z.1, ending := some { elem := p.elem, stream := 4 + n, cause := causeOf z.2, code := z.2, addr := p.addr } }
  else
    let tgt := if o.kind = 1 then recTile o else c.t
    let g := if o.kind = 1 then remoteAnswer w.s c tgt p.addr else (w.s, cDone)
    let g := if g.2 = cDefer ∧ c.forced then (w.s, cDone) else g
    if g.2 = cDefer then { w with s := g.1, wait := some (.remote tgt p.addr p.elem (4 + n)) }
    else if g.2 ≠ cDone then { w with s := g.1, ending := some { elem := p.elem, stream := 4 + n, cause := causeOf g.2, code := g.2, addr := p.addr } }
    else
      let a := pkgAddr tgt p.addr
      { w with
        s := spWrite (if o.kind = 1 then 1 else 0) a p.bytes g.1
        bad := w.bad || writePoisons g.1 a p.bytes.length
        marks := if p.mark then w.marks ++ wordsOf a p.bytes.length else w.marks }

/-- The outputs below a linear index: element-rate outputs row by row, then row reductions; with the events of their conversions. The marks come last, so
that each marked word holds all that was written to it (R601). -/
def emitTo (c : StCtx) (limit : Nat) (v : StEval) : StWritten × CvtEv :=
  let s := v.seen.s
  let r := (List.range (ctxRows c)).foldl (fun (y : StWritten × CvtEv) row =>
    (c.outs.mapIdx fun n o => (n, o)).foldl (fun (y : StWritten × CvtEv) no =>
      if no.2.bcast ≠ 0 then y
      else
        let ps := if no.2.kind = 2 then (copyPieces s c no.2 limit row (v.rows.getD row {}), {}) else outRowPieces s c no.1 no.2 limit row (v.rows.getD row {})
        ((writtenPieces y.1.s c no.1 no.2 ps.1).foldl (writePiece c no.1 no.2) y.1, y.2.add ps.2)) y) ({ s := s }, {})
  let r := (c.outs.mapIdx fun n o => (n, o)).foldl (fun (y : StWritten × CvtEv) no =>
    if no.2.bcast = 0 then y
    else
      let ps := redPieces s c no.1 no.2 (limit / ctxCols c) v.rows
      ((writtenPieces y.1.s c no.1 no.2 ps.1).foldl (writePiece c no.1 no.2) y.1, y.2.add ps.2)) r
  ({ r.1 with s := r.1.marks.foldl (fun s k => markWord k s) r.1.s }, r.2)

/-- What the refusal of the write that ends a descriptor leaves at its target: the logged event, or BST_STATUS.QUOTA. -/
def refuseAgain (c : StCtx) (n : StEnding) (s : State) : State :=
  match c.outs[n.stream - 4]? with
  | none => s
  | some o =>
    if o.kind = 1 then (remoteAnswer s c (recTile o) n.addr).1
    else
      let z := bstWrite c.part o.hint (ctxBst s c + n.addr) [0] false s
      if z.2 = n.code then z.1 else s

/-- A descriptor carried out up to its ending, or the access whose DEFER keeps it waiting. -/
structure StDone where
  s : State
  wait : Option StWait := none
  bad : Bool := false
  ending : Option StEnding := none
  ev : CvtEv := {}
  /-- the lines that LAST inputs have read -/
  last : List Nat := []
deriving Repr

/-- Execute a descriptor with an ending that is known beforehand, where there is one (R198, R199). -/
def stExecute (c : StCtx) (forced : Option StEnding) (s : State) : StDone :=
  let total := ctxTotal c
  let v0 := evalTo c forced s
  let end0 := firstEnding v0.seen.ending forced
  let out (e : Option StEnding) : Nat := match e with | some n => n.elem | none => total
  let v1 := if end0.isSome then evalTo c end0 s else v0
  if v1.seen.wait.isSome then { s := v1.seen.s, wait := v1.seen.wait }
  else
    let w1 := emitTo c (out end0) v1
    if w1.1.wait.isSome then { s := w1.1.s, wait := w1.1.wait }
    else match w1.1.ending with
      | none => { s := w1.1.s, bad := v1.bad || w1.1.bad, ending := end0, ev := v1.ev.add w1.2, last := v1.seen.last }
      | some n =>
        let v2 := evalTo c (some n) s
        let w2 := emitTo c n.elem v2
        { s := refuseAgain c n w2.1.s, bad := v2.bad || w2.1.bad, ending := some n, ev := v2.ev.add w2.2, last := v2.seen.last }

/-! ### Completion (R199, R204 to R210) -/

/-- Bytes per element, times 32, of a stored format. -/
def rateBytes (f : Fmt) : Nat := 4 * f.width + b2n f.blockScaled
/-- The element rate of a descriptor (R205). -/
def stRate (c : StCtx) : Nat :=
  let rl := ((c.ins.filter fun r => r.kind = 0 ∧ r.bcast = 0 ∧ !r.bits).map fun r => rateBytes r.fmt).sum
  let ra := ((c.ins.filter fun r => r.kind = 3).map fun r => afmtBytes (recBind r).afmt).sum
  let wl := ((c.outs.filter fun r => r.kind = 0 ∧ r.bcast = 0).map fun r => rateBytes r.fmt).sum
  let cut (m n d : Nat) : Nat := if d = 0 then m else min m (n / d)
  cut (cut (cut (wprecLanes (stWprec c.x)) 65536 rl) 512 ra) 32768 wl

/-- The request of a deferred access, with its element and stream. -/
def waitReq (s : State) (c : StCtx) (w : StWait) : Packet × Nat × Nat :=
  let own := tileStation s c.t
  let board (line : Nat) : Nat := match lineSet s line with | some j => tileStation s (setTile s j) | none => own
  let q : Packet := { tag := BitVec.ofNat 7 c.part, srcStn := BitVec.ofNat 11 own }
  match w with
  | .remote tgt a i j =>
    ({ q with opcode := if j < 4 then 1 else 2, dstStn := BitVec.ofNat 11 (tileStation s tgt), dstUnit := BitVec.ofNat 32 tgt, addr := BitVec.ofNat 64 a }, i, j)
  | .load h A i j =>
    ({ q with opcode := 3, dstStn := BitVec.ofNat 11 (board A), dstUnit := BitVec.ofNat 32 c.t, addr := BitVec.ofNat 64 (128 * A), hint := BitVec.ofNat 2 h }, i, j)
  | .store h a i j =>
    ({ q with opcode := 4, dstStn := BitVec.ofNat 11 (board ((ctxBst s c + a) / 128)), dstUnit := BitVec.ofNat 32 c.t, addr := BitVec.ofNat 64 (ctxBst s c + a), hint := BitVec.ofNat 2 h }, i, j)
/-- An access of a descriptor is deferred (R198): its target keeps what the request made it do, the request holds one transaction entry from its first send on
(R340, R341), and nothing else of the attempt stands. -/
def stDefer (c : StCtx) (w : StWait) (s : State) : State :=
  let own := tileStation s c.t
  let r := waitReq s c w
  let x := match stEntryNi s c.t c.e.seq with | some e => e.1 | none => freeTxid s own
  let first := match stEntryNi s c.t c.e.seq with | some e => e.2.first | none => s.tick
  let s := match w with
    | .remote tgt a _ _ => (remoteAnswer s c tgt a).1
    | .load h A _ _ => (bstReadLine c.part h A s).1
    | .store h a _ _ => (bstWrite c.part h (ctxBst s c + a) [0] false s).1
  putEntry own x { req := { r.1 with txid := BitVec.ofNat 16 x, reqEpoch := BitVec.ofNat 8 (niOf s own).epoch }, first := first, deferred := true, use := .stream c.e.seq r.2.1 r.2.2 } s
/-- A descriptor sends nothing: its access waits to be retried, or needs an entry and the NI takes no request from its tile (R340, R347). -/
def stStalled (s : State) (c : StCtx) : Bool :=
  match stEntryNi s c.t c.e.seq with
  | some e => e.2.deferred
  | none => (c.ins ++ c.outs).any (fun r => r.kind = 1 ∨ r.kind = 2) && niStalled s (tileStation s c.t)
/-- The entry of a descriptor that completes is free. -/
def stFreeNi (t seq : Nat) (s : State) : State := match stEntryNi s t seq with | some e => freeEntry (tileStation s t) e.1 s | none => s

/-- A solver sequencer's descriptor at the head of the stream queue completes (R202, R204, R282 to R284), with an ending forced on it where there is one, at an element of the
rectangle that the spec does not give. -/
def stFinishSolv (t stall : Nat) (forced : Option StEnding) (o : Nat × Nat) (e : StEntry) (s : State) : State :=
  let s := bump (aStrmStall t) stall (aStrmStatus t) 13 s
  let z := match forced with
    | some n => (stick (aStrmStatus t) 11 (stFaultInfo t n.cause (8 + n.stream) n.elem (2 ^ 22) e.seq s), n.code, Config.seqBusy e.ws)
    | none => seqStream o t e s
  seqRefill (seqEnded o t z.2.1 0 (decide (z.2.1 = cReset)) (seqEndSt t z.2.2 e z.2.1 z.1))

/-- The head descriptor executes and completes, with an ending forced on it where there is one; STRM_BUSY then counts the access groups up to the ending element (log entry 16). -/
def stFinish (t stall : Nat) (forced : Option StEnding) (net : StreamNet) (s : State) : State :=
  match (tile s t).stq with
  | e :: _ =>
    if !(tile s t).stRun ∨ engineGated s then s
    else match e.solv with
    | some o => stFinishSolv t stall forced o e (packetsHurt (tileStation s t) net.hurt s)
    | none =>
      let c := { stCtx s t e with forced := forced.isSome, ue := net.ue }
      if forced.isNone && stStalled s c then s
      else
      let s := packetsHurt (tileStation s t) net.hurt s
      let d := stExecute c forced s
      match d.wait with
      | some w => stDefer c w s
      | none =>
        let accBad := c.ins.any fun r => r.kind = 3 ∧ ((c.e.slot.getD {}).held ∨ (c.e.slot.getD {}).poison)
        let bad := d.bad || accBad
        let s := stFreeNi t e.seq (recordCvt t d.ev d.s)
        let s := if (isStoch (stRnd c.x) e.cvt ∧ !copies c) ∨ (c.gs.any fun g => g.op = 0x2B) then noteSeed c.part (stSeed c.x) s else s
        let s := d.last.eraseDups.foldl (fun s A => endLast A s) s
        let made := match d.ending with | some n => ceilDiv (n.elem + 1) (stRate c) | none => ceilDiv (ctxTotal c) (stRate c)
        let s := bump (aStrmBusy t) made (aStrmStatus t) 12 s
        let s := bump (aStrmStall t) stall (aStrmStatus t) 13 s
        let s := if bad then stick (aStrmStatus t) 10 s else s
        let s := match d.ending with
          | some n => stick (aStrmStatus t) 11 (stFaultInfo t n.cause n.stream n.elem (ctxCols c) e.seq s)
          | none => s
        seqRefill (stComplete t e (match d.ending with | some n => n.code | none => if bad then cPoison else cDone) s)
  | [] => s

/-- A descriptor that is not executed completes, and the status bits of its fault are set then (R190, R191, R635; log entry 16). -/
def stSkipped (t : Nat) (s : State) : State :=
  match (tile s t).stq with
  | e :: _ =>
    match e.skip, engineGated s with
    | some code, false =>
      let s := if e.cause = 1 then stick (aStrmStatus t) 8 (stFaultInfo t 1 e.stream 0 1 e.seq s)
        else if e.cause = 2 then stick (aStrmStatus t) 9 (stFaultInfo t 2 e.stream 0 1 e.seq s)
        else if code = cPoison then stick (aStrmStatus t) 10 s else s
      let s := if e.fmtFault then stick (aTileCvtStatus t) 3 s else s
      seqRefill (stComplete t e code s)
    | _, _ => s
  | [] => s

/-- STRM_DESC_START (R206, R166, R607): the head descriptor makes its first access once no earlier matrix descriptor on its slot remains; the content of the slot
that it reads is fixed then (R168). -/
def stStart (t : Nat) (parity : Bool) (s : State) : State :=
  match (tile s t).stq, (tile s t).stRun with
  | e :: _, false =>
    if engineGated s then s
    else if parity then
      let s := seqRefill (dropRead t e (modTile t (fun y => { y with stq := y.stq.drop 1 }) s))
      match ownerOf s t with | some p => parityFault p 2 (tileStation s t) t s | none => s
    else if e.skip.isSome then s
    else
      let held := (tile s t).acc.any fun a =>
        a.2.order.contains (.rd e.seq) && (a.2.order.takeWhile fun o => decide (o ≠ .rd e.seq)).any fun o => match o with | .mx _ _ => true | _ => false
      let content := ((stIns (stBits e.ws) e.chain).find? fun r => r.kind = 3).map fun r => accSlot s t (recSlot r)
      if held then s else modTile t (fun y => { y with stRun := true, stq := { e with slot := content } :: y.stq.drop 1 }) s
  | _, _ => s

/-- The ending that a fault known during execution gives (R198). -/
def endingOf (x : StreamEnd) (stream elem : Nat) : StEnding :=
  match x with
  | .gather => { elem := elem, stream := stream, cause := 3, code := cPart }
  | .remoteRefused c => { elem := elem, stream := stream, cause := 4, code := if c = cOff then cOff else cPart }
  | .quota => { elem := elem, stream := stream, cause := 5, code := cQuota }
  | .timeout => { elem := elem, stream := stream, cause := 6, code := cTimeout, answered := true }
  | .remoteReset => { elem := elem, stream := stream, cause := 7, code := cReset, answered := true }

/-- STRM_DESC_START (R206). -/
def execStrmDescStart (t : Tile) (parity : Bool) (s : State) : Host.Outcome State Fault Refusal := .next (stStart t parity s)

/-- STRM_DESC_DONE (R206): the descriptor completes; `run` has the tclk it waited beyond R206, and what its packets met on their way (R351). -/
def execStrmDescDone (t : Tile) (run : StreamRun) (s : State) : Host.Outcome State Fault Refusal := .next (stFinish t run.stall none run.net s)

/-- STRM_DESC_FAULT_END (R199): a fault ends the descriptor at an element of its rectangle; of a sequencer's descriptor the spec gives no rectangle. Its waits up to then
count in STRM_STALL (log entry 25). -/
def execStrmDescFaultEnd (t : Tile) (ending : StreamEnd) (place : StreamPlace) (run : StreamRun) (s : State) : Host.Outcome State Fault Refusal :=
  .next (match (tile s t).stq with
    | e :: _ => if e.solv.isSome ∨ place.elem < ctxTotal (stCtx s t e) then stFinish t run.stall (some (endingOf ending place.stream place.elem)) run.net s else s
    | [] => s)

/-- STRM_SKIP_DONE (R635). -/
def execStrmSkipDone (t : Tile) (s : State) : Host.Outcome State Fault Refusal := .next (stSkipped t s)

end Sys2Proof.Machine
end

