-- ==== Sys2Proof/Machine/CoreSystem.lean ====
section
/-!
DEFINITION. Machine/CoreSystem.lean: system instructions, descriptor issue and interrupts of the control core (R212, R225 to R228, R235 to R240).
-/
namespace Sys2Proof.Machine

/-! ### System registers (R212) -/

/-- The BAR0 offset of system register `n` of tile `t`. -/
def sysOff (t n : Nat) : Nat := 0x2000000 + 0x4000 * t + 8 * n
/-- A register lies at the number. -/
def sysExists (t n : Nat) : Bool := (regSpecAt (sysOff t n)).isSome
/-- Some field of the register can be written. -/
def sysWritable (t n : Nat) : Bool :=
  match regSpecAt (sysOff t n) with
  | some r => r.rw != 0 || r.w1c != 0 || r.wo != 0
  | none => false

/-- A post of tile `t` leaves for a shared engine (R249, R422, R479); the value names block and die. -/
def sendPost (t : Nat) (k : PostKind) (v : Word) (s : State) : State :=
  { s with posts := s.posts ++ [{ tile := t, kind := k, off := 64 * wfld v 0 19, die := if k = .solv then wfld v 19 2 else 0, step := (tile s t).step }] }

/-- The effect of a SYSW: the access codes, and what the write sets off. -/
def sysWrite (t n : Nat) (v : Word) (s : State) : State :=
  let o := 8 * n
  if o = 0x310 then placeFrees t v s
  else if o = 0xa00 then sendPost t .solv v s
  else if o = 0xa08 then sendPost t .coll v s
  else if o = 0xa10 then modCore t (fun c => { c with post := some { off := 64 * wfld v 0 19 } }) s
  else if o = 0xa20 then (if v.getLsbD 0 then stepAdvance t s else s)
  else if o = 0xa28 then sendPost t .dig v s
  else if o = 0xa30 then hostIrqOp t (wfld v 0 5) s
  else writeStored (sysOff t n) v s

/-- SYSR: D = system register A[10:0] (R212, R219). -/
def execSysr (t : Tile) (d a : GReg) (s : State) : Host.Outcome State Fault Refusal :=
  .next (onWord (.sysr t d a) t (issue t (fun s =>
    let n := wfld (getG s t a) 0 11
    if sysExists t n then nextPc t (setG t d (readTileReg s t (8 * n)) s) else raiseExc t exSysreg 0 s)) s)

/-- SYSW: system register A[10:0] takes B under its access codes (R12, R212). -/
def execSysw (t : Tile) (a b : GReg) (s : State) : Host.Outcome State Fault Refusal :=
  .next (onWord (.sysw t a b) t (issue t (fun s =>
    let n := wfld (getG s t a) 0 11
    if sysWritable t n then sysWrite t n (getG s t b) (nextPc t s) else raiseExc t exSysreg 0 s)) s)

/-- RETX: PC = TILE_EPC, EXL is cleared; a vector memory instruction there restarts at VX_RESUME.INDEX (R238). -/
def execRetx (t : Tile) (s : State) : Host.Outcome State Fault Refusal :=
  .next (onWord (.retx t) t (issue t (fun s =>
    modCore t (fun c => { c with resumed := true }) (setPc t (reg s (aTileEpc t)) (putB (aTileCoreStatus t) 0 false s)))) s)

/-- BREAK (R235). -/
def execBrk (t : Tile) (s : State) : Host.Outcome State Fault Refusal := .next (onWord (.brk t) t (issue t (raiseExc t exBreak 0)) s)

/-- ISYNC: every line of the instruction cache is invalidated (R217). -/
def execIsync (t : Tile) (s : State) : Host.Outcome State Fault Refusal :=
  .next (onWord (.isync t) t (issue t (fun s => nextPc t (modCore t (fun c => { c with icache := [] }) s))) s)

/-- WNEXT: the work item ends; the core waits for the next one, or halts when its partition is being stopped (R228, R68). -/
def execWnext (t : Tile) (d : GReg) (s : State) : Host.Outcome State Fault Refusal :=
  .next (onWord (.wnext t d) t (issue t (fun s =>
    let stop := match ownerOf s t with | some p => (part s p).stopping | none => true
    modCore t (fun c => { c with
      item := none
      run := if stop then .stopped else .waiting d }) s)) s)

/-- The code that a record of issued descriptors holds for a sequence number: `none` where it names none, 0xFF (R227). -/
def codeFor (l : List (Nat × Option Byte)) (q : Nat) : Option Byte :=
  match l.find? fun c => c.1 = q with
  | some c => c.2
  | none => some 0xFF
/-- A wait for a descriptor's completion: D takes its code; the core stalls while it is not complete (R227). -/
def waitOp (t : Tile) (d a : GReg) (l : CoreSt → List (Nat × Option Byte)) (s : State) : State :=
  issue t (fun s' =>
    match codeFor (l (core s' t)) (wfld (getG s' t a) 0 16) with
    | some c => nextPc t (setG t d (c.setWidth 64) s')
    | none => s') s
/-- WAITM (R227). -/
def execWaitm (t : Tile) (d a : GReg) (s : State) : Host.Outcome State Fault Refusal := .next (onWord (.waitm t d a) t (waitOp t d a (fun c => c.mxCodes)) s)
/-- WAITS (R227). -/
def execWaits (t : Tile) (d a : GReg) (s : State) : Host.Outcome State Fault Refusal := .next (onWord (.waits t d a) t (waitOp t d a (fun c => c.stCodes)) s)
/-- WAITALL: the core stalls while either queue holds a descriptor that it issued (R227). -/
def execWaitall (t : Tile) (s : State) : Host.Outcome State Fault Refusal :=
  .next (onWord (.waitall t) t (issue t (fun s' => if !(tile s' t).mxq.any (·.solv.isNone) ∧ !(tile s' t).stq.any (·.solv.isNone) then nextPc t s' else s')) s)

/-- MXI: the matrix descriptor A, B is issued; D takes its sequence number; the core stalls while the queue is full (R225). -/
def execMxi (t : Tile) (d a b : GReg) (s : State) : Host.Outcome State Fault Refusal :=
  .next (onWord (.mxi t d a b) t (issue t (fun s' =>
    if 8 ≤ (tile s' t).mxq.length then s'
    else
      let seq := (tile s' t).mxSeq
      nextPc t (setG t d (BitVec.ofNat 64 seq) (mxEnter t (getG s' t a) (getG s' t b) s')))) s)

/-- STI: the stream descriptor in A to A + 3 is issued; D takes its sequence number; the core stalls while the queue is full (R226). -/
def execSti (t : Tile) (d a : GReg) (s : State) : Host.Outcome State Fault Refusal :=
  .next (onWord (.sti t d a) t (issue t (fun s' =>
    if a.val % 4 ≠ 0 ∨ a = 0 then raiseExc t exIllegal 0 s'
    else if 16 ≤ (tile s' t).stq.length then s'
    else
      let seq := (tile s' t).stSeq
      nextPc t (setG t d (BitVec.ofNat 64 seq) (stEnter t ((List.range 4).map fun j => getG s' t (Fin.ofNat 32 (a.val + j))) s')))) s)

/-! ### Interrupts (R235, R239) -/

/-- The code of the pending interrupt that is taken first (R239). -/
def pendingIrq (s : State) (t : Nat) : Option Nat :=
  let st := aStrmStatus t
  if getB s (aTileCoreStatus t) 16 then some 0x20
  else if getB s (aTileCoreStatus t) 17 then some 0x21
  else if (getB s (aTileCvt t) 2 && getB s (aTileCvtStatus t) 0) || (getB s (aTileCvt t) 3 && getB s (aTileCvtStatus t) 4) then some 0x22
  else if getB s (aAccStatus t) 12 && getB s (aAccStatus t) 8 then some 0x23
  else if getB s st 14 && (getB s st 8 || getB s st 9 || getB s st 11) then some 0x24
  else none

/-- INTERRUPT_ENTRY: at an instruction boundary, with IE set and EXL clear, the pending interrupt of lowest code is taken (R236, R239). -/
def execInterruptEntry (t : Tile) (s : State) : Host.Outcome State Fault Refusal :=
  .next (if canIssue s t ∧ getB s (aTileCoreStatus t) 1 ∧ !getB s (aTileCoreStatus t) 0 then
      match pendingIrq s t with
      | some c => enterHandler t c false (getPc s t) 0 s
      | none => s
    else s)

end Sys2Proof.Machine
end

