-- ==== Sys2Proof/Machine/CoreVector.lean ====
section
/-!
DEFINITION. Machine/CoreVector.lean: the vector instructions that make no memory access (R229 to R233).
-/
namespace Sys2Proof.Machine

/-- Elements with the inactive ones kept (R231). -/
def maskElems (m : Word) (old new : List Nat) : List Nat := new.mapIdx fun i x => if active m i then x else old.getD i 0

/-- Mask bits with the inactive ones kept (R230). -/
def maskBits (m old : Word) (n : Nat) (f : Nat → Bool) : Word :=
  (List.range n).foldl (fun (x : Word) i => if active m i then wput x i 1 (b2n (f i)) else x) old

/-- An instruction that a class forbids raises ILLEGAL (R219). -/
def issueLegal (t : Tile) (ok : Bool) (f : State → State) (s : State) : State :=
  issue t (fun s => if ok then nextPc t (f s) else raiseExc t exIllegal 0 s) s

/-- An element-by-element instruction: `f` of the elements of Va, Vb and Vd. -/
def vecOp (t : Tile) (vd va vb : VReg) (m : MReg) (sew : Sew) (ok : Bool) (f : Nat → Nat → Nat → Nat) (s : State) : State :=
  issueLegal t ok (fun s =>
    let w := sewBits sew
    let d := elemsOf w (getV s t vd)
    let r := (List.range (512 / w)).map fun i => f (elemOf w (getV s t va) i) (elemOf w (getV s t vb) i) (d.getD i 0)
    setV t vd (ofElems w (maskElems (getM s t m) d r)) s) s

/-- An integer instruction (R232: modulo 2^SEW). -/
def vintOp (t : Tile) (vd va vb : VReg) (m : MReg) (sew : Sew) (f : Nat → Nat → Nat → Nat) (s : State) : State :=
  vecOp t vd va vb m sew true (fun a b _ => f (sewBits sew) a b) s

/-- A compare: bit i of VM(Vd[2:0]) takes the result of active element i; Vd[4:3] must be 0 (R230). -/
def vcmpOp (t : Tile) (vd va vb : VReg) (m : MReg) (sew : Sew) (ok : Bool) (f : Nat → Nat → Bool) (s : State) : State :=
  issueLegal t (ok && decide (vd.val < 8)) (fun s =>
    let w := sewBits sew
    let k : MReg := Fin.ofNat 8 vd.val
    setM t k (maskBits (getM s t m) (getM s t k) (512 / w) fun i => f (elemOf w (getV s t va) i) (elemOf w (getV s t vb) i)) s) s

/-- The widths of VFP (R230). -/
def vfpOk (sew : Sew) : Bool := sew = .s32 || sew = .s64
/-- The code of a value rounded to an element width (R233). -/
def vfpEnc (sew : Sew) (v : Val) : Nat := ((sewFloat sew).encode false .rne v).code
/-- The value of an element. -/
def vfpDec (sew : Sew) (x : Nat) : Val := (sewFloat sew).decode x
/-- A floating-point instruction (R233). -/
def vfpOp (t : Tile) (vd va vb : VReg) (m : MReg) (sew : Sew) (f : Val → Val → Val → Val) (s : State) : State :=
  vecOp t vd va vb m sew (vfpOk sew) (fun a b d => vfpEnc sew (f (vfpDec sew a) (vfpDec sew b) (vfpDec sew d))) s

/-- A shift of an element; the spec states no result for an amount of the width or more (log entry 9). -/
def vshift (kind w a b : Nat) : Nat :=
  if w ≤ b then Config.vecShift kind w a b
  else if kind = 0 then a * 2 ^ b
  else if kind = 1 then a / 2 ^ b
  else wrapTo w (signedOf w a / 2 ^ b)

/-- VADD (R230, R232). -/
def execVadd (t : Tile) (vd va vb : VReg) (m : MReg) (sew : Sew) (s : State) : Host.Outcome State Fault Refusal :=
  .next (onWord (.vadd t vd va vb m sew) t (vintOp t vd va vb m sew (fun _ a b => a + b)) s)
/-- VSUB (R230, R232). -/
def execVsub (t : Tile) (vd va vb : VReg) (m : MReg) (sew : Sew) (s : State) : Host.Outcome State Fault Refusal :=
  .next (onWord (.vsub t vd va vb m sew) t (vintOp t vd va vb m sew (fun w a b => a + 2 ^ w - b)) s)
/-- VMUL (R230, R232). -/
def execVmul (t : Tile) (vd va vb : VReg) (m : MReg) (sew : Sew) (s : State) : Host.Outcome State Fault Refusal :=
  .next (onWord (.vmul t vd va vb m sew) t (vintOp t vd va vb m sew (fun _ a b => a * b)) s)
/-- VMIN (R230, R232). -/
def execVmin (t : Tile) (vd va vb : VReg) (m : MReg) (sew : Sew) (s : State) : Host.Outcome State Fault Refusal :=
  .next (onWord (.vmin t vd va vb m sew) t (vintOp t vd va vb m sew (fun w a b => if signedOf w b < signedOf w a then b else a)) s)
/-- VMINU (R230, R232). -/
def execVminu (t : Tile) (vd va vb : VReg) (m : MReg) (sew : Sew) (s : State) : Host.Outcome State Fault Refusal :=
  .next (onWord (.vminu t vd va vb m sew) t (vintOp t vd va vb m sew (fun _ a b => if b < a then b else a)) s)
/-- VMAX (R230, R232). -/
def execVmax (t : Tile) (vd va vb : VReg) (m : MReg) (sew : Sew) (s : State) : Host.Outcome State Fault Refusal :=
  .next (onWord (.vmax t vd va vb m sew) t (vintOp t vd va vb m sew (fun w a b => if signedOf w a < signedOf w b then b else a)) s)
/-- VMAXU (R230, R232). -/
def execVmaxu (t : Tile) (vd va vb : VReg) (m : MReg) (sew : Sew) (s : State) : Host.Outcome State Fault Refusal :=
  .next (onWord (.vmaxu t vd va vb m sew) t (vintOp t vd va vb m sew (fun _ a b => if a < b then b else a)) s)
/-- VAND (R230, R232). -/
def execVand (t : Tile) (vd va vb : VReg) (m : MReg) (sew : Sew) (s : State) : Host.Outcome State Fault Refusal :=
  .next (onWord (.vand t vd va vb m sew) t (vintOp t vd va vb m sew (fun _ a b => a &&& b)) s)
/-- VOR (R230, R232). -/
def execVor (t : Tile) (vd va vb : VReg) (m : MReg) (sew : Sew) (s : State) : Host.Outcome State Fault Refusal :=
  .next (onWord (.vor t vd va vb m sew) t (vintOp t vd va vb m sew (fun _ a b => a ||| b)) s)
/-- VXOR (R230, R232). -/
def execVxor (t : Tile) (vd va vb : VReg) (m : MReg) (sew : Sew) (s : State) : Host.Outcome State Fault Refusal :=
  .next (onWord (.vxor t vd va vb m sew) t (vintOp t vd va vb m sew (fun _ a b => a ^^^ b)) s)
/-- VSLL (R230, R232). -/
def execVsll (t : Tile) (vd va vb : VReg) (m : MReg) (sew : Sew) (s : State) : Host.Outcome State Fault Refusal :=
  .next (onWord (.vsll t vd va vb m sew) t (vintOp t vd va vb m sew (fun w a b => vshift 0 w a b)) s)
/-- VSRL (R230, R232). -/
def execVsrl (t : Tile) (vd va vb : VReg) (m : MReg) (sew : Sew) (s : State) : Host.Outcome State Fault Refusal :=
  .next (onWord (.vsrl t vd va vb m sew) t (vintOp t vd va vb m sew (fun w a b => vshift 1 w a b)) s)
/-- VSRA (R230, R232). -/
def execVsra (t : Tile) (vd va vb : VReg) (m : MReg) (sew : Sew) (s : State) : Host.Outcome State Fault Refusal :=
  .next (onWord (.vsra t vd va vb m sew) t (vintOp t vd va vb m sew (fun w a b => vshift 2 w a b)) s)
/-- VCMPEQ (R230). -/
def execVcmpeq (t : Tile) (vd va vb : VReg) (m : MReg) (sew : Sew) (s : State) : Host.Outcome State Fault Refusal :=
  .next (onWord (.vcmpeq t vd va vb m sew) t (vcmpOp t vd va vb m sew true (fun a b => decide (a = b))) s)
/-- VCMPLT (R230). -/
def execVcmplt (t : Tile) (vd va vb : VReg) (m : MReg) (sew : Sew) (s : State) : Host.Outcome State Fault Refusal :=
  .next (onWord (.vcmplt t vd va vb m sew) t (vcmpOp t vd va vb m sew true (fun a b => decide (signedOf (sewBits sew) a < signedOf (sewBits sew) b))) s)
/-- VCMPLTU (R230). -/
def execVcmpltu (t : Tile) (vd va vb : VReg) (m : MReg) (sew : Sew) (s : State) : Host.Outcome State Fault Refusal :=
  .next (onWord (.vcmpltu t vd va vb m sew) t (vcmpOp t vd va vb m sew true (fun a b => decide (a < b))) s)
/-- VFADD (R230, R233). -/
def execVfadd (t : Tile) (vd va vb : VReg) (m : MReg) (sew : Sew) (s : State) : Host.Outcome State Fault Refusal :=
  .next (onWord (.vfadd t vd va vb m sew) t (vfpOp t vd va vb m sew (fun a b _ => addV a b)) s)
/-- VFSUB (R230, R233). -/
def execVfsub (t : Tile) (vd va vb : VReg) (m : MReg) (sew : Sew) (s : State) : Host.Outcome State Fault Refusal :=
  .next (onWord (.vfsub t vd va vb m sew) t (vfpOp t vd va vb m sew (fun a b _ => subV a b)) s)
/-- VFMUL (R230, R233). -/
def execVfmul (t : Tile) (vd va vb : VReg) (m : MReg) (sew : Sew) (s : State) : Host.Outcome State Fault Refusal :=
  .next (onWord (.vfmul t vd va vb m sew) t (vfpOp t vd va vb m sew (fun a b _ => mulV a b)) s)
/-- VFFMA (R230, R233). -/
def execVffma (t : Tile) (vd va vb : VReg) (m : MReg) (sew : Sew) (s : State) : Host.Outcome State Fault Refusal :=
  .next (onWord (.vffma t vd va vb m sew) t (vfpOp t vd va vb m sew (fun a b d => fmaV a b d)) s)
/-- VFMIN (R230, R233). -/
def execVfmin (t : Tile) (vd va vb : VReg) (m : MReg) (sew : Sew) (s : State) : Host.Outcome State Fault Refusal :=
  .next (onWord (.vfmin t vd va vb m sew) t (vfpOp t vd va vb m sew (fun a b _ => minV a b)) s)
/-- VFMAX (R230, R233). -/
def execVfmax (t : Tile) (vd va vb : VReg) (m : MReg) (sew : Sew) (s : State) : Host.Outcome State Fault Refusal :=
  .next (onWord (.vfmax t vd va vb m sew) t (vfpOp t vd va vb m sew (fun a b _ => maxV a b)) s)
/-- VFCMPEQ (R230, R233). -/
def execVfcmpeq (t : Tile) (vd va vb : VReg) (m : MReg) (sew : Sew) (s : State) : Host.Outcome State Fault Refusal :=
  .next (onWord (.vfcmpeq t vd va vb m sew) t (vcmpOp t vd va vb m sew (vfpOk sew) (fun a b => eqV (vfpDec sew a) (vfpDec sew b))) s)
/-- VFCMPLT (R230, R233). -/
def execVfcmplt (t : Tile) (vd va vb : VReg) (m : MReg) (sew : Sew) (s : State) : Host.Outcome State Fault Refusal :=
  .next (onWord (.vfcmplt t vd va vb m sew) t (vcmpOp t vd va vb m sew (vfpOk sew) (fun a b => ltV (vfpDec sew a) (vfpDec sew b))) s)

/-- An integer element as signed or unsigned. -/
def intOf (sg : Bool) (w x : Nat) : Int := if sg then signedOf w x else (x % 2 ^ w : Nat)

/-- V(d + 1), for an even d. -/
def nextV (vd : VReg) : VReg := Fin.ofNat 32 (vd.val + 1)

/-- VWIDE (R232): products of 2 * SEW bits, the first half to Vd and the rest to V(d + 1); no mask, no 64-bit source, an even Vd (R231). -/
def vwideOp (add : Bool) (t : Tile) (vd va vb : VReg) (m : MReg) (sew : Sew) (sa sb : Bool) (s : State) : State :=
  issueLegal t (decide (m = 0) && decide (sew ≠ .s64) && decide (vd.val % 2 = 0)) (fun s =>
    let w := sewBits sew
    let h := 256 / w
    let prod := fun i => wrapTo (2 * w) (intOf sa w (elemOf w (getV s t va) i) * intOf sb w (elemOf w (getV s t vb) i))
    let old := fun i => if add then (if i < h then elemOf (2 * w) (getV s t vd) i else elemOf (2 * w) (getV s t (nextV vd)) (i - h)) else 0
    let lo := (List.range h).map fun i => prod i + old i
    let hi := (List.range h).map fun i => prod (h + i) + old (h + i)
    setV t (nextV vd) (ofElems (2 * w) hi) (setV t vd (ofElems (2 * w) lo) s)) s
/-- VWIDE_MUL (R232). -/
def execVwideMul (t : Tile) (vd va vb : VReg) (m : MReg) (sew : Sew) (sa sb : Bool) (s : State) : Host.Outcome State Fault Refusal :=
  .next (onWord (.vwideMul t vd va vb m sew sa sb) t (vwideOp false t vd va vb m sew sa sb) s)
/-- VWIDE_MULADD (R232). -/
def execVwideMuladd (t : Tile) (vd va vb : VReg) (m : MReg) (sew : Sew) (sa sb : Bool) (s : State) : Host.Outcome State Fault Refusal :=
  .next (onWord (.vwideMuladd t vd va vb m sew sa sb) t (vwideOp true t vd va vb m sew sa sb) s)

/-- VDOT_INT8 (R232): INT32 lane j adds the four products of bytes 4j to 4j + 3, clamped with ISAT. -/
def execVdotInt8 (t : Tile) (vd va vb : VReg) (m : MReg) (sew : Sew) (sa sb : Bool) (s : State) : Host.Outcome State Fault Refusal :=
  .next (onWord (.vdotInt8 t vd va vb m sew sa sb) t (issueLegal t (decide (m = 0) && decide (sew = .s8)) (fun s =>
    let lane := fun j =>
      signedOf 32 (elemOf 32 (getV s t vd) j) +
        ((List.range 4).map fun i => intOf sa 8 (elemOf 8 (getV s t va) (4 * j + i)) * intOf sb 8 (elemOf 8 (getV s t vb) (4 * j + i))).sum
    let zs := (List.range 16).map lane
    let cl := fun (z : Int) => clampI (-2147483648) 2147483647 z
    let s := if zs.any (fun z => decide (cl z ≠ z)) then stick (aVxStatus t) 0 s else s
    setV t vd (ofElems 32 (zs.map fun z => wrapTo 32 (cl z))) s)) s)

/-- VDOT of two 16-bit floating products into FP32 (R232, R233): one rounding of the exact sum. -/
def vdotFp (g : FloatFmt) (t : Tile) (vd va vb : VReg) (m : MReg) (sew : Sew) (s : State) : State :=
  issueLegal t (decide (m = 0) && decide (sew = .s16)) (fun s =>
    let p := fun i => mulV (g.decode (elemOf 16 (getV s t va) i)) (g.decode (elemOf 16 (getV s t vb) i))
    let r := (List.range 16).map fun j =>
      vfpEnc .s32 (addV (addV (p (2 * j)) (p (2 * j + 1))) (vfpDec .s32 (elemOf 32 (getV s t vd) j)))
    setV t vd (ofElems 32 r) s) s
/-- VDOT_BF16 (R232). -/
def execVdotBf16 (t : Tile) (vd va vb : VReg) (m : MReg) (sew : Sew) (s : State) : Host.Outcome State Fault Refusal :=
  .next (onWord (.vdotBf16 t vd va vb m sew) t (vdotFp fmtBf16 t vd va vb m sew) s)
/-- VDOT_FP16 (R232). -/
def execVdotFp16 (t : Tile) (vd va vb : VReg) (m : MReg) (sew : Sew) (s : State) : Host.Outcome State Fault Refusal :=
  .next (onWord (.vdotFp16 t vd va vb m sew) t (vdotFp fmtFp16 t vd va vb m sew) s)

/-- VBCAST: Ga to every active element (R230, R231). -/
def execVbcast (t : Tile) (vd : VReg) (a : GReg) (m : MReg) (sew : Sew) (s : State) : Host.Outcome State Fault Refusal :=
  .next (onWord (.vbcast t vd a m sew) t (issueLegal t true (fun s =>
    let w := sewBits sew
    let d := elemsOf w (getV s t vd)
    setV t vd (ofElems w (maskElems (getM s t m) d (d.map fun _ => (getG s t a).toNat))) s)) s)

/-- VINS: Ga into element Gb[5:0], if it is active and exists (R230, R231). -/
def execVins (t : Tile) (vd : VReg) (a b : GReg) (m : MReg) (sew : Sew) (s : State) : Host.Outcome State Fault Refusal :=
  .next (onWord (.vins t vd a b m sew) t (issueLegal t true (fun s =>
    let w := sewBits sew
    let k := (getG s t b).toNat % 64
    let d := elemsOf w (getV s t vd)
    if active (getM s t m) k then setV t vd (ofElems w (d.set k (getG s t a).toNat)) s else s)) s)

/-- VEXT: element Gb[5:0] of Va to Gd, zero-extended (R230); the spec states no result for an element that the width has not (a free value, log entry 9). -/
def execVext (t : Tile) (d : GReg) (va : VReg) (b : GReg) (_m : MReg) (sew : Sew) (s : State) : Host.Outcome State Fault Refusal :=
  .next (onWord (.vext t d va b _m sew) t (issueLegal t true (fun s =>
    let w := sewBits sew
    let k := (getG s t b).toNat % 64
    if k < 512 / w then setG t d (BitVec.ofNat 64 (elemOf w (getV s t va) k)) s
    else setG t d (Config.free s.freeCount) (tickFree s))) s)

/-- VSLIDE: element i + Gb of Va to element i, 0 where there is none (R230); Gb is signed (log entry 9). -/
def execVslide (t : Tile) (vd va : VReg) (b : GReg) (m : MReg) (sew : Sew) (s : State) : Host.Outcome State Fault Refusal :=
  .next (onWord (.vslide t vd va b m sew) t (issueLegal t true (fun s =>
    let w := sewBits sew
    let d := elemsOf w (getV s t vd)
    let src := elemsOf w (getV s t va)
    let k := (getG s t b).toInt
    let r := (List.range (512 / w)).map fun (i : Nat) =>
      let j : Int := (i : Int) + k
      if 0 ≤ j ∧ j < (512 / w : Nat) then src.getD j.toNat 0 else 0
    setV t vd (ofElems w (maskElems (getM s t m) d r)) s)) s)

/-- A mask operation (R230). -/
def maskOp (t : Tile) (vd : MReg) (f : State → Word) (s : State) : State := issue t (fun s => nextPc t (setM t vd (f s) s)) s
/-- VMAND (R230). -/
def execVmand (t : Tile) (vd va vb : MReg) (s : State) : Host.Outcome State Fault Refusal := .next (onWord (.vmand t vd va vb) t (maskOp t vd (fun s => getM s t va &&& getM s t vb)) s)
/-- VMOR (R230). -/
def execVmor (t : Tile) (vd va vb : MReg) (s : State) : Host.Outcome State Fault Refusal := .next (onWord (.vmor t vd va vb) t (maskOp t vd (fun s => getM s t va ||| getM s t vb)) s)
/-- VMNOT (R230). -/
def execVmnot (t : Tile) (vd va : MReg) (s : State) : Host.Outcome State Fault Refusal := .next (onWord (.vmnot t vd va) t (maskOp t vd (fun s => ~~~ getM s t va)) s)

/-- A reduction of the active elements of Va in ascending order to element 0; every other element becomes 0 (R231, R233). -/
def vredOp (t : Tile) (vd va : VReg) (m : MReg) (sew : Sew) (ok : Bool) (f : List Nat → Nat) (s : State) : State :=
  issueLegal t ok (fun s =>
    let w := sewBits sew
    let xs := (List.range (512 / w)).filterMap fun i => if active (getM s t m) i then some (elemOf w (getV s t va) i) else none
    setV t vd (ofElems w [f xs]) s) s
/-- The floating sum of R233: rounding at each step, +0 for no element. -/
def rsumf (sew : Sew) (xs : List Nat) : Nat :=
  match xs with
  | [] => 0
  | x :: r => vfpEnc sew (r.foldl (fun a y => vfpDec sew (vfpEnc sew (addV a (vfpDec sew y)))) (vfpDec sew x))
/-- VRED_RSUM (R232, R233). -/
def execVredRsum (t : Tile) (vd va : VReg) (m : MReg) (sew : Sew) (s : State) : Host.Outcome State Fault Refusal :=
  .next (onWord (.vredRsum t vd va m sew) t (vredOp t vd va m sew true (fun xs => xs.sum)) s)
/-- VRED_RSUMF (R233). -/
def execVredRsumf (t : Tile) (vd va : VReg) (m : MReg) (sew : Sew) (s : State) : Host.Outcome State Fault Refusal :=
  .next (onWord (.vredRsumf t vd va m sew) t (vredOp t vd va m sew (vfpOk sew) (rsumf sew)) s)
/-- VRED_RMAX, signed; none active gives the most negative value (R233). -/
def execVredRmax (t : Tile) (vd va : VReg) (m : MReg) (sew : Sew) (s : State) : Host.Outcome State Fault Refusal :=
  .next (onWord (.vredRmax t vd va m sew) t (vredOp t vd va m sew true
    (fun xs => xs.foldl (fun a x => if signedOf (sewBits sew) a < signedOf (sewBits sew) x then x else a) (2 ^ (sewBits sew - 1)))) s)
/-- VRED_RMIN, signed; none active gives the most positive value (R233). -/
def execVredRmin (t : Tile) (vd va : VReg) (m : MReg) (sew : Sew) (s : State) : Host.Outcome State Fault Refusal :=
  .next (onWord (.vredRmin t vd va m sew) t (vredOp t vd va m sew true
    (fun xs => xs.foldl (fun a x => if signedOf (sewBits sew) x < signedOf (sewBits sew) a then x else a) (2 ^ (sewBits sew - 1) - 1))) s)

end Sys2Proof.Machine
end

