-- ==== Sys2Proof/Machine/CoreVectorMem.lean ====
section
/-!
DEFINITION. Machine/CoreVectorMem.lean: vector loads and stores, element by element, with the resume of R237 and R238 (R234).
-/
namespace Sys2Proof.Machine

/-- Issue a vector memory instruction: `f` takes the element to start at and whether the instruction resumes (R238). -/
def issueVmem (t : Tile) (f : Nat → Bool → State → State) (s : State) : State :=
  if canIssue s t then
    match fetch t s with
    | .inl s' => s'
    | .inr s' =>
      let r := (core s' t).resumed && vxValid s' t
      f (if r then vxIndex s' t else 0) r (modCore t (CoreSt.issued (wordNext s t)) s')
  else s

/-- A fault in element `e`: VX_RESUME takes e and VALID, then the exception (R237). -/
def vmemFault (t : Tile) (e code x : Nat) (s : State) : State :=
  raiseExc t code x (putB (aVxResume t) 8 true (putF (aVxResume t) 0 6 e s))

/-- The end of a vector memory instruction: VALID is cleared when a resumed one completes (R238). -/
def vmemDone (t : Tile) (resumed : Bool) (s : State) : State :=
  nextPc t (if resumed then putB (aVxResume t) 8 false s else s)

/-- The fault of element access at `x` (R234, R235). -/
def elemFault (s : State) (t n x : Nat) : Option Nat :=
  if tileW s t < x + n then some exRange else if x % n ≠ 0 then some exMisalign else none

/-- Load active elements in ascending order from element `i` on (R234, R237). -/
def vloadElems (t : Tile) (vd : VReg) (w : Nat) (m : Word) (addr : Nat → Nat) (resumed : Bool) : Nat → Nat → State → State
  | 0, _, s => vmemDone t resumed s
  | k + 1, i, s =>
    if active m i then
      let n := w / 8
      let x := addr i
      match elemFault s t n x with
      | some c => vmemFault t i c x s
      | none =>
        let y := pkgAddr t x
        let s' := touchRange 0 y n s
        if anyBad s y n then vmemFault t i exPoison x s'
        else
          let d := elemsOf w (getV s' t vd)
          vloadElems t vd w m addr resumed k (i + 1) (setV t vd (ofElems w (d.set i (leVal (memBytes s y n)))) s')
    else vloadElems t vd w m addr resumed k (i + 1) s

/-- Store active elements in ascending order from element `i` on (R234, R237, R302). -/
def vstoreElems (t : Tile) (w : Nat) (m : Word) (data : List Nat) (addr : Nat → Nat) (resumed : Bool) : Nat → Nat → State → State
  | 0, _, s => vmemDone t resumed s
  | k + 1, i, s =>
    if active m i then
      let n := w / 8
      let x := addr i
      match elemFault s t n x with
      | some c => vmemFault t i c x s
      | none =>
        let y := pkgAddr t x
        let s' := spWrite 0 y (leBytes n (data.getD i 0)) s
        if writePoisons s y n then vmemFault t i exPoison x s'
        else vstoreElems t w m data addr resumed k (i + 1) s'
    else vstoreElems t w m data addr resumed k (i + 1) s

/-- The addresses of the elements (R234), modulo 2^64. -/
def unitAddr (base : Word) (w i : Nat) : Nat := (base + BitVec.ofNat 64 (i * (w / 8))).toNat
def strideAddr (base stride : Word) (i : Nat) : Nat := (base + BitVec.ofNat 64 i * stride).toNat
def indexAddr (base : Word) (v : BitVec 512) (w i : Nat) : Nat := (base + BitVec.ofNat 64 (elemOf w v i)).toNat

/-- A vector load with the element addresses of `addr`. -/
def vldOp (t : Tile) (vd : VReg) (m : MReg) (sew : Sew) (addr : State → Nat → Nat) (s : State) : State :=
  issueVmem t (fun i0 r s => vloadElems t vd (sewBits sew) (getM s t m) (addr s) r (sewCount sew - i0) i0 s) s
/-- A vector store with the element addresses of `addr`. -/
def vstOp (t : Tile) (vd : VReg) (m : MReg) (sew : Sew) (addr : State → Nat → Nat) (s : State) : State :=
  issueVmem t (fun i0 r s =>
    vstoreElems t (sewBits sew) (getM s t m) (elemsOf (sewBits sew) (getV s t vd)) (addr s) r (sewCount sew - i0) i0 s) s

/-- VLD (R234). -/
def execVld (t : Tile) (vd : VReg) (a : GReg) (m : MReg) (sew : Sew) (s : State) : Host.Outcome State Fault Refusal :=
  .next (onWord (.vld t vd a m sew) t (vldOp t vd m sew (fun s i => unitAddr (getG s t a) (sewBits sew) i)) s)
/-- VLDS (R234). -/
def execVlds (t : Tile) (vd : VReg) (a b : GReg) (m : MReg) (sew : Sew) (s : State) : Host.Outcome State Fault Refusal :=
  .next (onWord (.vlds t vd a b m sew) t (vldOp t vd m sew (fun s i => strideAddr (getG s t a) (getG s t b) i)) s)
/-- VLDX (R234). -/
def execVldx (t : Tile) (vd : VReg) (a : GReg) (vb : VReg) (m : MReg) (sew : Sew) (s : State) : Host.Outcome State Fault Refusal :=
  .next (onWord (.vldx t vd a vb m sew) t (vldOp t vd m sew (fun s i => indexAddr (getG s t a) (getV s t vb) (sewBits sew) i)) s)
/-- VST (R234). -/
def execVst (t : Tile) (vd : VReg) (a : GReg) (m : MReg) (sew : Sew) (s : State) : Host.Outcome State Fault Refusal :=
  .next (onWord (.vst t vd a m sew) t (vstOp t vd m sew (fun s i => unitAddr (getG s t a) (sewBits sew) i)) s)
/-- VSTS (R234). -/
def execVsts (t : Tile) (vd : VReg) (a b : GReg) (m : MReg) (sew : Sew) (s : State) : Host.Outcome State Fault Refusal :=
  .next (onWord (.vsts t vd a b m sew) t (vstOp t vd m sew (fun s i => strideAddr (getG s t a) (getG s t b) i)) s)
/-- VSTX (R234). -/
def execVstx (t : Tile) (vd : VReg) (a : GReg) (vb : VReg) (m : MReg) (sew : Sew) (s : State) : Host.Outcome State Fault Refusal :=
  .next (onWord (.vstx t vd a vb m sew) t (vstOp t vd m sew (fun s i => indexAddr (getG s t a) (getV s t vb) (sewBits sew) i)) s)

end Sys2Proof.Machine
end

