-- ==== Sys2Proof/Machine/Dispatcher.lean ====
section
/-!
DEFINITION. Machine/Dispatcher.lean: posts of work items, and the items that the dispatcher gives (R228, R458 to R464).
-/
namespace Sys2Proof.Machine

/-- WORK_POST (R459): the record that a tile's SYSW posted is queued or refused; a full queue leaves it waiting. -/
def execWorkPost (t : Tile) (s : State) : Host.Outcome State Fault Refusal :=
  .next (match (core s t).post, ownerOf s t with
    | some x, some p =>
      if x.answered then s
      else
        let r := takeRecord p t x.off s
        if r.2 then modCore t (fun c => { c with post := some { x with answered := true } }) r.1 else s
    | _, _ => s)

/-- WORK_POST_ACK (R459): the acknowledgement reaches the tile and its SYSW completes. -/
def execWorkPostAck (t : Tile) (s : State) : Host.Outcome State Fault Refusal :=
  .next (match (core s t).post with
    | some x => if x.answered then modCore t (fun c => { c with post := none }) s else s
    | none => s)

/-- The dispatcher's choice for a waiting tile (R460 to R464); a queue entry with a parity error is discarded (R607). -/
def dispatchTo (p t : Nat) (parity : Bool) (s : State) : State :=
  let k := tileIndex s p t
  match chooseItem s p k with
  | none => s
  | some c =>
    if parity then
      let s := modPart p (fun x => if c.deferred then { x with dq := x.dq.eraseIdx c.place } else { x with nq := x.nq.eraseIdx c.place }) s
      parityFault p 0 1134 t s
    else
      let r := giveItem p k c s
      modCore t (fun x => { x with given := some r.2 }) r.1

/-- DISPATCH_ITEM (R461, R462). -/
def execDispatchItem (t : Tile) (parity : Bool) (s : State) : Host.Outcome State Fault Refusal :=
  .next (match ownerOf s t with
    | some p => if mayDispatch s p t then dispatchTo p t parity s else s
    | none => s)

/-- WORK_ITEM_RECEIVE (R228, R460, R609): the item reaches the tile: Gd takes its argument, PC its entry, and the watchdog count restarts; an item that all its tiles
have received is freed. -/
def execWorkItemReceive (t : Tile) (s : State) : Host.Outcome State Fault Refusal :=
  .next (match (core s t).given, (core s t).run, ownerOf s t with
    | some i, .waiting d, some p => if (part s p).st = .running ∨ (part s p).st = .suspended then receive t d i (freeItem p i s) else s
    | _, _, _ => s)
where
  /-- The item's queue entry after its receipt. -/
  freeItem (p : Nat) (i : Item) (s : State) : State :=
    modPart p (fun x => if i.deferred then { x with dq := itemReceived (tileCount s p) i x.dq } else { x with nq := itemReceived (tileCount s p) i x.nq }) s
  /-- The item begins. -/
  receive (t : Nat) (d : GReg) (i : Item) (s : State) : State :=
    modCore t (fun c => { c with
      g := if d.val = 0 then c.g else tabSet 0 d.val i.arg c.g
      pc := i.entry
      run := .running
      item := some i.eclass
      given := none
      wdog := 0 }) s

end Sys2Proof.Machine
end

