-- ==== Sys2Proof/Machine/Domains.lean ====
section
/-!
DEFINITION. Machine/Domains.lean: the rows of power domains: drains, ramps and the idle collective engine (R347, R492, R532).
-/
namespace Sys2Proof.Machine

/-- DRAIN_BEGIN (R347): an ON domain that may be switched off begins to drain. -/
def execDrainBegin (n : Dom) (s : State) : Host.Outcome State Fault Refusal :=
  .next (if domSt s n.val = .on ∧ offAllowed s n.val then modDom n.val (fun d => { d with st := .draining }) s else s)

/-- DRAIN_COMPLETE (R347, R386): a drained domain with nothing unanswered or outstanding is switched off. -/
def execDrainComplete (n : Dom) (s : State) : Host.Outcome State Fault Refusal :=
  .next (if domSt s n.val = .draining ∧ !domBusy s n.val then drainDone n.val s else s)

/-- LINK_CLOSE_DONE (R386): the port goes dark after its CLOSE frames, and with the last of a drained bank its domain is switched off; one whose drain was cancelled
trains again. -/
def execLinkCloseDone (n : Port) (s : State) : Host.Outcome State Fault Refusal :=
  .next (
    if !(port s n.val).closing then s
    else
      let s := darkPort n.val s
      let d := 24 + n.val / 7
      if domSt s d = .draining ∧ !domBusy s d then drainDone d s else openPort n.val s)

/-- DOMAIN_READY (R492): a domain whose ramp stands reads ACTIVE. -/
def execDomainReady (n : Dom) (s : State) : Host.Outcome State Fault Refusal :=
  .next (if domSt s n.val = .ramping ∧ !(tabGet {} n.val s.doms).slow then domainOn n.val s else s)

/-- RAMP_END (R532): a first ramp at the limit sets SHORT1 and waits for its repeat; a second fails the domain; one that passes leaves the ramp standing. -/
def execRampEnd (n : Dom) (short : Bool) (s : State) : Host.Outcome State Fault Refusal :=
  .next (
    let d := tabGet {} n.val s.doms
    if d.st ≠ .ramping ∨ d.slow ∨ !short then s
    else if d.again then domFail n.val s
    else stick (aPwrDom n.val) 4 (modDom n.val (fun d => { d with slow := true }) s))

/-- SLOW_RAMP (R532): the repeat of a failed ramp begins. -/
def execSlowRamp (n : Dom) (s : State) : Host.Outcome State Fault Refusal :=
  .next (if domSt s n.val = .ramping ∧ (tabGet {} n.val s.doms).slow then modDom n.val (fun d => { d with slow := false, again := true }) s else s)

/-- COLL_IDLE_OFF (R347, R492): the idle collective engine drains, and is off at once where nothing is outstanding. -/
def execCollIdleOff (s : State) : Host.Outcome State Fault Refusal :=
  .next (
    if domSt s 29 = .on ∧ collQuiet s then
      let s := modDom 29 (fun d => { d with st := .draining }) s
      if domBusy s 29 then s else domainOff 29 s
    else s)

end Sys2Proof.Machine
end

