-- ==== Sys2Proof/Machine/ErrLog.lean ====
section
/-!
DEFINITION. Machine/ErrLog.lean: the error log's POP and CLEAR_ALL (R597).
-/
namespace Sys2Proof.Machine

/-- The oldest record is removed. -/
def popOp (s : State) : State := if s.err.log.isEmpty then s else { s with err := { log := s.err.log.drop 1, head := (s.err.head + 1) % 256 } }
/-- The log is emptied. -/
def clearAllOp (s : State) : State := { s with err := { log := [], head := (s.err.head + s.err.log.length) % 256 } }
/-- A write of ERR_LOG_POP. -/
def logPopWrite (v : Word) (s : State) : State := if bitOf v.toNat 1 then clearAllOp s else if bitOf v.toNat 0 then popOp s else s

/-- POP (R597). -/
def execPop (s : State) : Host.Outcome State Fault Refusal := .next (popOp s)
/-- CLEAR_ALL (R597). -/
def execClearAll (s : State) : Host.Outcome State Fault Refusal := .next (clearAllOp s)

end Sys2Proof.Machine
end

