-- ==== Sys2Proof/Machine/HostOps.lean ====
section
/-!
DEFINITION. Machine/HostOps.lean: accesses of the host that are inside the package: their transaction entries at the host port, refusals and ends (R340, R563, R564, R568, R575).
-/
namespace Sys2Proof.Machine

/-- Change the host port. -/
def modHost (f : HostSt → HostSt) (s : State) : State := { s with host := f s.host }
/-- LINK_EPOCH. -/
def linkEpoch (s : State) : Nat := getF s aGlbHostStatus 8 8
/-- A BAR0 access ends without DONE (R564). -/
def bar0Refuse (off : Nat) (code : Byte) (s : State) : State :=
  let s := putF aGlbHostStatus 24 8 code.toNat (stick aGlbHostStatus 16 s)
  logEvent { event := 0x0E, sev := 1, code := code.toNat, station := 1133, addr := off } s
/-- A BAR2 access ends without DONE or POISON (R568). -/
def bar2Refuse (off : Nat) (write : Bool) (code : Byte) (s : State) : State :=
  let s := putF aGlbHostStatus 24 8 code.toNat (stick aGlbHostStatus 17 s)
  let s := logEvent { event := 0x0E, sev := 1, code := code.toNat, station := 1133, detail := 2, addr := off } s
  if write then s else { s with sent := .bar2Abort off :: s.sent }

/-- The station that holds the register at a BAR0 offset: a tile's, a port's, the engine's, a channel's, or family control. -/
def regStation (s : State) (o : Nat) : Nat :=
  if 0x1000000 ≤ o ∧ o < 0x11C0000 then 1092 + (o - 0x1000000) / 0x10000
  else if 0x2000000 ≤ o ∧ o < 0x3100000 then
    let i := (o - 0x2000000) / 0x4000
    if i < 1024 then tileStation s i else (i - 1024) / 4 * 68 + (i - 1024) % 4 * 17 + tabGet 16 (i - 1024) s.solder
  else 1134
/-- The board-store address of a BAR2 offset `x` in [2^35, 2^36) (R565): `x % 2^35` is `x − 2^35` there. -/
def bar2Addr (s : State) (x : Nat) : Nat := getF s aGlbBar2Bst 0 7 * 2 ^ 30 + x % 2 ^ 35
/-- The request of a host access as its entry holds it (R332, R568): RD or WR of a tile's slice, CRD or CWR to the tile of the cache set that a board-store address falls to, or
MRD or MWR. -/
def hostReq (s : State) (x : Nat) (a : HostAcc) : Packet :=
  let q : Packet := { txid := BitVec.ofNat 16 x, reqEpoch := BitVec.ofNat 8 (niOf s 1133).epoch, srcStn := 1133 }
  let to_ (n u addr op : Nat) : Packet := { q with vc := 1, opcode := BitVec.ofNat 6 op, dstStn := BitVec.ofNat 11 n, dstUnit := BitVec.ofNat 32 u, addr := BitVec.ofNat 64 addr }
  if !a.bar2 then
    { q with opcode := if a.write then 0x21 else 0x20, dstStn := BitVec.ofNat 11 (regStation s a.off), addr := BitVec.ofNat 64 a.off, oparg := slice a.data 0 32 }
  else if a.off < 2 ^ 35 then let t := a.off / sliceBytes; to_ (tileStation s t) t (a.off % sliceBytes) (if a.write then 2 else 1)
  else
    let addr := bar2Addr s a.off
    let t := match lineSet s (addr / 128) with | some j => setTile s j | none => 0
    to_ (tileStation s t) t addr (if a.write then 4 else 3)
/-- An access that has not completed holds an entry of the host port (R340, R563): its last answer was DEFER, or its packet is lost (R351). -/
def hostHold (deferred : Bool) (a : HostAcc) (s : State) : State :=
  let x := freeTxid s 1133
  putEntry 1133 x { req := hostReq s x a, data := a.data, first := s.tick, deferred := deferred, use := .host } (modHost (fun h => { h with accs := tabPut x a h.accs }) s)
/-- An access answered with DEFER waits for its retry (R563). -/
def hostWait (a : HostAcc) (s : State) : State := hostHold true a s
/-- The host port has no free entry: it takes no access from the host (R340). -/
def hostFull (s : State) : Bool := decide (entryCap s 1133 ≤ (niOf s 1133).entries.length)
/-- The access is complete: its entry is free. -/
def hostTake (x : Nat) (s : State) : State := freeEntry 1133 x (modHost (fun h => { h with accs := tabDel x h.accs }) s)
/-- An access ends with a code that is not DONE (R564, R568, R575). -/
def hostEnd (a : HostAcc) (code : Byte) (s : State) : State :=
  if a.bar2 then (if !a.write ∧ a.epoch ≠ linkEpoch s then s else bar2Refuse a.off a.write code s)
  else if a.write then bar0Refuse a.off code s
  else if a.epoch ≠ linkEpoch s then s
  else bar0Refuse a.off code { s with sent := .reg a.off (BitVec.allOnes 64) :: s.sent }

end Sys2Proof.Machine
end

