-- ==== Sys2Proof/Machine/Network.lean ====
section
/-!
DEFINITION. Machine/Network.lean: working-memory requests, responses and time-outs at the network interfaces (R31, R72, R73, R297, R331 to R351, R602, R603).
-/
namespace Sys2Proof.Machine

/-- Partition `p` of this package admits collectives with partition `q` (R57). -/
def admits (s : State) (p q : Nat) : Bool := bitOf (part s p).prec.peerMask q && decide ((part s p).st ≠ .empty)
/-- R57 for a gather read with tag `q` to partition `p`, from a station of this package, or from a port that carries all tags unchanged (R377): there the other mask is that
of another package, which checked it at the post. -/
def gatherAdmits (s : State) (stn p q : Nat) : Bool :=
  admits s p q && (if stn = 1132 then admits s q p else decide (1092 ≤ stn ∧ stn < 1120 ∧ (port s (stn - 1092)).role < 4))
/-- The tag check of R72 at tile `t`: the package's requests pass, and the reads of a GATHER_DEMAND that R57 admits (R442). -/
def tagPasses (q : Packet) (t : Nat) (s : State) : Bool :=
  decide (q.tag = 0x40 ∨ ownerOf s t = some q.tag.toNat)
    || (isGather q && match ownerOf s t with | some p => gatherAdmits s q.srcStn.toNat p q.tag.toNat | none => false)
/-- The refusal of a working-memory request at a tile, in the order of R593 (R31, R34, R72, R73, R297). A package request to a tile whose partition does not run
is served (log entry 29). -/
def tileRefuse (q : Packet) (s : State) : Option State :=
  let n := q.dstStn.toNat
  if !unitExists s q.dstUnit.toNat then some (unitRefuse q s)
  else if unitState s n = .failed then some (answer n q cOff [] 0 0 s)
  else match stationTile s n with
    | none =>
      match gateUnit n q s with
      | some s' => some s'
      | none => some (answer n q cFormat [] 0 0 s)
    | some t =>
      let o := q.addr.toNat
      if !tagPasses q t s then
        some (answer n q cPart [] 0 0 (logEvent { reqRec n q 0x02 cPart (tagOf s t) with addr := o } s))
      else match gateUnit n q s with
        | some s' => some s'
        | none =>
          if q.tag = 0x40 then (if sliceBytes < o + reqLen q then some (answer n q cFormat [] 0 0 s) else none)
          else if !partRunning s t then some (answer n q cPart [] 0 0 s)
          else if tileWC s t < o + reqLen q then some (answer n q cPart [] 0 0 s)
          else none

/-- A read of working memory (R301, R603). -/
def serveRd (q : Packet) (s : State) : State :=
  match tileRefuse q s with
  | some s' => s'
  | none =>
    let t := (stationTile s q.dstStn.toNat).getD 0
    let a := pkgAddr t q.addr.toNat
    let f := poisonFlits s a (reqLen q)
    answer q.dstStn.toNat q (if f = 0 then cDone else cPoison) (memBytes s a (reqLen q)) f 0 (touchRange 1 a (reqLen q) s)

/-- A write of working memory (R302, R602). -/
def serveWr (q : Packet) (data : List Byte) (s : State) : State :=
  match tileRefuse q s with
  | some s' => s'
  | none =>
    let t := (stationTile s q.dstStn.toNat).getD 0
    let a := pkgAddr t q.addr.toNat
    answer q.dstStn.toNat q (if writePoisons s a (reqLen q) then cPoison else cDone) [] 0 0
      (spWriteFlits 1 a (slice data 0 (reqLen q)) q.poison.toNat s)

/-- RD (R332). -/
def execRd (p : Packet) (s : State) : Host.Outcome State Fault Refusal := .next (arrive 0x01 p [] (viaPort [] serveRd) s)
/-- WR (R332). -/
def execWr (p : Packet) (data : List Byte) (s : State) : Host.Outcome State Fault Refusal := .next (arrive 0x02 p data (viaPort data fun q => serveWr q data) s)

/-- A read of a GATHER_DEMAND, from `member` for the collective with number `seq`, is answered (R442, R446): its bytes are written to the destination, or the collective ends with the code. -/
def gatherAnswer (p seq member dst : Nat) (e : NiEntry) (code : Byte) (data : List Byte) (poison : Nat) (s : State) : State :=
  match (collPart s p).run with
  | none => s
  | some c =>
    if c.op ≠ 8 ∨ c.seq ≠ seq ∨ c.out = 0 then s
    else
      let s := modRun p (fun c => { c with out := c.out - 1 }) s
      if code = cDone ∨ code = cPoison then
        let s := spWriteFlits 1 dst (slice data 0 (reqLen e.req)) poison s
        let s := if code = cPoison then modRun p (fun c => { c with poison := true }) s else s
        solvKickAll (collNext 6 p (collGo p s))
      else solvKickAll (collNext 6 p (collEnd p code 0 member s))

/-- The ending of a stream descriptor whose access is answered with a code that ends it (R198), at the element and stream that the access serves. -/
def streamEnding (elem stream : Nat) (code : Byte) : StEnding := { elem := elem, stream := stream, cause := causeOf code, code := code, answered := true }
/-- The access of a tile's stream descriptor is answered, and its entry is free (R198): a code other than DONE and POISON ends the descriptor there; else the
descriptor goes on. -/
def streamAnswer (n elem stream : Nat) (code : Byte) (s : State) : State :=
  match stationTile s n with
  | some t => if code = cDone ∨ code = cPoison then s else stFinish t 0 (some (streamEnding elem stream code)) {} s
  | none => s

/-- What an answer other than DEFER does for the use of an entry that it frees (R198, R442, R446). -/
def useAnswer (n : Nat) (e : NiEntry) (code : Byte) (data : List Byte) (poison : Nat) (s : State) : State :=
  match e.use with
  | .gather g sq m dst => gatherAnswer g sq m dst e code data poison s
  | .coll g i q => solvKickAll (collAnswer g i q code s)
  | .stream _ elem j => streamAnswer n elem j code s
  | _ => s
/-- The entry was one of a port's link. -/
def ofLink (e : NiEntry) : Bool := match e.use with | .link .. => true | _ => false
/-- An entry of a station is free: what waited there for one goes on (R340). -/
def entryFreed (n : Nat) (s : State) : State :=
  if n = 1132 then solvKickAll (collWake s) else if 1092 ≤ n ∧ n < 1120 then linkRetake (n - 1092) s else s
/-- DEFER comes for an entry (R341): the request waits for its retry; that of a post which the engine has given its record with DEFER (R251, R426) is complete. -/
def deferEntry (n x : Nat) (e : NiEntry) (s : State) : State :=
  if e.use = .post ∧ !s.posts.any (fun p => decide (tileStation s p.tile = n ∧ p.txid = some x)) then freeEntry n x s
  else putEntry n x { e with deferred := true, waiting := false, flight := false } s

/-- A response meets its entry (R341, R342, R344): one that is quarantined is freed, whatever the response. -/
def rspMatch (p : Packet) (data : List Byte) (s : State) : State :=
  let n := p.dstStn.toNat
  let x := p.txid.toNat
  match entryOf s n x with
  | none => staleDrop p s
  | some e =>
    if e.quar then entryFreed n (freeEntry n x s)
    else if p.reqEpoch.toNat ≠ (niOf s n).epoch ∨ e.req.dstStn ≠ p.srcStn ∨ e.use = .host then staleDrop p s
    else if ofLink e then linkRetake (n - 1092) (portRespond (n - 1092) x p data s)
    else if p.code = cDefer then deferEntry n x e s
    else entryFreed n (useAnswer n e p.code data p.poison.toNat (freeEntry n x s))

/-- RSP (R344): a response is matched by TXID or dropped; one with a damaged header is discarded (R351). -/
def execRsp (p : Packet) (data : List Byte) (s : State) : Host.Outcome State Fault Refusal :=
  .next (
    let p := { p with opcode := 0x10 }
    let s := countCorrected p.way s
    if p.way.hdr ≠ .ok then dropHeader p s else rspMatch p data s)

/-- The limit of an access of the host ends it (R342, R564, R568). -/
def hostTimeout (x : Nat) (s : State) : State :=
  match tabFind x s.host.accs with
  | some a => hostEnd a cTimeout (modHost (fun h => { h with accs := tabDel x h.accs }) s)
  | none => s
/-- What the expiry does for the use of an entry (R342): a request received over a link is answered with TIMEOUT. -/
def useTimeout (n : Nat) (x : Nat) (e : NiEntry) (s : State) : State :=
  match e.use with
  | .host => hostTimeout x s
  | .link lost src id _ =>
    if lost then s
    else linkSend (n - 1092) { rspOf s e.req.dstStn.toNat e.req cTimeout [] 0 0 with dstStn := BitVec.ofNat 11 src, txid := BitVec.ofNat 16 id } [] s
  | _ => useAnswer n e cTimeout [] 0 s

/-- NI_TIMEOUT (R342): the entry's limit expires; also that of a host access whose last answer was DEFER, and whose retries end with it. -/
def execNiTimeout (st : Station) (txid : BitVec 16) (s : State) : Host.Outcome State Fault Refusal :=
  .next (match entryOf s st.val txid.toNat with
    | none => s
    | some e =>
      if e.quar then s
      else
        let s := nocEvent 0 e.req.srcStn.toNat e.req.dstStn.toNat e.req.opcode.toNat txid.toNat s
        let s := bump aNocTimeouts 1 aNocStatus 4 s
        let s := logEvent {
          event := 0x04, sev := 1, tag := e.req.tag.toNat, code := cTimeout.toNat, station := st.val, unit := e.req.dstUnit.toNat,
          detail := txid.toNat, addr := e.req.addr.toNat } s
        entryFreed st.val (useTimeout st.val txid.toNat e (ownComplete st.val txid.toNat cTimeout s)))

end Sys2Proof.Machine
end

