-- ==== Sys2Proof/Machine/RegView.lean ====
section
/-!
DEFINITION. Machine/RegView.lean: every BAR0 register as it reads (R12, R16, R17, R40, R614): the stored word and the bits computed from the state that owns them.
-/
namespace Sys2Proof.Machine

/-- GLB_DEVICE_ID, the fuse fields. -/
def deviceIdView (s : State) : Nat :=
  2 ^ 16 * (s.fuses.speedBin % 16) + 2 ^ 20 * (s.fuses.stepMajor % 16) + 2 ^ 24 * (s.fuses.stepMinor % 16) + 2 ^ 32 * (if s.fuses.speedBin = 1 then 0x640 else 0x708)
/-- GLB_PINS, the bits that are not stored. -/
def pinsView (s : State) : Nat :=
  b2n s.pins.coolant + 2 * b2n s.pins.halt + 4 * b2n s.pins.perst + 8 * b2n s.pins.prsnt + 16 * b2n s.pins.trip + 2 ^ 8 * (s.mgt.sa % 8)
/-- CLK_STATUS, the bits that are not stored. -/
def clkStatusView (s : State) : Nat := 16 * b2n (syncView s) + 2 ^ 8 * b2n (reg s aClkStopped ≠ 0)
/-- CLK_BOOT. -/
def bootView (s : State) : Nat := s.boot.step + 2 ^ 5 * (s.boot.now.outcome % 4) + 2 ^ 7 * (s.boot.now.fwSlot % 2) + 2 ^ 8 * (s.boot.now.seq % 2 ^ 32)
/-- CLK_BOOT_STEP_n. -/
def bootStepView (s : State) (n : Nat) : Nat :=
  let e := tabGet {} n s.boot.now.steps
  e.result % 8 + 2 ^ 8 * (e.alt % 256) + 2 ^ 16 * (e.fails % 256) + 2 ^ 32 * (e.mask % 2 ^ 32)
/-- SEC_STATUS. -/
def secStatusView (s : State) : Nat :=
  let set (t n : Nat) : Nat := ((List.range n).map fun i => if (tabFind (16 * t + i) s.fuses.slots).isSome then 2 ^ i else 0).sum
  let rev (t n : Nat) : Nat := ((List.range n).map fun i => if s.fuses.revoked.contains (16 * t + i) then 2 ^ i else 0).sum
  b2n s.sec.fabric.isSome + 2 ^ 4 * rev 0 4 + 2 ^ 8 * set 1 8 + 2 ^ 16 * rev 1 8 + 2 ^ 24 * (s.sec.sessions.countP fun x => x.open_)
    + 2 ^ 32 * (match s.sec.fabric with | some f => f.1 % 2 ^ 32 | none => 0)
/-- SEC_KEY_s, the bits that are not stored. -/
def secKeyView (s : State) (k : Nat) : Nat := b2n (s.sec.installed.contains k) + 2 ^ 16 * (tabGet 0 k s.flash.gens % 2 ^ 16)
/-- MGT_VDM_ID. -/
def vdmIdView (s : State) : Nat := s.fuses.pen % 2 ^ 32 + 2 ^ 32 * (s.mgt.eid % 256) + 2 ^ 40 * (s.mgt.addr % 128)
/-- ERR_STATUS, the bits that are not stored. -/
def errStatusView (s : State) : Nat := 2 ^ 8 * s.err.log.length + 2 ^ 24 * s.err.head
/-- Word `w` of a log record (R596). -/
def logWord (r : LogRec) (w : Nat) : Nat :=
  match w with
  | 0 => r.tick
  | 1 => r.event + 2 ^ 8 * r.sev + 2 ^ 16 * r.tag + 2 ^ 24 * r.code + 2 ^ 32 * r.station
  | 2 => r.unit % 2 ^ 32 + 2 ^ 32 * (r.detail % 2 ^ 32)
  | _ => r.addr
/-- ERR_LOG_i_w: 0 where record `i` is not held (R597). -/
def errLogView (s : State) (i w : Nat) : Nat :=
  match s.err.log[(i + 256 - s.err.head % 256) % 256]? with | some r => logWord r w | none => 0
/-- The block of ERR_SUMMARY that a register lies in; TILE only for a powered logical tile. -/
def summaryBlock (s : State) (off : Nat) : Option Nat :=
  if off < 0x100000 then some 0
  else if off < 0x200000 then some 1
  else if off < 0x300000 then some 2
  else if off < 0x400000 then some 3
  else if off < 0x500000 then some 4
  else if off < 0x1000000 then none
  else if off < 0x1400000 then some 5
  else if off < 0x1800000 then some 6
  else if off < 0x1c00000 then some 7
  else if off < 0x2000000 then some 8
  else if off < 0x3000000 then (if domSt s (quadOf ((off - 0x2000000) / 0x4000)) = .on then some 9 else none)
  else if 0x3800000 ≤ off then some 10
  else none
/-- ERR_SUMMARY: a bit for each block in which a W1C bit is set. -/
def summaryView (s : State) : Nat :=
  let set := s.regs.filterMap fun e => match regSpecAt e.1 with | some r => if e.2.toNat &&& r.w1c ≠ 0 then summaryBlock s e.1 else none | none => none
  ((List.range 11).map fun b => if set.contains b then 2 ^ b else 0).sum

/-- The bits of the GLB registers that are not stored. -/
def glbView (s : State) (o : Nat) : Nat :=
  if o = aGlbDeviceId then deviceIdView s
  else if o = aGlbLoc then locView s
  else if o = aGlbCellStatus then cellStatusView s
  else if o = aGlbUplink then uplinkView s
  else if aGlbRank 0 ≤ o ∧ o < aGlbRank 16 then rankView s ((o - aGlbRank 0) / 8)
  else if aGlbRoute 0 ≤ o ∧ o < aGlbRoute 18 then routeView s ((o - aGlbRoute 0) / 8)
  else if o = aGlbPins then pinsView s
  else 0
/-- The bits of the IMG registers that are not stored. -/
def imgView (s : State) (o : Nat) : Nat :=
  if o = aImgVersionCap then 2 ^ 16 * (s.fuses.secMin % 2 ^ 32)
  else if o = aImgStatus then imgStatusView s
  else if aImgPart 0 ≤ o ∧ o < aImgPart 64 then partView s ((o - aImgPart 0) / 8)
  else if aImgDisp 0 ≤ o ∧ o < aImgDisp 64 then dispView s ((o - aImgDisp 0) / 8)
  else if aImgStep 0 ≤ o ∧ o < aImgStep 64 then (stepView s ((o - aImgStep 0) / 8)).toNat
  else if aImgAudit 0 ≤ o ∧ o < aImgAudit 64 then auditView s ((o - aImgAudit 0) / 8)
  else 0
/-- The bits of the PWR registers that are not stored. -/
def pwrView (s : State) (o : Nat) : Nat :=
  if o = aPwrCap then pwrCapView s
  else if o = aPwrBoard then s.pwr.limit
  else if o = aPwrStatus then pwrStatusView s
  else if o = aPwrTherm then pwrThermView s
  else if aPwrDom 0 ≤ o ∧ o < aPwrDom 30 then pwrDomView s ((o - aPwrDom 0) / 8)
  else if aPwrPart 0 ≤ o ∧ o < aPwrPart 64 then pwrPartView s ((o - aPwrPart 0) / 8)
  else 0
/-- The bits of the CLK, SEC, MGT and ERR registers that are not stored. -/
def ctlView (s : State) (o : Nat) : Nat :=
  if o = aClkTick then s.tick
  else if o = aClkStatus then clkStatusView s
  else if o = aClkUnitReset then 2 ^ 32 * b2n (s.resetReqs.any fun e => e.2.isNone)
  else if o = aClkBoot then bootView s
  else if aClkBootStep 1 ≤ o ∧ o < aClkBootStep 17 then bootStepView s ((o - aClkBootStep 1) / 8 + 1)
  else if o = aSecStatus then secStatusView s
  else if aSecKey 0 ≤ o ∧ o < aSecKey 65 then secKeyView s ((o - aSecKey 0) / 8)
  else if o = aMgtVdmId then vdmIdView s
  else if o = aErrStatus then errStatusView s
  else if o = aErrSummary then summaryView s
  else if aErrLog 0 0 ≤ o ∧ o < aErrLog 256 0 then errLogView s ((o - aErrLog 0 0) / 32) ((o - aErrLog 0 0) % 32 / 8)
  else 0
/-- The bits of the LNK, COLL, BST, SOLV and NOC registers that are not stored. -/
def engineView (s : State) (o : Nat) : Nat :=
  if o < 0x1400000 then
    let n := (o - 0x1000000) / 0x10000
    let r := (o - 0x1000000) % 0x10000
    if r = 8 then linkView s n else if r = 16 then peerView s n else if r = 24 then lanesView s n else 0
  else if o = aCollStatus then collStatusView s
  else if aCollPart 0 ≤ o ∧ o < aCollPart 64 then collPartView s ((o - aCollPart 0) / 8)
  else if o = aBstConfig then bstConfigView s
  else if o = aBstStatus then 2 ^ 8 * b2n s.bst.flush.isSome
  else if o = aBstCacheCfg then cacheCfgView s
  else if aBstChan 0 ≤ o ∧ o < aBstChan 12 then chanView s ((o - aBstChan 0) / 8)
  else if aBstRegion 0 ≤ o ∧ o < aBstRegion 64 then let r := regionOf s ((o - aBstRegion 0) / 8); r.1 % 2 ^ 21 + 2 ^ 21 * (r.2 % 2 ^ 21)
  else if aSolvStatus 0 ≤ o ∧ o < aSolvStatus 4 then
    let d := (o - aSolvStatus 0) / 0x40000
    let r := (o - aSolvStatus 0) % 0x40000
    if r = 0 then solvStatusView s d else if 0x1000 ≤ r then solvProbView s d ((r - 0x1000) / 8) else 0
  else if aNocNi 0 ≤ o ∧ o < aNocNi 1135 then niView s ((o - aNocNi 0) / 8)
  else 0
/-- The bits of a register of the map that are not stored. -/
def viewBits (s : State) (o : Nat) : Nat :=
  if o < 0x100000 then glbView s o
  else if o < 0x200000 then imgView s o
  else if o < 0x300000 then pwrView s o
  else if o < 0x1000000 then ctlView s o
  else if 0x2000000 ≤ o ∧ o < 0x3000000 then tileView s ((o - 0x2000000) / 0x4000) ((o - 0x2000000) % 0x4000)
  else if 0x3000000 ≤ o ∧ o < 0x3800000 then 0
  else engineView s o

/-- A BAR0 register as it reads; an offset that no register occupies reads as 0 (R16), and OP_MAX as the part's ceiling bounds it (R495). -/
def readReg (s : State) (o : Nat) : Word :=
  match regSpecAt o with
  | none => 0
  | some _ =>
    let w := reg s o ||| BitVec.ofNat 64 (viewBits s o)
    if aPwrPart 0 ≤ o ∧ o < aPwrPart 64 then wput w 4 4 (min (wfld w 4 4) (partCeiling s)) else w

end Sys2Proof.Machine
end

