-- ==== Sys2Proof/Machine/Resets.lean ====
section
/-!
DEFINITION. Machine/Resets.lean: the rows of resets and of the package watchdog (R546 to R552).
-/
namespace Sys2Proof.Machine

/-- A reset is in progress: its start has neither reached HANDOFF nor the safe state (R547, R553, R579). -/
def inReset (s : State) : Bool := !s.boot.ended && decide (s.boot.now.outcome ≠ 3)
/-- CLK_RESET.COLD (R546, R548); merged with a cold reset in progress (R579). -/
def coldOp (s : State) : State := if s.pins.powered && !(inReset s && s.boot.cold) then noteSensors (coldReset 1 true s) else s
/-- COLD (R546). -/
def execCold (s : State) : Host.Outcome State Fault Refusal := .next (coldOp s)
/-- CLK_RESET.WARM (R547); merged with a reset in progress (R579). -/
def warmOp (s : State) : State := if s.pins.powered && !inReset s then noteSensors (warmReset 2 s) else s
/-- WARM (R547). -/
def execWarm (s : State) : Host.Outcome State Fault Refusal := .next (warmOp s)

/-- A unit of level 0 to 2 whose stations are all FAILED (R34, R593). -/
def unitFailed (s : State) (u : Nat) : Bool :=
  (unitTiles u).all (fun t => decide (unitState s (tileStation s t) = .failed)) &&
    (decide (u / 2 ^ 28 ≠ 2) || decide (unitState s (1088 + u % 2 ^ 28) = .failed))
/-- A write of CLK_UNIT_RESET (R31, R34, R549); during a warm reset a unit reset completes with UNIT_RESET and resets nothing (R551). -/
def clkUnitResetOp (u : Nat) (s : State) : State :=
  if !s.pins.powered then s
  else if u / 2 ^ 28 = 3 ∧ unitHere s u then warmOp s
  else if u / 2 ^ 28 < 3 ∧ unitExists s u then (if unitFailed s u || (!s.boot.cold && !s.boot.ended) then s else requestReset u none s)
  else logEvent { event := 0x01, sev := 1, code := cOff.toNat, station := 1134, unit := u } s
/-- CLK_UNIT_RESET (R549). -/
def execClkUnitReset (unit : BitVec 32) (s : State) : Host.Outcome State Fault Refusal := .next (clkUnitResetOp unit.toNat s)

/-- An MCMD RESET at family control (R31, R34, R549, R551). -/
def serveReset (q : Packet) (s : State) : State :=
  let u := q.dstUnit.toNat
  if unitForm u ∧ (u / 2 ^ 28 = 4 ∨ u / 2 ^ 28 = 5) then answer 1134 q cFormat [] 0 0 s
  else if !s.boot.cold && !s.boot.ended then answer 1134 q cReset [] 0 0 s
  else if u / 2 ^ 28 = 3 ∧ unitHere s u then (if inReset s then answer 1134 q cReset [] 0 0 s else noteSensors (warmReset 6 s))
  else if u / 2 ^ 28 < 3 ∧ unitExists s u then
    if unitFailed s u then answer 1134 q cOff [] 0 0 s else requestReset u (some (q.srcStn.toNat, q.txid.toNat)) s
  else answer 1134 q cOff [] 0 0 (logEvent (reqRec 1134 q 0x01 cOff 0) s)
/-- MCMD_RESET (R549). -/
def execMcmdReset (unit : BitVec 32) (src : Requester) (txid : BitVec 16) (s : State) : Host.Outcome State Fault Refusal :=
  .next (
    let q : Packet := { vc := 0, srcStn := BitVec.ofNat 11 src.stn.val, dstStn := 1134, dstUnit := unit, txid := txid, way := src.way }
    if !s.pins.powered then s else arrive 0x22 q [] serveReset s)

/-- The wake causes held for units that reset no more take effect (R551). -/
def freeWakes (s : State) : State :=
  let due := s.heldWakes.filter fun e => decide (unitState s e.1 ≠ .resetting)
  due.foldl (fun s e => match unitGate e.1 e.2 s with | some g => g.2.2 | none => s) { s with heldWakes := s.heldWakes.filter fun e => decide (unitState s e.1 = .resetting) }
/-- UNIT_RESET_DONE (R549, R551): the unit leaves RESETTING, those who wait for it receive DONE, and the wake causes held meanwhile take effect. -/
def execUnitResetDone (unit : BitVec 32) (s : State) : Host.Outcome State Fault Refusal :=
  .next (
    let u := unit.toNat
    if !s.resets.contains u then s
    else
      let who := s.resetReqs.filterMap fun e => if e.1 = u then e.2 else none
      let s := { s with resets := s.resets.filter (· ≠ u), resetAt := tabDel u s.resetAt, resetReqs := s.resetReqs.filter fun e => e.1 ≠ u }
      let s := who.foldl (fun s k => match entryOf s k.1 k.2 with | some e => answer 1134 e.req cDone [] 0 0 s | none => s) s
      solvKickAll (freeWakes s))

/-! ### Package watchdog (R552) -/

/-- A kick restarts the count. -/
def kickOp (s : State) : State := if s.kick.isSome then { s with kick := some s.tick } else s
/-- KICK (R552). -/
def execKick (s : State) : Host.Outcome State Fault Refusal := .next (kickOp s)

/-- A write of CLK_WDOG (R12, R552): ENABLE, WARN, KICK and LIMIT_S with 0 stored as 1. -/
def wdogWrite (v : Word) (s : State) : State :=
  let s := putB aClkWdog 0 (bitOf v.toNat 0) s
  let s := if bitOf v.toNat 2 then putB aClkWdog 2 false s else s
  let s := putF aClkWdog 8 8 (max 1 (wfld v 8 8)) s
  if bitOf v.toNat 1 then kickOp s else s
/-- CLK_WDOG_WRITE (R552). -/
def execClkWdogWrite (v : Word) (s : State) : Host.Outcome State Fault Refusal := .next (if s.pins.powered then wdogWrite v s else s)

/-- The watchdog runs: after BOOT_16, while ENABLE is 1. -/
def wdogRuns (s : State) : Bool := s.kick.isSome && getB s aClkWdog 0
/-- WDOG_WARN (R552). -/
def execWdogWarn (s : State) : Host.Outcome State Fault Refusal := .next (if wdogRuns s then stick aClkWdog 2 s else s)
/-- WDOG_EXPIRE (R552, R598). -/
def execWdogExpire (s : State) : Host.Outcome State Fault Refusal :=
  .next (if wdogRuns s then noteSensors (warmReset 5 (logEvent { event := 0x19, sev := 3, detail := getF s aClkWdog 8 8 } s)) else s)

end Sys2Proof.Machine
end

