-- ==== Sys2Proof/Machine/Security.lean ====
section
/-!
DEFINITION. Machine/Security.lean: the generations of the board-store keys (R587).
-/
namespace Sys2Proof.Machine

/-- The loaded image uses a key slot: a partition that is not EMPTY names it, or it is the package's and an image is loaded (R587). -/
def slotBusy (s : State) (k : Nat) : Bool :=
  if k = 64 then decide (reg s aImgActive ≠ 0) else s.parts.any fun e => decide (e.2.st ≠ .empty ∧ e.2.prec.keyId = k)
/-- ROTATE of SEC_KEY_s. -/
def rotateOp (k : Nat) (s : State) : State :=
  if slotBusy s k then stick (aSecKey k) 2 s
  else
    let s := { s with flash := { s.flash with gens := tabSet 0 k ((tabGet 0 k s.flash.gens + 1) % 2 ^ 16) s.flash.gens } }
    if s.sec.installed.contains k then s else deriveSlot k s
/-- ROTATE (R587). -/
def execRotate (k : Fin 65) (s : State) : Host.Outcome State Fault Refusal := .next (rotateOp k.val s)

end Sys2Proof.Machine
end

