-- ==== Sys2Proof/Machine/Sleep.lean ====
section
/-!
DEFINITION. Machine/Sleep.lean: quiet, the package states, wake causes and the cell sleep agreement (R524 to R531).
-/
namespace Sys2Proof.Machine

/-- Begin to drain a domain that is on; one whose ramp stands or runs has no unit in service and goes off. -/
def beginDrain (n : Nat) (s : State) : State :=
  match domSt s n with
  | .on => modDom n (fun d => { d with st := .draining }) s
  | .ramping => modDom n (fun _ => { st := .off }) s
  | _ => s
/-- The entry to a package state begins (R524, R526, R527): before Dark the whole cache is flushed and the devices enter self-refresh. -/
def enterSleep (k : Nat) (s : State) : State :=
  let s := modPwr (fun x => { x with quiet := false }) s
  noteSensors (
    if k = 1 then modPwr (fun x => { x with sleep := .idle }) s
    else if k = 2 then
      let s := modPwr (fun x => { x with sleep := .entering 2, wasOn := (List.range 16).filter fun q => decide (domSt s q = .on) }) s
      beginDrain 29 ((List.range 16).foldl (fun s q => beginDrain q s) s)
    else
      let s := flushSets 0 (totalSets s) s
      let s := modBst (fun b => { b with selfRefresh := true }) s
      (List.range 30).foldl (fun s n => beginDrain n s) (modPwr (fun x => { x with sleep := .entering 3, wasOn := [] }) s))
/-- The package is awake: ACTIVE or IDLE, and in no agreement. -/
def awake (s : State) : Bool := s.pwr.prepared.isNone && (match s.pwr.sleep with | .active => true | .idle => true | _ => false)

/-- A write of PWR_SLEEP.REQ (R525). -/
def sleepReqOp (k : Nat) (s : State) : State :=
  if k = 0 ∨ !awake s ∨ !s.boot.ended then s
  else if k = 1 then (if s.pwr.sleep = .idle then s else enterSleep 1 s)
  else if !noPartLive s ∨ s.cell.map.isSome then stick aPwrStatus 21 s
  else enterSleep k s
/-- SLEEP_REQ (R525). -/
def execSleepReq (req : BitVec 2) (s : State) : Host.Outcome State Fault Refusal := .next (sleepReqOp req.toNat s)

/-- The domains as a sleep state leaves them (R524). -/
def pewterDomains (s : State) : State :=
  let s := (List.range 30).foldl (fun s n =>
    match domSt s n with
    | .draining => domainOff n s
    | .on =>
      if (16 ≤ n ∧ n < 20) ∨ n = 28 then modDom n (fun d => { d with st := .retention }) s
      else if 20 ≤ n ∧ n < 24 then modDom n (fun d => { d with st := if solvEmpty s (n - 20) then .off else .gated }) s
      else s
    | .ramping => if (16 ≤ n ∧ n < 20) ∨ n = 28 then modDom n (fun _ => { st := .retention }) s else if 20 ≤ n ∧ n < 24 then modDom n (fun _ => { st := .off }) s else s
    | _ => s) s
  modBst (fun b => { b with selfRefresh := decide (b.present ≠ 0) }) s
/-- The optical banks that drain and still hold an ACTIVE port. -/
def banksUp (s : State) : List Nat := (List.range 4).filter fun e => decide (domSt s (24 + e) = .draining) && (bankPorts e).any (portUp s)
/-- SLEEP_ENTRY_DONE (R386, R526, R527, R529, R530): the drains are over and the state is entered, before Dark once the ports of the banks have taken the loss with cause
DRAIN and sent their CLOSE frames; a wake cause held since PREPARED wakes the package at once. -/
def execSleepEntryDone (s : State) : Host.Outcome State Fault Refusal :=
  .next (
    match s.pwr.sleep with
    | .entering k =>
      if (List.range 30).any fun n => decide (domSt s n = .draining) && domOutstanding s n then s
      else if banksUp s ≠ [] then (banksUp s).foldl (fun s e => drainDone (24 + e) s) s
      else
        let s := if k = 3 then loseScratch (emptyAll cReset (allOff s)) else pewterDomains s
        let s := modPwr (fun x => { x with sleep := if k = 3 then .dark else .pewter }) s
        let s := if s.pwr.wakeHeld then beginExit k (modPwr (fun x => { x with wakeHeld := false }) s) else s
        noteSensors s
    | _ => s)

/-- RESUME (R528): a HOST wake cause. -/
def execResume (s : State) : Host.Outcome State Fault Refusal := .next (noteSensors (wakeCause 0 s))
/-- TIMER_WAKE (R528). -/
def execTimerWake (s : State) : Host.Outcome State Fault Refusal := .next (if reg s aPwrWakeTime = 0 then s else noteSensors (wakeCause 5 s))

/-- Every slot counts as last evidenced now (R531). -/
def evidenceAfresh (s : State) : State :=
  modCell (fun c => { c with know := (List.range 18).foldl (fun t j => tabSet {} j { tabGet {} j t with evid := s.tick, fitAt := s.tick, lost := false } t) c.know }) s
/-- WAKE_DONE (R527, R529, R531): what the exit powers reads ACTIVE, after Dark its rows are repaired, every slot counts as evidenced now, and the engines go on. -/
def execWakeDone (s : State) : Host.Outcome State Fault Refusal :=
  .next (
    match s.pwr.sleep with
    | .exiting k =>
      if (List.range 30).any fun n => decide (domSt s n = .ramping) && (tabGet {} n s.doms).slow then s
      else
        let s := if k = 1 then s else (List.range 30).foldl (fun s n => if domSt s n = .ramping then domainOn n s else s) s
        let s := if k = 3 then repairRows s else s
        let s := modPwr (fun x => { x with sleep := .active, wasOn := [] }) s
        let s := if k = 1 then s else evidenceAfresh s
        noteSensors (stick aPwrStatus 20 (collWake (solvKickAll s)))
    | _ => s)

/-! ### The agreement (R530) -/

/-- The agreement of a record is the one this package is in. -/
def inAgreement (s : State) (r : List Byte) : Bool := s.pwr.prepared.isSome && decide (leAt r 4 2 = s.pwr.agr ∧ leAt r 2 2 = s.pwr.agrTerm)
/-- Send a record to the slots asked. -/
def sendAsked (kind : Nat) (s : State) : State :=
  let own := s.cell.slot.getD 31
  (s.pwr.asked.filter (· ≠ own)).foldl (fun s k => sendRec k (sleepRec kind own s.pwr.agrTerm s.pwr.agr 0) s) s
/-- The package is in no agreement any more; a cause held meanwhile wakes it (R529, R530). -/
def leaveAgreement (s : State) : State :=
  let held := s.pwr.wakeHeld
  let s := modPwr (fun x => { x with votes := none, prepared := none, wakeHeld := false }) s
  noteSensors (if held then wakeNow s else s)
/-- The manager aborts its agreement. -/
def agreeAbort (s : State) : State := leaveAgreement (sendAsked 7 s)
/-- The manager commits its agreement and enters the target. -/
def agreeCommit (s : State) : State :=
  let t := s.pwr.target
  enterSleep t (modPwr (fun x => { x with votes := none, prepared := none }) (sendAsked 6 s))

/-- QUIET_TIMEOUT (R525): SLEEP_READY; a package without a rank map enters it, a member enters IDLE, and its manager may start an agreement. -/
def execQuietTimeout (s : State) : Host.Outcome State Fault Refusal :=
  .next (
    if !pkgQuiet s ∨ !awake s ∨ !s.boot.ended then s
    else
      let k := deepest s
      let idle := decide (s.pwr.sleep = .idle)
      let s := modPwr (fun x => { x with quiet := true }) s
      if s.cell.map.isNone then (if k = 0 ∨ (k = 1 ∧ idle) then s else enterSleep k s)
      else
        let s := if k = 0 ∨ idle then s else noteSensors (modPwr (fun x => { x with sleep := .idle }) s)
        let s := agreeStart s
        match s.pwr.votes with | some l => if s.pwr.asked.all fun k => l.contains k then agreeCommit s else s | none => s)

/-- A SLEEP_PREPARE record arrives (R530). -/
def takePrepare (rec : List Byte) (s : State) : State :=
    let r := recOf rec
    let t := leAt r 6 2
    if !s.cell.located ∨ leAt r 0 1 ≠ 4 ∨ 17 < leAt r 1 1 ∨ isManager s then s
    else
      let yes := awake s && decide (2 ≤ t ∧ t ≤ readyNow s) && decide (s.cell.map.map (·.term) = some (leAt r 2 2))
      let s := sendRec (leAt r 1 1) (sleepRec 5 (s.cell.slot.getD 31) (leAt r 2 2) (leAt r 4 2) (b2n yes)) s
      if yes then
        noteSensors (modPwr (fun x => { x with agr := leAt r 4 2, agrMgr := leAt r 1 1, agrTerm := leAt r 2 2, target := t, prepared := some t, wakeHeld := false }) s)
      else s
/-- SLEEP_PREPARE (R530). -/
def execSleepPrepare (rec : List Byte) (s : State) : Host.Outcome State Fault Refusal := .next (recTake (fun _ => true) (recOf rec) (takePrepare rec) s)

/-- A SLEEP_VOTE record arrives (R530). -/
def takeVote (rec : List Byte) (s : State) : State :=
    let r := recOf rec
    match s.pwr.votes with
    | none => s
    | some l =>
      if leAt r 0 1 ≠ 5 ∨ !inAgreement s r ∨ !s.pwr.asked.contains (leAt r 1 1) then s
      else if leAt r 6 2 ≠ 1 then agreeAbort s
      else
        let l := if l.contains (leAt r 1 1) then l else leAt r 1 1 :: l
        let s := modPwr (fun x => { x with votes := some l }) s
        if s.pwr.asked.all fun k => l.contains k then agreeCommit s else s
/-- SLEEP_VOTE (R530). -/
def execSleepVote (rec : List Byte) (s : State) : Host.Outcome State Fault Refusal := .next (recTake (fun _ => true) (recOf rec) (takeVote rec) s)

/-- A SLEEP_COMMIT record arrives (R530). -/
def takeCommit (rec : List Byte) (s : State) : State :=
    let r := recOf rec
    if leAt r 0 1 ≠ 6 ∨ !inAgreement s r ∨ s.pwr.votes.isSome then s
    else enterSleep s.pwr.target (modPwr (fun x => { x with prepared := none }) s)
/-- SLEEP_COMMIT (R530). -/
def execSleepCommit (rec : List Byte) (s : State) : Host.Outcome State Fault Refusal := .next (recTake (fun _ => true) (recOf rec) (takeCommit rec) s)

/-- A SLEEP_ABORT record arrives (R530): at the manager before the commit point, or at a member. -/
def takeAbort (rec : List Byte) (s : State) : State :=
    let r := recOf rec
    if leAt r 0 1 ≠ 7 ∨ !inAgreement s r then s
    else if s.pwr.votes.isSome then agreeAbort s
    else leaveAgreement s
/-- SLEEP_ABORT (R530). -/
def execSleepAbort (rec : List Byte) (s : State) : Host.Outcome State Fault Refusal := .next (recTake (fun _ => true) (recOf rec) (takeAbort rec) s)

/-- SLEEP_VOTE_LIMIT (R530). -/
def execSleepVoteLimit (s : State) : Host.Outcome State Fault Refusal := .next (if s.pwr.votes.isSome then agreeAbort s else s)

/-- SLEEP_DECISION_LIMIT (R530). -/
def execSleepDecisionLimit (s : State) : Host.Outcome State Fault Refusal :=
  .next (if s.pwr.prepared.isSome ∧ s.pwr.votes.isNone then stick aPwrStatus 21 (leaveAgreement s) else s)

end Sys2Proof.Machine
end

