-- ==== Sys2Proof/Machine/Registers.lean ====
section
/-!
DEFINITION. Machine/Registers.lean: reads and writes of registers, over BAR0 and as system registers (R11 to R16, R110, R212, R213, R563, R564, R605, R615).
-/
namespace Sys2Proof.Machine

/-! ### Registers with a written range -/

/-- A value held within a range. -/
def within (lo hi v : Nat) : Nat := if v < lo then lo else if hi < v then hi else v
/-- A write of NOC_CTRL: TIMEOUT_US within 1 to 16,000 (R342). -/
def nocCtrlOp (v : Word) (s : State) : State := putF aNocCtrl 0 14 (within 1 16000 (wfld v 0 14)) s
/-- NOC_CTRL_WRITE (R342). -/
def execNocCtrlWrite (v : Word) (s : State) : Host.Outcome State Fault Refusal := .next (nocCtrlOp v s)
/-- A write of COLL_CTRL: TIMEOUT_MS within 1 to 60,000 (R444). -/
def collCtrlOp (v : Word) (s : State) : State := putB aCollCtrl 16 (bitOf v.toNat 16) (putF aCollCtrl 0 16 (within 1 60000 (wfld v 0 16)) s)
/-- COLL_CTRL_WRITE (R444). -/
def execCollCtrlWrite (v : Word) (s : State) : Host.Outcome State Fault Refusal := .next (collCtrlOp v s)
/-- A write of GLB_HOST_CTRL: DEFER_LIMIT_US with 0 stored as 1 (R563). -/
def hostCtrlOp (v : Word) (s : State) : State := putF aGlbHostCtrl 0 16 (max 1 (wfld v 0 16)) s
/-- HOST_CTRL_WRITE (R563). -/
def execHostCtrlWrite (v : Word) (s : State) : Host.Outcome State Fault Refusal := .next (hostCtrlOp v s)
/-- A write of GLB_BAR2_BST: BASE_GIB with a value above 71 stored as 71 (R565). -/
def bar2BstOp (v : Word) (s : State) : State := putF aGlbBar2Bst 0 7 (min 71 (wfld v 0 7)) s
/-- BAR2_BST_WRITE (R565). -/
def execBar2BstWrite (v : Word) (s : State) : Host.Outcome State Fault Refusal := .next (bar2BstOp v s)

/-! ### Writes (R12) -/

/-- A write of an IMG register. START begins a load of what the host's memory holds, and RUN and STOP, START and ABORT of one write are each judged by the state
before it (R12, R65, R67, R68; log entry 2). -/
def imgWrite (o : Nat) (v : Word) (s : State) : State :=
  if o = aImgCtrl then
    let s' := if bitOf v.toNat 0 then tickFree (imgStartOp (Config.hostBytes s.freeCount (2 ^ 12 * getF s aImgSrcAddr 12 52) (getF s aImgLen 0 31)) false false s) else s
    if bitOf v.toNat 1 ∧ s.img.phase = .verify then imgAbortOp s' else s'
  else if aImgPart 0 ≤ o ∧ o < aImgPart 64 then
    let p := (o - aImgPart 0) / 8
    let s' := if bitOf v.toNat 9 then stopPart p s else s
    if bitOf v.toNat 8 ∧ ((part s p).st = .stopped ∨ (part s p).st = .faulted) then partRunOp p s' else s'
  else if aImgStep 0 ≤ o ∧ o < aImgStep 64 then imgStepOp ((o - aImgStep 0) / 8) v s
  else writeStored o v s
/-- A write of a PWR register. -/
def pwrWrite (o : Nat) (v : Word) (s : State) : State :=
  if o = aPwrCap then pwrCapOp v s
  else if o = aPwrTherm then (if bitOf v.toNat 0 then thermClearOp s else s)
  else if o = aPwrSleep then
    let s := sleepReqOp (wfld v 2 2) (writeStored o v s)
    if bitOf v.toNat 4 then noteSensors (wakeCause 0 s) else s
  else if aPwrPart 0 ≤ o ∧ o < aPwrPart 64 then opMaxOp ((o - aPwrPart 0) / 8) v s
  else writeStored o v s
/-- A write of a CLK, SEC or ERR register. -/
def ctlWrite (o : Nat) (v : Word) (s : State) : State :=
  if o = aClkReset then (if bitOf v.toNat 0 then coldOp s else if bitOf v.toNat 1 then warmOp s else s)
  else if o = aClkUnitReset then clkUnitResetOp (wfld v 0 32) s
  else if o = aClkWdog then wdogWrite v s
  else if aSecKey 0 ≤ o ∧ o < aSecKey 65 then
    let s := writeStored o v s
    if bitOf v.toNat 1 then rotateOp ((o - aSecKey 0) / 8) s else s
  else if o = aErrLogPop then logPopWrite v s
  else writeStored o v s
/-- A write of a TILE register over BAR0 (R213, R246, R422): the registers of the control core and the posts discard it. -/
def tileWrite (t o : Nat) (v : Word) (s : State) : State :=
  if 0x800 ≤ o ∧ o < 0xc00 then s
  else if o = 0x310 then placeFrees t v s
  else writeStored (0x2000000 + 0x4000 * t + o) v s
/-- A whole write of a register of the map (R12, R16, R600). -/
def writeReg (o : Nat) (v : Word) (s : State) : State :=
  if (regSpecAt o).isNone then s
  else if o < 0x100000 then
    (if o = aGlbHostCtrl then hostCtrlOp v s
     else if o = aGlbBar2Bst then bar2BstOp v s
     else if o = aGlbCellCtrl then cellStep (writeStored o v s)
     else writeStored o v s)
  else if o < 0x200000 then imgWrite o v s
  else if o < 0x300000 then pwrWrite o v s
  else if o < 0x1000000 then ctlWrite o v s
  else if o < 0x1400000 then
    let s' := writeStored o v s
    if (o - 0x1000000) % 0x10000 = 0 ∧ bitOf v.toNat 0 then retrainPort ((o - 0x1000000) / 0x10000) s' else s'
  else if o = aCollCtrl then collCtrlOp v s
  else if o = aBstFlush then bstFlushWrite v s
  else if 0x2000000 ≤ o ∧ o < 0x3000000 then tileWrite ((o - 0x2000000) / 0x4000) ((o - 0x2000000) % 0x4000) v s
  else if o = aNocCtrl then nocCtrlOp v s
  else writeStored o v s

/-! ### BAR0 accesses (R11, R563, R564, R605, R615) -/

/-- An access of R11: 8 bytes, 8-byte aligned, within BAR0. -/
def bar0Ok (off size : Nat) : Bool := decide (size = 8 ∧ off % 8 = 0 ∧ off < 0x4000000)
/-- The answer of the tile whose register is named, where it is not DONE (R34, R564, R615): BAR0 accesses never wake a domain, and an offset that no
register occupies completes normally (R16, R614). -/
def bar0Gate (s : State) (off : Nat) : Option Byte :=
  if off < 0x2000000 ∨ 0x3100000 ≤ off ∨ regSpecAt off = none then none
  else
    let i := (off - 0x2000000) / 0x4000
    let n := if i < 1024 then tileStation s i else (i - 1024) / 4 * 68 + (i - 1024) % 4 * 17 + tabGet 16 (i - 1024) s.solder
    if i < 1024 ∧ !unitExists s i then some cOff
    else if domSt s (n / 68) = .failed ∨ (i < 1024 ∧ stnFailed s n) then some cOff
    else if s.resets.any fun u => unitHas s u n then some cDefer
    else match domSt s (n / 68) with
      | .on => none
      | .draining => some cDefer
      | .ramping => some cDefer
      | _ => some cOff
/-- The host port answers requests: powered and not in D3hot (R562), with a free transaction entry that nothing waits for (R340). -/
def hostLive (s : State) : Bool := s.pins.powered && !s.host.d3hot && !hostFull s && s.host.wait.isEmpty
/-- A BAR0 access travels as MRD or MWR from station 1133 (R332, R351): one whose header is damaged is discarded, and its entry waits for R342. -/
def bar0Send (way : Transit) (a : HostAcc) (f : State → State) (s : State) : State :=
  let s := countCorrected way s
  if way.hdr ≠ .ok then hostHold false a (dropHeader { hostReq s (freeTxid s 1133) a with way := way } s) else f s

/-- A BAR0 write arrives at its register. -/
def bar0Write (off : Nat) (v : Word) (s : State) : State :=
  match bar0Gate s off with
  | none => writeReg off v s
  | some c =>
    if c = cDefer then hostWait { write := true, off := off, data := leBytes 8 v.toNat, epoch := linkEpoch s } s else bar0Refuse off c s
/-- The MRD or MWR that waits at family control under an entry of port `n` (R332, R406). -/
def linkReg (s : State) (n x op : Nat) : Option Packet :=
  (entryOf s (portStn n) x).bind fun e => if e.flight ∧ e.req.opcode.toNat = op ∧ e.req.dstStn = 1134 then some e.req else none
/-- A register access that arrived over a link is served at station 1134 and answered (R332, R333, R406): one that is not of an aligned 8-byte register of BAR0 with FORMAT_FAULT
(DESIGN CHOICE, log entry 29), one whose unit does not answer with the code of its state, else with DONE; `f` gives the state and the data. -/
def linkAccess (q : Packet) (f : State → State × List Byte) (s : State) : State :=
  let off := q.addr.toNat
  if !bar0Ok off 8 then answer 1134 q cFormat [] 0 0 s
  else match bar0Gate s off with
    | some c => answer 1134 q c [] 0 256 s
    | none => let r := f s; answer 1134 q cDone r.2 0 0 r.1
/-- A register write that arrived over a link, with the value in OPARG (R332). -/
def linkWrite (n x : Nat) (f : Nat → Word → State → State) (s : State) : State :=
  match linkReg s n x 0x21 with
  | some q => linkAccess q (fun s => (f q.addr.toNat (BitVec.ofNat 64 (leAt q.oparg 0 8)) s, [])) s
  | none => s
/-- A register read that arrived over a link (R332). -/
def linkRead (n x : Nat) (s : State) : State :=
  match linkReg s n x 0x20 with
  | some q => linkAccess q (fun s => (s, leBytes 8 (readReg s q.addr.toNat).toNat)) s
  | none => s

/-- REGISTER_WRITE (R11, R12, R212, R406, R605); for one from a link the value is that of its packet. -/
def execRegisterWrite (acc : RegAccess) (v : Word) (ep : Bool) (s : State) : Host.Outcome State Fault Refusal :=
  .next (match acc with
    | .bar0 off size way =>
      if !hostLive s then s
      else if !bar0Ok off size then { s with sent := .regUr off :: s.sent }
      else if ep then bar0Refuse off cPoison s
      else bar0Send way { write := true, off := off, data := leBytes 8 v.toNat, epoch := linkEpoch s } (bar0Write off v) s
    | .link n x => if s.pins.powered then linkWrite n.val x.toNat writeReg s else s
    | .sys t n => if s.pins.powered ∧ sysWritable t n.val then sysWrite t n.val v s else s)

/-- CLEAR of a counter: COUNT takes the events counted in the same cycle (R110). -/
def counterClearOp (off same : Nat) (s : State) : State :=
  match regSpecAt off with
  | some r => if r.isCounter then putF off 0 48 (min countMax same) s else s
  | none => s
/-- COUNTER_CLEAR (R110). -/
def execCounterClear (acc : RegAccess) (same : Nat) (s : State) : Host.Outcome State Fault Refusal :=
  .next (match acc with
    | .bar0 off size way =>
      if !hostLive s then s
      else if !bar0Ok off size then { s with sent := .regUr off :: s.sent }
      else bar0Send way { write := true, off := off, data := leBytes 8 (2 ^ 48), epoch := linkEpoch s } (fun s =>
        match bar0Gate s off with
        | none => counterClearOp off same s
        | some c => if c = cDefer then hostWait { write := true, off := off, data := leBytes 8 (2 ^ 48), epoch := linkEpoch s } s else bar0Refuse off c s) s
    | .link n x => if s.pins.powered then linkWrite n.val x.toNat (fun off v s => if bitOf v.toNat 48 then counterClearOp off same s else s) s else s
    | .sys t n => if s.pins.powered then counterClearOp (sysOff t n.val) same s else s)

/-- A BAR0 read arrives at its register. -/
def bar0Read (off : Nat) (s : State) : State :=
  match bar0Gate s off with
  | none => { s with sent := .reg off (readReg s off) :: s.sent }
  | some c =>
    if c = cDefer then hostWait { off := off, epoch := linkEpoch s } s
    else bar0Refuse off c { s with sent := .reg off (BitVec.allOnes 64) :: s.sent }
/-- MRD (R11, R12, R16, R332, R564). -/
def execMrd (acc : RegAccess) (s : State) : Host.Outcome State Fault Refusal :=
  .next (match acc with
    | .bar0 off size way =>
      if !hostLive s then s
      else if !bar0Ok off size then { s with sent := .regUr off :: s.sent }
      else bar0Send way { off := off, epoch := linkEpoch s } (bar0Read off) s
    | .link n x => if s.pins.powered then linkRead n.val x.toNat s else s
    | .sys t n => if s.pins.powered ∧ sysExists t n.val then { s with sent := .reg (sysOff t n.val) (readTileReg s t (8 * n.val)) :: s.sent } else s)

/-! ### Retries at a network interface (R341) -/

/-- A POST at its engine's station, by the station (R332). -/
def servePost (q : Packet) (s : State) : State :=
  if q.dstStn = 1132 then collServe q s else if q.dstStn = 1134 then digServe q s else solvServe (q.dstStn.toNat - 1088) q s
/-- A request goes out again under its entry, by its opcode. -/
def resend (q : Packet) (data : List Byte) (s : State) : State :=
  match q.opcode.toNat with
  | 1 => arrive 1 q [] (viaPort [] serveRd) s
  | 2 => arrive 2 q data (viaPort data fun q => serveWr q data) s
  | 3 => arrive 3 q [] (viaPort [] serveCrd) s
  | 4 => arrive 4 q data (viaPort data fun q => serveCwr q data) s
  | 5 => arrive 5 q [] (serveBrd true) s
  | 6 => arrive 6 q data (serveBwr data true) s
  | 7 => arrive 7 q [] servePost s
  | 0x22 => arrive 0x22 q [] serveReset s
  | _ => s
/-- DEFER_RETRY (R341): the request of an entry whose last answer was DEFER is sent again under the entry. That of a stream descriptor goes out with what the
descriptor then does (R198), that of the host with HOST_DEFER_RETRY (R563), and what came over a link is its sender's to retry. -/
def execDeferRetry (st : Station) (txid : BitVec 16) (s : State) : Host.Outcome State Fault Refusal :=
  .next (match entryOf s st.val txid.toNat with
    | none => s
    | some e =>
      if !e.deferred ∨ e.quar then s
      else match e.use with
        | .coll .. => collDispatch txid.toNat e s
        | .gather .. => collDispatch txid.toNat e s
        | .link .. => s
        | .host => s
        | .stream .. => putEntry st.val txid.toNat { e with deferred := false, flight := true } s
        | _ => resend e.req e.data s)

end Sys2Proof.Machine
end

