-- ==== Sys2Proof/Machine/Host.lean ====
section
/-!
DEFINITION. Machine/Host.lean: the host port: BAR2, retries, MSI-X, LTR, link, D-states and PERST_N (R559 to R575, R627).
-/
namespace Sys2Proof.Machine

/-! ### The function (R559, R560) -/

/-- The capabilities of the function (R559). -/
inductive HostCap
  | pciExpress | powerManagement | msix | aer | ltr | doe | serialNumber | secondaryPcie | physicalLayer16 | physicalLayer32 | physicalLayer64 | dataLinkFeature
deriving DecidableEq, Repr

/-- A base address register pair (R560): its first register, prefetchable or not, size in bytes. -/
structure HostBar where
  reg : Nat
  wide : Bool
  prefetchable : Bool
  size : Nat
deriving DecidableEq, Repr

/-- The configuration header and the capabilities of the function (R559). Transfer rates are in tenths of GT/s. -/
structure HostFunction where
  vendor : Nat
  device : Nat
  classCode : Nat
  rates : List Nat
  widths : List Nat
  laneReversal : Bool
  flitModeAt : Nat
  maxPayload : Nat
  caps : List HostCap
  bars : List HostBar
  serial : Nat
deriving DecidableEq, Repr

/-- What the configuration space of the function shows (R559, R560). -/
def hostFunction (s : State) : HostFunction where
  vendor := s.fuses.vendor
  device := if s.fuses.speedBin = 1 then 0x5314 else 0x5304
  classCode := 0x120000
  rates := [25, 50, 80, 160, 320, 640]
  widths := [16, 8, 4, 2, 1]
  laneReversal := true
  flitModeAt := 640
  maxPayload := 512
  caps := [.pciExpress, .powerManagement, .msix, .aer, .ltr, .doe, .serialNumber, .secondaryPcie, .physicalLayer16, .physicalLayer32, .physicalLayer64, .dataLinkFeature]
  bars := [⟨0, true, false, 2 ^ 26⟩, ⟨2, true, true, 2 ^ 36⟩, ⟨4, true, false, 2 ^ 16⟩]
  serial := s.fuses.serial

/-! ### BAR2 (R565 to R570) -/

/-- The pieces of an access at the 512-byte boundaries of its address (R570): offset in the access, and length. -/
def hostPieces (off len : Nat) : List (Nat × Nat) :=
  (List.range (len / 512 + 2)).filterMap fun i =>
    let lo := if i = 0 then off else (off / 512 + i) * 512
    let hi := min (off + len) ((off / 512 + i + 1) * 512)
    if lo < hi then some (lo - off, hi - lo) else none
/-- The admission of a scratchpad piece (R566): the code of a refusal. -/
def spAdmit (s : State) (write : Bool) (x n : Nat) : Option Byte :=
  let t := x / sliceBytes
  match ownerOf s t with
  | none => some cPart
  | some p =>
    if reg s aImgActive = 0 ∨ workBytes s p + collBytes s p < x % sliceBytes + n ∨ !bitOf (part s p).prec.hostWindow (b2n write) then some cPart else none
/-- The admission of a board-store piece (R567): the code of a refusal. -/
def bstAdmit (s : State) (write : Bool) (a n : Nat) : Option Byte :=
  if bstCapacity s < a + n then some cOff
  else
    let bad (A : Nat) : Bool := match linePart s A with | some p => !bitOf (part s p).prec.hostWindow (b2n write) | none => false
    if (List.range ((a + n - 1) / 128 - a / 128 + 1)).any fun i => bad (a / 128 + i) then some cPart else none
/-- The gates of the tiles that hold the cache sets of a range, the first that does not serve (R34, R298). -/
def cacheGate (a n : Nat) (s : State) : Option (Byte × Nat × State) :=
  (List.range ((a + n - 1) / 128 - a / 128 + 1)).findSome? fun i =>
    match lineSet s (a / 128 + i) with
    | some j => memGate (tileStation s (setTile s j)) 1 s
    | none => none

/-- A piece of a BAR2 read of the board store: the code, the bytes and whether they meet poison. -/
def hostBstRead (a n : Nat) (s : State) : State × Byte × List Byte × Bool :=
  match bstAdmit s false a n with
  | some c => (s, c, [], false)
  | none =>
    match cacheGate a n s with
    | some g => (g.2.2, g.1, [], false)
    | none =>
      match bstRead 0x40 0 a n s with
      | (s, r) => (s, if r.code = cPoison then cDone else r.code, r.bytes, decide (r.code = cPoison))
/-- A piece of a BAR2 read of the scratchpad. -/
def hostSpRead (x n : Nat) (s : State) : State × Byte × List Byte × Bool :=
  match spAdmit s false x n with
  | some c => (s, c, [], false)
  | none =>
    match unitGate (tileStation s (x / sliceBytes)) 1 s with
    | some g => (g.2.2, g.1, [], false)
    | none => (touchRange 1 x n s, cDone, memBytes s x n, anyBad s x n)
/-- A piece of a BAR2 read (R565). -/
def hostReadPiece (x n : Nat) (s : State) : State × Byte × List Byte × Bool :=
  if x < 2 ^ 35 then hostSpRead x n s else hostBstRead (bar2Addr s x) n s
/-- A piece of a BAR2 write of the board store: the code (R602). -/
def hostBstWrite (a : Nat) (bs : List Byte) (ep : Bool) (s : State) : State × Byte :=
  match bstAdmit s true a bs.length with
  | some c => (s, c)
  | none =>
    match cacheGate a bs.length s with
    | some g => (g.2.2, g.1)
    | none =>
      match bstWrite 0x40 0 a bs ep s with
      | (s, c) => (s, if c = cPoison then cDone else c)
/-- A piece of a BAR2 write of the scratchpad (R302). -/
def hostSpWrite (x : Nat) (bs : List Byte) (ep : Bool) (s : State) : State × Byte :=
  match spAdmit s true x bs.length with
  | some c => (s, c)
  | none =>
    match unitGate (tileStation s (x / sliceBytes)) 1 s with
    | some g => (g.2.2, g.1)
    | none => (if ep then spWriteMarked x bs s else spWrite 1 x bs s, cDone)
/-- A piece of a BAR2 write (R565). -/
def hostWritePiece (x : Nat) (bs : List Byte) (ep : Bool) (s : State) : State × Byte :=
  if x < 2 ^ 35 then hostSpWrite x bs ep s else hostBstWrite (bar2Addr s x) bs ep s

/-- Read the pieces in order until one is not served; the bytes are those of the pieces before it. -/
def hostReadPieces (off : Nat) : List (Nat × Nat) → State → State × Byte × List Byte × Bool
  | [], s => (s, cDone, [], false)
  | p :: r, s =>
    match hostReadPiece (off + p.1) p.2 s with
    | (s, c, bs, bad) =>
      if c ≠ cDone then (s, c, [], false)
      else match hostReadPieces off r s with
        | (s, c, bs', bad') => (s, c, bs ++ bs', bad || bad')
/-- Write the pieces in order while one of `free` entries is there for each: the pieces that are deferred, which keep theirs and are sent again, those that were not sent for
want of an entry (R340), and the last code that refuses one. -/
def hostWritePieces (off : Nat) (data : List Byte) (ep : Bool) : Nat → List (Nat × Nat) → State → State × List (Nat × Nat) × List (Nat × Nat) × Option Byte
  | _, [], s => (s, [], [], none)
  | 0, l, s => (s, [], l, none)
  | free + 1, p :: r, s =>
    let w := hostWritePiece (off + p.1) ((data.drop p.1).take p.2) ep s
    match hostWritePieces off data ep (if w.2 = cDefer then free else free + 1) r w.1 with
    | (s, later, rest, bad) =>
      if w.2 = cDone then (s, later, rest, bad)
      else if w.2 = cDefer then (s, p :: later, rest, bad)
      else (s, later, rest, match bad with | some c => some c | none => some w.2)

/-- A BAR2 read is sent into the package once every earlier BAR2 write is complete (R570). -/
def readBlocked (s : State) : Bool := (s.host.accs.any fun e => e.2.bar2 && e.2.write) || !s.host.wait.isEmpty
/-- A BAR2 read goes on with the pieces it has not read: it completes, ends with Completer Abort, or waits for the retry of a piece, with what it has read so far; data
of an earlier link epoch are discarded (R575). -/
def bar2ReadOp (a : HostAcc) (s : State) : State × Option HostAcc :=
  let off := a.off + a.data.length
  if readBlocked s then (s, some a)
  else
    match hostReadPieces off (hostPieces off (a.len - a.data.length)) s with
    | (s, c, bs, bad) =>
      let a := { a with data := a.data ++ bs, ep := a.ep || bad }
      if c = cDefer then (s, some a)
      else if a.epoch ≠ linkEpoch s then (s, none)
      else if c ≠ cDone then (bar2Refuse a.off false c s, none)
      else
        let s := if a.ep then stick aGlbHostStatus 18 s else s
        ({ s with sent := .bar2 a.off a.data a.ep :: s.sent }, none)
/-- The access that a piece of a write at offset `x` is. -/
def pieceAcc (s : State) (x : Nat) (bs : List Byte) (ep : Bool) : HostAcc := { bar2 := true, write := true, off := x, len := bs.length, data := bs, ep := ep, epoch := linkEpoch s }
/-- A BAR2 write: the pieces that are deferred wait for their retry, and those that find no free entry wait for one. -/
def bar2WriteOp (off : Nat) (data : List Byte) (ep : Bool) (s : State) : State :=
  match hostWritePieces off data ep (entryCap s 1133 - (niOf s 1133).entries.length) (hostPieces off data.length) s with
  | (s, later, rest, bad) =>
    let acc (p : Nat × Nat) : HostAcc := pieceAcc s (off + p.1) ((data.drop p.1).take p.2) ep
    let s := match bad with | some c => bar2Refuse off true c s | none => s
    modHost (fun h => { h with wait := h.wait ++ rest.map acc }) (later.foldl (fun s p => hostWait (acc p) s) s)
/-- The oldest piece that waits for an entry is sent, where one is free. -/
def hostNext (s : State) : State :=
  match s.host.wait with
  | [] => s
  | a :: r => if hostFull s then s else bar2WriteOp a.off a.data a.ep (modHost (fun h => { h with wait := r }) s)
/-- What waits at the host port for an entry goes on, as far as it can (R340). -/
def hostPump (s : State) : State := (List.range s.host.wait.length).foldl (fun s _ => hostNext s) s
/-- A packet of an access whose header is damaged on its way is discarded, and its entry waits for R342 (R351). -/
def hostLost (way : Transit) (a : HostAcc) (s : State) : State := hostHold false a (dropHeader { hostReq s (freeTxid s 1133) a with way := way } s)

/-- BAR2_READ (R351, R528, R565 to R570): an access is a wake cause. -/
def execBar2Read (off : Nat) (read : Bar2Read) (s : State) : Host.Outcome State Fault Refusal :=
  .next (
    if !hostLive s ∨ read.len = 0 ∨ 2 ^ 36 < off + read.len then s
    else
      let s := countCorrected read.way (wakeCause 1 s)
      let a : HostAcc := { bar2 := true, off := off, len := read.len, ep := read.ue, epoch := linkEpoch s }
      if read.way.hdr ≠ .ok then hostLost read.way a s
      else
        let r := bar2ReadOp a s
        match r.2 with | some a => hostWait a r.1 | none => r.1)
/-- BAR2_WRITE (R351, R528, R565 to R570, R602): an access is a wake cause. -/
def execBar2Write (off : Nat) (data : List Byte) (mark : Bar2Mark) (s : State) : Host.Outcome State Fault Refusal :=
  .next (
    if !hostLive s ∨ data = [] ∨ 2 ^ 36 < off + data.length then s
    else
      let s := countCorrected mark.way (wakeCause 1 s)
      let n := match hostPieces off data.length with | p :: _ => p.2 | [] => 0
      if mark.way.hdr = .ok then bar2WriteOp off data mark.ep s
      else
        let s := hostLost mark.way (pieceAcc s off (data.take n) mark.ep) s
        if data.drop n = [] then s else bar2WriteOp (off + n) (data.drop n) mark.ep s)

/-! ### Retries (R563, R564) -/

/-- HOST_DEFER_RETRY (R563, R575). -/
def execHostDeferRetry (txid : BitVec 16) (s : State) : Host.Outcome State Fault Refusal :=
  .next (match tabFind txid.toNat s.host.accs with
    | none => s
    | some a =>
      if !((entryOf s 1133 txid.toNat).getD {}).deferred then s
      else if a.bar2 then
        if a.write then
          match hostWritePieces a.off a.data a.ep 1 (hostPieces a.off a.data.length) s with
          | (s, later, _, bad) =>
            let s := if later.isEmpty then hostPump (hostTake txid.toNat s) else s
            match bad with | some c => bar2Refuse a.off true c s | none => s
        else
          let r := bar2ReadOp a s
          match r.2 with | some a => modHost (fun h => { h with accs := tabPut txid.toNat a h.accs }) r.1 | none => hostPump (hostTake txid.toNat r.1)
      else
        match bar0Gate s a.off with
        | some c =>
          if c = cDefer then s
          else
            let s := hostPump (hostTake txid.toNat s)
            if a.write then bar0Refuse a.off c s
            else if a.epoch ≠ linkEpoch s then s
            else bar0Refuse a.off c { s with sent := .reg a.off (BitVec.allOnes 64) :: s.sent }
        | none =>
          let s := hostPump (hostTake txid.toNat s)
          if a.write then writeReg a.off (BitVec.ofNat 64 (leVal a.data)) s
          else if a.epoch ≠ linkEpoch s then s
          else { s with sent := .reg a.off (readReg s a.off) :: s.sent })
/-- HOST_RETRY_LIMIT (R563, R564, R568): the access ends with its last answer, DEFER. -/
def execHostRetryLimit (txid : BitVec 16) (s : State) : Host.Outcome State Fault Refusal :=
  .next (match tabFind txid.toNat s.host.accs with
    | none => s
    | some a =>
      if !((entryOf s 1133 txid.toNat).getD {}).deferred then s else hostPump (hostEnd a cDefer (hostTake txid.toNat s)))

/-! ### Interrupts (R571, R573) -/

/-- HOST_IRQ (R571). -/
def execHostIrq (t : Tile) (vec : BitVec 5) (s : State) : Host.Outcome State Fault Refusal := .next (hostIrqOp t.val vec.toNat s)
/-- MSIX_UNMASK (R573): the vector is unmasked with MSI-X enabled, and a pending one is sent. -/
def execMsixUnmask (vec : BitVec 11) (s : State) : Host.Outcome State Fault Refusal :=
  .next (sendVec vec.toNat (modHost (fun h => { h with
    msixEnable := true
    msixMask := false
    unmasked := if h.unmasked.contains vec.toNat then h.unmasked else vec.toNat :: h.unmasked }) s))

/-! ### LTR (R561) -/

/-- PWR_LTR.REQ follows LTR Mechanism Enable and Value. -/
def ltrReq (s : State) : State := putB aPwrLtr 15 (s.host.ltrEnable && decide (s.host.ltrValue % 1024 ≠ 0)) s
/-- LTR_WRITE (R561): bits [9:0] are Value, bits [12:10] Scale. -/
def execLtrWrite (v : BitVec 16) (s : State) : Host.Outcome State Fault Refusal :=
  .next (
    let x := v.toNat % 2 ^ 13
    ltrReq (putF aPwrLtr 0 13 x (modHost (fun h => { h with ltrValue := x }) s)))
/-- LTR_ENABLE (R561). -/
def execLtrEnable (s : State) : Host.Outcome State Fault Refusal :=
  .next (if s.host.ltrEnable then s else ltrReq (modHost (fun h => { h with ltrEnable := true }) { s with sent := .ltr :: s.sent }))

/-! ### Link, PERST_N and D-states (R562, R574, R575, R627) -/

/-- The link is in DL_Up. -/
def linkUp (s : State) : Bool := getB s aGlbHostStatus 0
/-- The port may train: BOOT_13 has begun, PERST_N is high, and the package is not in the safe state (R553, R555, R627, R633). -/
def hostTrains (s : State) : Bool := s.pins.powered && !s.pins.perst && decide (13 ≤ s.boot.step) && decide (s.boot.now.outcome ≠ 3)
/-- DL_UP (R574, R627). -/
def execDlUp (s : State) : Host.Outcome State Fault Refusal :=
  .next (if !hostTrains s ∨ linkUp s then s
    else putF aGlbHostStatus 8 8 ((linkEpoch s + 1) % 256) (putB aGlbHostStatus 0 true (modHost (fun h => { h with pme := false }) s)))
/-- The link goes down (R574, R575). -/
def linkDown (s : State) : State := if !linkUp s then s else hostReset (if s.host.pme then s else stick aGlbHostStatus 19 s)
/-- DL_DOWN (R574, R575). -/
def execDlDown (s : State) : Host.Outcome State Fault Refusal := .next (linkDown s)
/-- PERST_ASSERT (R546, R627). -/
def execPerstAssert (s : State) : Host.Outcome State Fault Refusal := .next (hostReset (linkDown { s with pins := { s.pins with perst := true } }))
/-- PERST_DEASSERT (R627). -/
def execPerstDeassert (s : State) : Host.Outcome State Fault Refusal := .next { s with pins := { s.pins with perst := false } }
/-- D3HOT (R562). -/
def execD3hot (s : State) : Host.Outcome State Fault Refusal := .next (modHost (fun h => { h with d3hot := true }) s)
/-- D0 (R562). -/
def execD0 (s : State) : Host.Outcome State Fault Refusal := .next (modHost (fun h => { h with d3hot := false }) s)
/-- PME_TURN_OFF (R574). -/
def execPmeTurnOff (s : State) : Host.Outcome State Fault Refusal := .next (if linkUp s then modHost (fun h => { h with pme := true }) s else s)

end Sys2Proof.Machine
end

