-- ==== Sys2Proof/Machine/Idle.lean ====
section
/-!
DEFINITION. Machine/Idle.lean: what passes when no command waits: one tick (R536, R539), with the counts that advance in every tick (R472, R609) and the edges of the tile clocks (R496, R498; log entries 7, 25).
-/
namespace Sys2Proof.Machine

/-- A tile is inside a work item, also where its core issues nothing more after a second exception (R240), or waits at WNEXT while an item for it is queued (R609). -/
def wdogCounts (s : State) (p t : Nat) : Bool :=
  match (core s t).run with
  | .running => (core s t).item.isSome
  | .dead => (core s t).item.isSome
  | .waiting _ => (part s p).nq.any (itemFor (tileIndex s p t)) || (part s p).dq.any (itemFor (tileIndex s p t))
  | _ => false
/-- The partition-watchdog counts of a partition advance (R609). -/
def wdogTick (p : Nat) (s : State) : State :=
  if (part s p).st ≠ .running ∨ (collPart s p).fence then s
  else (part s p).prec.tiles.foldl (fun s t => if wdogCounts s p t then modCore t (fun c => { c with wdog := c.wdog + 1 }) s else s) s
/-- IMG_CLKLOW_p counts a tick in which a tile of the partition is clocked below the ceiling OP or with D below 16 (R472, R496, R510). -/
def clklowTick (p : Nat) (s : State) : State :=
  let on (t : Nat) : Bool := decide (domSt s (quadOf t) = .on ∨ domSt s (quadOf t) = .draining)
  if clocked s p ∧ !engineGated s ∧ ((part s p).prec.tiles.any on) ∧ ((pwrPart s p).op < partCeiling s ∨ s.pwr.duty < 16) then bump (aImgClklow p) 1 (aImgAudit p) 20 s else s
/-! ### Tile clocks (R496, R498) -/

/-- The frequency of an operating point in MHz (R495). -/
def opMhz (op : Nat) : Nat := if op < 10 then 600 + 100 * op else 1050 + 50 * op
/-- The partitions whose tiles are clocked. -/
def clockedParts (s : State) : List Nat := (List.range 64).filter (clocked s)
/-- The tiles of partition `p` on a die. -/
def tilesOn (s : State) (p d : Nat) : List Nat := (part s p).prec.tiles.filter fun t => decide (dieOf t = d)
/-- The frequency in MHz that a die's PLL is set to, that of the highest OP of the partitions with tiles there (R496); 0 where it does not run, as in PEWTER and DARK (R524). -/
def tclkMhz (d : Nat) (s : State) : Nat :=
  if s.pwr.sleep = .pewter ∨ s.pwr.sleep = .dark then 0
  else ((clockedParts s).filter fun p => !(tilesOn s p d).isEmpty).foldl (fun f p => max f (opMhz (pwrPart s p).op)) 0
/-- An edge of the PLL at a tile (R496, R498): the phase accumulator takes the partition's frequency and selects the edge where the sum reaches the PLL's; at a
selected edge the duty accumulator takes D, where that is below 16, and enables the edge where the sum reaches 16. -/
def edgeAt (f pll duty : Nat) (x : TileSt) : TileSt :=
  if x.phaseAcc + f < pll then { x with phaseAcc := x.phaseAcc + f }
  else { x with
    phaseAcc := x.phaseAcc + f - pll
    dutyAcc := if 16 ≤ duty then x.dutyAcc else if 16 ≤ x.dutyAcc + duty then x.dutyAcc + duty - 16 else x.dutyAcc + duty }
/-- Apply `f` to the tiles on a die whose quadrants have power, with their partition's frequency. -/
def onTiles (d : Nat) (f : Nat → TileSt → TileSt) (s : State) : State :=
  (clockedParts s).foldl (fun s p => (tilesOn s p d).foldl (fun s t =>
    if domSt s (quadOf t) = .on ∨ domSt s (quadOf t) = .draining then modTile t (f (opMhz (pwrPart s p).op)) s else s) s) s
/-- An edge of a die's PLL; in IDLE its output is gated (R524). -/
def pllEdge (d pll : Nat) (s : State) : State :=
  if engineGated s then s else onTiles d (fun f => edgeAt f pll s.pwr.duty) s
/-- The PLL of a die as it is now. -/
def pllOf (s : State) (d : Nat) : PllSt := tabGet {} d s.plls
/-- Put the PLL of a die. -/
def putPll (d : Nat) (x : PllSt) (s : State) : State := { s with plls := tabSet {} d x s.plls }
/-- One tick of a die's PLL, with the edges that fall in it (R496). A change of frequency takes effect at an edge of the old one, from which the new period runs, and
the accumulators keep their remainders modulo the new frequency. Where edges fall within a tick, and the rounding of the part of a period after a change, are the
model's (DESIGN CHOICE, log entry 25). -/
def pllTick (d : Nat) (s : State) : State :=
  let x := pllOf s d
  let f := tclkMhz d s
  let y := x.past + x.mhz
  if x.mhz = 0 then putPll d { mhz := f } s
  else if y < 1000 then putPll d { x with past := y } s
  else
    let s := (List.range (y / 1000)).foldl (fun s _ => pllEdge d x.mhz s) s
    if f = x.mhz then putPll d { x with past := y % 1000 } s
    else onTiles d (fun _ t => { t with phaseAcc := t.phaseAcc % f }) (putPll d { mhz := f, past := y % 1000 * f / x.mhz } s)
/-- One tick of the four PLLs. -/
def clockTick (s : State) : State := (List.range 4).foldl (fun s d => pllTick d s) s

/-! ### The tick -/

/-- The counter advances by one, with what counts its ticks. -/
def advance (s : State) : State :=
  let s := (List.range 64).foldl (fun s p => clklowTick p (wdogTick p s)) s
  { s with tick := (s.tick + 1) % 2 ^ 64 }
/-- A tick's count: during a half-rate catch-up every second tick counts, and a withheld count passes without one (R539). -/
def countTick (s : State) : State :=
  if s.clk.half ≠ 0 then
    if s.clk.held then { s with clk := { s.clk with held := false, half := s.clk.half - 1 } }
    else { advance s with clk := { s.clk with held := true } }
  else if s.clk.held then { s with clk := { s.clk with held := false } }
  else advance s
/-- What waits for a transaction entry, or for a place of a forwarding table, goes on in a tick that has one free (R26, R340, R414). -/
def waitTick (s : State) : State := collWake (hostPump (allPorts.foldl (fun s n => portPump n s) (recPump s)))
/-- One tick passes: what waits goes on, the PLLs run, and the tick counts; an unpowered package has no tick. -/
def idleTick (s : State) : State :=
  if !s.pins.powered then s
  else
    let z := waitTick (quietTick s)
    countTick (clockTick { z with tick := s.tick, clk := s.clk })

end Sys2Proof.Machine
end

