-- ==== Sys2Proof/Machine/Management.lean ====
section
/-!
DEFINITION. Machine/Management.lean: the management controller's I3C addresses, MCTP control commands and vendor commands (R576 to R579, R587, R588, R629, R633).
-/
namespace Sys2Proof.Machine

/-! ### I3C and MCTP control (R576, R577) -/

/-- The controller answers on its bus: not unpowered, and not while the ROM and firmware steps run (R633). -/
def busUp (s : State) : Bool := s.pins.powered && decide (2 < s.boot.step ∨ s.boot.now.outcome = 3)
/-- The controller takes MCTP messages: it has a dynamic address (R576). -/
def mctpUp (s : State) : Bool := busUp s && decide (s.mgt.addr ≠ 0)
/-- ENTDAA (R576): only a target without a dynamic address takes part. -/
def execEntdaa (addr : BitVec 7) (s : State) : Host.Outcome State Fault Refusal :=
  .next (if busUp s ∧ s.mgt.addr = 0 then modMgt (fun m => { m with addr := addr.toNat }) s else s)
/-- SETDASA (R576, R629): the static address is 0x58 plus the strap. -/
def execSetdasa (static dynamic : BitVec 7) (s : State) : Host.Outcome State Fault Refusal :=
  .next (if busUp s ∧ s.mgt.addr = 0 ∧ static.toNat = 0x58 + s.mgt.sa % 8 then modMgt (fun m => { m with addr := dynamic.toNat }) s else s)

/-- A response to an MCTP control command: command, completion code, data. -/
def ctlReply (cmd cc : Nat) (data : List Byte) (s : State) : State := mgmtReply 0 ([BitVec.ofNat 8 cmd, BitVec.ofNat 8 cc] ++ data) s
/-- SET_ENDPOINT_ID (R577); the null and broadcast identifiers are no assignment. -/
def execSetEndpointId (eid : Byte) (s : State) : Host.Outcome State Fault Refusal :=
  .next (
    if !mctpUp s then s
    else if eid = 0 ∨ eid = 0xFF then ctlReply 1 2 [] s
    else ctlReply 1 0 [eid] (modMgt (fun m => { m with eid := eid.toNat }) s))
/-- GET_ENDPOINT_ID (R577). -/
def execGetEndpointId (s : State) : Host.Outcome State Fault Refusal := .next (if mctpUp s then ctlReply 2 0 [BitVec.ofNat 8 s.mgt.eid] s else s)
/-- GET_MCTP_VERSION_SUPPORT (R577). -/
def execGetMctpVersionSupport (s : State) : Host.Outcome State Fault Refusal := .next (if mctpUp s then ctlReply 4 0 Config.mctpVersions s else s)
/-- The message types that the S4 accepts (R576). -/
def messageTypes : List Byte := [0x00, 0x01, 0x05, 0x06, 0x7F]
/-- GET_MESSAGE_TYPE_SUPPORT (R576, R577). -/
def execGetMessageTypeSupport (s : State) : Host.Outcome State Fault Refusal :=
  .next (if mctpUp s then ctlReply 5 0 (leBytes 1 messageTypes.length ++ messageTypes) s else s)
/-- GET_VENDOR_DEFINED_MSG_SUPPORT (R577, R578): the Otenus enterprise number. -/
def execGetVendorDefinedMsgSupport (s : State) : Host.Outcome State Fault Refusal :=
  .next (if mctpUp s then ctlReply 6 0 (leBytes 4 s.fuses.pen) s else s)

/-! ### Vendor commands (R578, R579) -/

/-- The vendor commands reach the controller. -/
def vdmUp (s : State) : Bool := mctpUp s && mgmtReady s

/-- The reset that a RESET begins; merged with a reset in progress, where a cold one prevails (R579). -/
def bmcReset (cold : Bool) (s : State) : State :=
  if inReset s && (s.boot.cold || !cold) then s
  else noteSensors (if cold then coldReset 3 true s else warmReset 4 s)
/-- RESET (R578, R579): the response is sent, then the reset begins. -/
def execReset (kind : Byte) (s : State) : Host.Outcome State Fault Refusal :=
  .next (
    if !vdmUp s then s
    else if 1 < kind.toNat then vdmReply 0x10 3 [] s
    else bmcReset (decide (kind = 1)) (vdmReply 0x10 0 [] s))
/-- WDOG_KICK (R552, R578). -/
def execWdogKick (s : State) : Host.Outcome State Fault Refusal := .next (if vdmUp s then vdmReply 0x11 0 [] (kickOp s) else s)
/-- Set LIMIT_W where it lies within its range, which bounds the shifted cap (R514, R520); `none` where it does not. -/
def setLimit (w : Nat) (s : State) : Option State :=
  if 1500 ≤ w ∧ w ≤ 5600 then some (noteSensors (modPwr (fun x => { x with limit := w, shiftCap := min x.shiftCap w }) s)) else none
/-- SET_BOARD_LIMIT (R514, R578). -/
def execSetBoardLimit (w : BitVec 16) (s : State) : Host.Outcome State Fault Refusal :=
  .next (if !vdmUp s then s else match setLimit w.toNat s with | some t => vdmReply 0x12 0 [] t | none => vdmReply 0x12 3 [] s)
/-- An event at the source side of the crossing from mclk to a die's tclk, `gap` ticks after the one before, lies within that one's period (R541, R542):
(f + 2) cycles of either clock, with three flops from 1,500 MHz. -/
def withinPeriod (mhz gap : Nat) : Bool :=
  let flops := if 1500 ≤ mhz then 3 else 2
  decide (gap * mhz < (flops + 2) * (4 * mhz + 1000))
/-- The die whose crossing merges a wake request with the one before (R543); the lowest one. The flops are those of the tclk with which that transfer began (R541). -/
def mergedAt (s : State) : Option Nat :=
  match s.clk.lastWake with
  | none => none
  | some t => (List.range 4).find? fun d => decide (tabGet 0 d s.clk.wakeMhz ≠ 0) && withinPeriod (tabGet 0 d s.clk.wakeMhz) (ticksAfter s.tick t)
/-- A crossing has merged two events (R543, R595). -/
def noteOverrun (n : Nat) (s : State) : State :=
  let s := if getB s aClkStatus 16 then s else putF aClkStatus 24 8 n s
  logEvent { event := 0x0D, sev := 1, detail := n % 256 } (putB aClkStatus 16 true s)
/-- A wake request of the management controller goes to the dies (R543); one that is merged with the request before it wakes nothing again. -/
def wakeRequest (s : State) : State :=
  match mergedAt s with
  | some d => noteOverrun (Config.wakeCrossing d) s
  | none => wakeCause 4 { s with clk := { s.clk with lastWake := some s.tick, wakeMhz := (List.range 4).foldl (fun t d => tabSet 0 d (tclkMhz d s) t) [] } }
/-- WAKE (R528, R543, R578). -/
def execWake (s : State) : Host.Outcome State Fault Refusal := .next (if vdmUp s then vdmReply 0x13 0 [] (noteSensors (wakeRequest s)) else s)

/-- The offsets that REG_READ reaches: GLB, PWR, CLK, MGT and ERR. -/
def regReadable (o : Nat) : Bool := decide (o % 8 = 0) && decide (o < 0x100000 ∨ (0x200000 ≤ o ∧ o < 0x400000) ∨ (0x500000 ≤ o ∧ o < 0x700000))
/-- REG_READ (R578): response bytes 8 to 15 hold the value. -/
def execRegRead (off : BitVec 32) (s : State) : Host.Outcome State Fault Refusal :=
  .next (
    if !vdmUp s then s
    else if !regReadable off.toNat then vdmReply 0x14 3 [] s
    else vdmReply 0x14 0 (List.replicate 6 0 ++ leBytes 8 (readReg s off.toNat).toNat) s)
/-- The registers that REG_WRITE writes. -/
def regWritable (o : Nat) : Bool := decide (o = aClkReset ∨ o = aClkBootCtrl ∨ o = aClkWdog ∨ o = aPwrTherm ∨ o = aGlbCellCtrl)
/-- REG_WRITE (R578). -/
def execRegWrite (off : BitVec 32) (v : Word) (s : State) : Host.Outcome State Fault Refusal :=
  .next (
    if !vdmUp s then s
    else if !regWritable off.toNat then vdmReply 0x15 3 [] s
    else writeReg off.toNat v (vdmReply 0x15 0 [] s))

/-! ### Secured vendor commands (R578, R584, R587, R588) -/

/-- The command came inside a secured session of the management path. -/
def inSession (secured : Bool) (s : State) : Bool := secured && s.sec.sessions.any fun x => x.open_ && !x.doe
/-- A secured command: not answered before the controller is ready, NOT_SECURE outside a session, else the result and the state that `f` gives. -/
def securedCmd (cmd : Nat) (secured : Bool) (f : State → Nat × State) (s : State) : State :=
  if !vdmUp s then s
  else if !inSession secured s then vdmReply cmd 4 [] s
  else let r := f s; vdmReply cmd r.1 [] r.2

/-- FABRIC_KEY (R588). -/
def fabricKeyOp (id : Nat) (key : List Byte) (s : State) : Nat × State :=
  if key.length ≠ 32 then (3, s) else (0, { s with sec := { s.sec with fabric := some (id, key) } })
/-- FABRIC_KEY (R578, R588). -/
def execFabricKey (secured : Bool) (id : BitVec 32) (key : List Byte) (s : State) : Host.Outcome State Fault Refusal :=
  .next (securedCmd 0x20 secured (fabricKeyOp id.toNat key) s)

/-- KEY_INSTALL (R587): STATE where the loaded image uses the slot. -/
def keyInstallOp (slot : Nat) (key : List Byte) (s : State) : Nat × State :=
  if 64 < slot ∨ key.length ≠ 64 then (3, s)
  else if slotBusy s slot then (5, s)
  else (0, { s with keys := tabPut slot key s.keys, sec := { s.sec with installed := if s.sec.installed.contains slot then s.sec.installed else slot :: s.sec.installed } })
/-- KEY_INSTALL (R578, R587). -/
def execKeyInstall (secured : Bool) (slot : Byte) (key : List Byte) (s : State) : Host.Outcome State Fault Refusal :=
  .next (securedCmd 0x21 secured (keyInstallOp slot.toNat key) s)

/-- OWNER_FUSE (R578, R584): only a blank owner slot is programmed. -/
def ownerFuseOp (slot : Nat) (hash : List Byte) (s : State) : Nat × State :=
  if 7 < slot ∨ hash.length ≠ 32 then (3, s)
  else if (tabFind (16 + slot) s.fuses.slots).isSome then (5, s)
  else (0, { s with fuses := { s.fuses with slots := tabPut (16 + slot) hash s.fuses.slots } })
/-- OWNER_FUSE (R578). -/
def execOwnerFuse (secured : Bool) (slot : Byte) (hash : List Byte) (s : State) : Host.Outcome State Fault Refusal :=
  .next (securedCmd 0x22 secured (ownerFuseOp slot.toNat hash) s)

/-- SVN_ADVANCE (R49, R578, R584): a fused minimum rises, and never falls. -/
def svnAdvanceOp (which : Nat) (s : State) : Nat × State :=
  match which with
  | 0 => (0, { s with fuses := { s.fuses with fwMin := max s.fuses.fwMin (imgSecVersion (tabGet [] s.boot.now.fwSlot s.flash.fw)) } })
  | 1 => if reg s aImgActive = 0 then (5, s) else (0, { s with fuses := { s.fuses with secMin := max s.fuses.secMin s.sec.imgVersion } })
  | _ => (3, s)
/-- SVN_ADVANCE (R578). -/
def execSvnAdvance (secured : Bool) (which : Byte) (s : State) : Host.Outcome State Fault Refusal :=
  .next (securedCmd 0x23 secured (svnAdvanceOp which.toNat) s)

end Sys2Proof.Machine
end

