-- ==== Sys2Proof/Machine/Pldm.lean ====
section
/-!
DEFINITION. Machine/Pldm.lean: PLDM types 0, 2 and 5: sensors, events and the update of boot flash (R580 to R583).
-/
namespace Sys2Proof.Machine

/-- A PLDM response: type, command, completion code (0 success, 1 error, 2 invalid data, 5 no such command), data. -/
def pldmReply (type cmd cc : Nat) (data : List Byte) (s : State) : State :=
  mgmtReply 1 ([BitVec.ofNat 8 type, BitVec.ofNat 8 cmd, BitVec.ofNat 8 cc] ++ data) s

/-! ### Type 0 (R580) -/

/-- GET_TID (R580). -/
def execGetTid (s : State) : Host.Outcome State Fault Refusal := .next (if vdmUp s then pldmReply 0 2 0 [BitVec.ofNat 8 s.mgt.tid] s else s)
/-- SET_TID (R580); the reserved identifiers 0 and 0xFF are no assignment. -/
def execSetTid (tid : Byte) (s : State) : Host.Outcome State Fault Refusal :=
  .next (
    if !vdmUp s then s
    else if tid = 0 ∨ tid = 0xFF then pldmReply 0 1 2 [] s
    else pldmReply 0 1 0 [] (modMgt (fun m => { m with tid := tid.toNat }) s))
/-- Major and minor version of a PLDM type (R580). -/
def pldmVersion (t : Nat) : Option (List Byte) :=
  match t with
  | 0 => some [1, 1, Config.pldmUpdate 0]
  | 2 => some [1, 2, Config.pldmUpdate 2]
  | 5 => some [1, 1, Config.pldmUpdate 5]
  | _ => none
/-- GET_PLDM_VERSION (R580). -/
def execGetPldmVersion (type : Byte) (s : State) : Host.Outcome State Fault Refusal :=
  .next (if !vdmUp s then s else match pldmVersion type.toNat with | some v => pldmReply 0 3 0 v s | none => pldmReply 0 3 2 [] s)
/-- GET_PLDM_TYPES (R580): types 0, 2 and 5 as a mask. -/
def execGetPldmTypes (s : State) : Host.Outcome State Fault Refusal := .next (if vdmUp s then pldmReply 0 4 0 (leBytes 8 (2 ^ 0 + 2 ^ 2 + 2 ^ 5)) s else s)
/-- The command codes of a PLDM type that the S4 implements (R580, R581, R583). -/
def pldmCommands (t : Nat) : Option (List Byte) :=
  match t with
  | 0 => some [1, 2, 3, 4, 5]
  | 2 => some [0x04, 0x0A, 0x11, 0x21, 0x31, 0x32, 0x51]
  | 5 => some [0x15, 0x17, 0x1A]
  | _ => none
/-- GET_PLDM_COMMANDS (R580). -/
def execGetPldmCommands (type : Byte) (s : State) : Host.Outcome State Fault Refusal :=
  .next (if !vdmUp s then s else match pldmCommands type.toNat with | some v => pldmReply 0 5 0 v s | none => pldmReply 0 5 2 [] s)

/-! ### Type 2 (R581, R582) -/

/-- GET_PDR (R581): a record for each sensor and the effecter, from handle 1; handle 0 asks for the first. The next handle is 0 after the last. -/
def execGetPdr (handle : BitVec 32) (s : State) : Host.Outcome State Fault Refusal :=
  .next (
    let h := max 1 handle.toNat
    if !vdmUp s then s
    else if 33 < h then pldmReply 2 0x51 2 [] s
    else pldmReply 2 0x51 0 (leBytes 4 (if h = 33 then 0 else h + 1) ++ Config.pdr h) s)
/-- A numeric sensor (R581): watts for 1 to 6, degrees for 7 to 27. -/
def numericSensor (s : State) (i : Nat) : Option Nat :=
  if i = 1 then some (s.pwr.pm / 1000)
  else if 2 ≤ i ∧ i ≤ 5 then some (s.pwr.core.getD (i - 2) 0 / 1000)
  else if i = 6 then some (s.pwr.aux / 1000)
  else if i = 7 then some (hottest s)
  else if 8 ≤ i ∧ i ≤ 23 then some (s.pwr.quads.getD (i - 8) 0)
  else if 24 ≤ i ∧ i ≤ 27 then some (s.pwr.mems.getD (i - 24) 0)
  else none
/-- GET_SENSOR_READING (R581). -/
def execGetSensorReading (id : Nat) (s : State) : Host.Outcome State Fault Refusal :=
  .next (if !vdmUp s then s else match numericSensor s id with | some v => pldmReply 2 0x11 0 (leBytes 4 v) s | none => pldmReply 2 0x11 2 [] s)
/-- GET_STATE_SENSOR_READINGS (R581). -/
def execGetStateSensorReadings (id : Nat) (s : State) : Host.Outcome State Fault Refusal :=
  .next (if !vdmUp s then s else if 28 ≤ id ∧ id ≤ 32 then pldmReply 2 0x21 0 (leBytes 8 (stateSensor s id)) s else pldmReply 2 0x21 2 [] s)
/-- SET_NUMERIC_EFFECTER_VALUE (R514, R581): effecter 1 is LIMIT_W. -/
def execSetNumericEffecterValue (id : Nat) (v : BitVec 16) (s : State) : Host.Outcome State Fault Refusal :=
  .next (
    if !vdmUp s then s
    else match (if id = 1 then setLimit v.toNat s else none) with | some t => pldmReply 2 0x31 0 [] t | none => pldmReply 2 0x31 2 [] s)
/-- GET_NUMERIC_EFFECTER_VALUE (R581). -/
def execGetNumericEffecterValue (id : Nat) (s : State) : Host.Outcome State Fault Refusal :=
  .next (if !vdmUp s then s else if id = 1 then pldmReply 2 0x32 0 (leBytes 2 s.pwr.limit) s else pldmReply 2 0x32 2 [] s)
/-- SET_EVENT_RECEIVER (R581, R582). -/
def execSetEventReceiver (eid : Byte) (s : State) : Host.Outcome State Fault Refusal :=
  .next (if vdmUp s then pldmReply 2 4 0 [] (modMgt (fun m => { m with receiver := eid.toNat }) s) else s)
/-- PLATFORM_EVENT_ACK (R582): no more retries. -/
def execPlatformEventAck (id : Nat) (s : State) : Host.Outcome State Fault Refusal :=
  .next (if vdmUp s then modMgt (fun m => { m with events := m.events.filter fun e => e.sensor ≠ id }) s else s)
/-- PLDM_EVENT_RETRY (R582): 500 ms without an acknowledgement; sent again up to three times, with the latest state. -/
def execPldmEventRetry (id : Nat) (s : State) : Host.Outcome State Fault Refusal :=
  .next (
    match s.mgt.events.find? fun e => e.sensor = id with
    | none => s
    | some e =>
      if 4 ≤ e.sends then modMgt (fun m => { m with events := m.events.filter fun e => e.sensor ≠ id }) s
      else
        let s := modMgt (fun m => { m with events := m.events.map fun e => if e.sensor = id then { e with sends := e.sends + 1 } else e }) s
        { s with sent := eventMsg s id :: s.sent })

/-! ### Type 5 (R583, R585, R632) -/

/-- The bytes of a component's region of boot flash (R632). -/
def compSize (c : Nat) : Nat := match c with | 1 => 0x1000000 | 2 => 0x6000000 | _ => 0x10000
/-- The firmware slot not in use. -/
def freeFw (s : State) : Nat := 1 - s.boot.now.fwSlot
/-- The image slot that the board description does not name. -/
def freeImg (s : State) : Nat := match s.board.imageSlot with | some k => 1 - k | none => 0
/-- What boot flash holds of a component being received. -/
def compBytes (c : Nat) (s : State) : List Byte :=
  match c with | 1 => tabGet [] (freeFw s) s.flash.fw | 2 => tabGet [] (freeImg s) s.flash.imgs | _ => s.flash.staged
/-- Put a component's bytes into its place: the firmware slot not in use, the image slot not named, or beside the board description in force. -/
def putComp (c : Nat) (b : List Byte) (s : State) : State :=
  { s with flash := match c with
    | 1 => { s.flash with fw := tabSet [] (freeFw s) b s.flash.fw }
    | 2 => { s.flash with imgs := tabSet [] (freeImg s) b s.flash.imgs }
    | _ => { s.flash with staged := b } }
/-- REQUEST_FIRMWARE_DATA (R583): a block of at most 1,024 bytes; the first one of a component empties its place. -/
def execRequestFirmwareData (comp : BitVec 16) (block : List Byte) (s : State) : Host.Outcome State Fault Refusal :=
  .next (
    let c := comp.toNat
    if !vdmUp s ∨ c < 1 ∨ 3 < c ∨ 1024 < block.length ∨ block = [] then s
    else
      let n := match s.mgt.update with | some u => if u.1 = c then u.2 else 0 | none => 0
      let b := (if n = 0 then [] else compBytes c s) ++ block
      modMgt (fun m => { m with update := some (c, n + block.length), verified := none }) (putComp c (b.take (compSize c)) s))

/-- A header with its KIND and a signature of the vendor table (R585, R632). -/
def vendorFails (s : State) (magic kind : Nat) (b : List Byte) : Bool :=
  (headerFails s magic b).isSome || decide (imgKind b ≠ kind) || (layoutFails b).isSome || (sigFails s 0 (imgMessage b) (lastSec b)).isSome
/-- The verification of a component (R583): an image by the verify pass without what needs a loaded image. -/
def compFails (c : Nat) (b : List Byte) (s : State) : Bool :=
  match c with
  | 1 => vendorFails s 0x574D464F 0x10 b || decide (imgSecVersion b < s.fuses.fwMin)
  | 2 => (imageFails (setReg aImgActive (BitVec.ofNat 64 (imgBase b)) { s with parts := [] }) none b).isSome
  | _ => vendorFails s 0x44524442 0x20 b || !Config.boardCrcOk b
/-- FIRMWARE_VERIFY (R583): VerifyComplete with 0 for success; nothing changes where it fails. -/
def execFirmwareVerify (s : State) : Host.Outcome State Fault Refusal :=
  .next (
    match s.mgt.update with
    | none => s
    | some u =>
      if !vdmUp s then s
      else
        let bad := decide (compSize u.1 < u.2) || compFails u.1 (compBytes u.1 s) s
        pldmReply 5 0x17 (b2n bad) [] (modMgt (fun m => { m with update := none, verified := if bad then none else some u.1 }) s))
/-- ACTIVATE_FIRMWARE (R583): which slot the next reset, BOOT_15 or cold reset uses; no reset starts. -/
def execActivateFirmware (s : State) : Host.Outcome State Fault Refusal :=
  .next (
    if !vdmUp s then s
    else match s.mgt.verified with
      | none => pldmReply 5 0x1A 1 [] s
      | some c =>
        let s := { s with flash := match c with
          | 1 => { s.flash with fwNext := freeFw s }
          | 2 => { s.flash with imgNext := some (freeImg s) }
          | _ => { s.flash with boardNext := some s.flash.staged } }
        pldmReply 5 0x1A 0 [] (modMgt (fun m => { m with verified := none }) s))

end Sys2Proof.Machine
end

