-- ==== Sys2Proof/Machine/Scratchpad.lean ====
section
/-!
DEFINITION. Machine/Scratchpad.lean: the patrol scrub of a slice (R303).
-/
namespace Sys2Proof.Machine

/-- The granules of a slice (R291, R303). -/
def scrubGranules : Nat := 65536

/-- SCRUB_READ: the next granule is read; its corrected words wait to be written back (R300, R301, R303). -/
def execScrubRead (t : Tile) (s : State) : Host.Outcome State Fault Refusal :=
  .next (
    let g := (tile s t).scrubPos
    let ws := wordsOf (pkgAddr t (512 * g)) 512
    let fix := ws.filter fun w => eccOf s w = some .single
    modTile t (fun x => { x with scrubPos := (g + 1) % scrubGranules, scrubFix := x.scrubFix ++ fix }) (touchWords 3 ws s))

/-- SCRUB_WRITE: the oldest corrected word is written back with fresh check bits; a word written since is left (R303). -/
def execScrubWrite (t : Tile) (s : State) : Host.Outcome State Fault Refusal :=
  .next (match (tile s t).scrubFix with
    | [] => s
    | w :: r =>
      let s' := modTile t (fun x => { x with scrubFix := r }) s
      if eccOf s w = some .single then cleanWord w s' else s')

end Sys2Proof.Machine
end

