-- ==== Sys2Proof/Machine/Spdm.lean ====
section
/-!
DEFINITION. Machine/Spdm.lean: the SPDM responder on MCTP and through DOE (R589, R590).
-/
namespace Sys2Proof.Machine

/-- The responder is reached: over MCTP as the other types are, through DOE by configuration requests, which D3hot does not stop (R562). -/
def spdmUp (path : SpdmPath) (s : State) : Bool := match path with | .mctp => vdmUp s | .doe => s.pins.powered && !s.pins.perst
/-- An SPDM message sent on a path. -/
def spdmReply (path : SpdmPath) (body : List Byte) (s : State) : State :=
  match path with | .mctp => mgmtReply 5 body s | .doe => { s with sent := .doe body :: s.sent }
/-- An ERROR response: 1 invalid request, 2 invalid session, 3 Busy. -/
def spdmError (path : SpdmPath) (code : Nat) (s : State) : State := spdmReply path [0x7F, BitVec.ofNat 8 code] s
/-- Serve a request on a path. -/
def serveSpdm (path : SpdmPath) (f : State → State) (s : State) : State := if spdmUp path s then f s else s

/-- GET_VERSION (R589): 1.0 to 1.3. -/
def execGetVersion (path : SpdmPath) (s : State) : Host.Outcome State Fault Refusal := .next (serveSpdm path (spdmReply path [0x04, 4, 0x10, 0x11, 0x12, 0x13]) s)
/-- The capabilities CERT, CHAL, MEAS with signature, ENCRYPT, MAC, KEY_EX, HBEAT and KEY_UPD (R589). -/
def spdmCaps : Nat := 2 ^ 1 + 2 ^ 2 + 2 * 2 ^ 3 + 2 ^ 6 + 2 ^ 7 + 2 ^ 9 + 2 ^ 13 + 2 ^ 14
/-- GET_CAPABILITIES (R589). -/
def execGetCapabilities (path : SpdmPath) (s : State) : Host.Outcome State Fault Refusal := .next (serveSpdm path (spdmReply path (0x61 :: leBytes 4 spdmCaps)) s)
/-- The algorithms offered, by name: ECDSA P-384, SHA3-256 for BaseHash and measurements, secp384r1, AES-256-GCM (R589). -/
def spdmAlgs : List Byte := [1, 2, 2, 3, 4]
/-- The number of a path. -/
def pathNum : SpdmPath → Nat | .mctp => 0 | .doe => 1
/-- NEGOTIATE_ALGORITHMS (R589): the S4 selects what it offers, whatever else the request lists. -/
def execNegotiateAlgorithms (path : SpdmPath) (algs : List Byte) (s : State) : Host.Outcome State Fault Refusal :=
  .next (serveSpdm path (fun s =>
    let pick := spdmAlgs.filter fun a => algs.contains a
    spdmReply path (0x63 :: pick) { s with sec := { s.sec with algs := tabSet [] (pathNum path) pick s.sec.algs } }) s)

/-! ### Certificates and measurements (R590) -/

/-- The measurement of the firmware slot in use. -/
def fwMeasure (s : State) : List Byte := sha3 (tabGet [] s.boot.now.fwSlot s.flash.fw)
/-- The certificate chain of a slot: the alias key of slot 1 follows from the device secret and the firmware measurement. -/
def chainOf (slot : Nat) (s : State) : List Byte := Config.certChain slot s.fuses.secret (if slot = 1 then fwMeasure s else [])
/-- GET_DIGESTS (R589). -/
def execGetDigests (path : SpdmPath) (s : State) : Host.Outcome State Fault Refusal :=
  .next (serveSpdm path (fun s => spdmReply path ([0x01, 3] ++ sha3 (chainOf 0 s) ++ sha3 (chainOf 1 s)) s) s)
/-- GET_CERTIFICATE (R590). -/
def execGetCertificate (path : SpdmPath) (slot : Byte) (s : State) : Host.Outcome State Fault Refusal :=
  .next (serveSpdm path (fun s => if 1 < slot.toNat then spdmError path 1 s else spdmReply path ([0x02, slot] ++ chainOf slot.toNat s) s) s)
/-- CHALLENGE (R589): signed with the slot's key. -/
def execChallenge (path : SpdmPath) (slot : Byte) (nonce : List Byte) (s : State) : Host.Outcome State Fault Refusal :=
  .next (serveSpdm path (fun s =>
    if 1 < slot.toNat then spdmError path 1 s
    else
      let m := [0x03, slot] ++ sha3 (chainOf slot.toNat s) ++ nonce
      spdmReply path (m ++ Config.sign slot.toNat s.fuses.secret m) s) s)

/-- A step entry of a journal record (R557). -/
def entBytes (k : Nat) (e : StepEnt) : List Byte := leBytes 1 k ++ leBytes 1 e.result ++ leBytes 1 e.alt ++ leBytes 1 e.fails ++ leBytes 4 e.mask ++ leBytes 8 e.start ++ leBytes 8 e.stop
/-- A journal record (R557). -/
def recBytes (r : JRec) : List Byte :=
  let b := leBytes 4 0x4C4E524A ++ leBytes 4 r.seq ++ leBytes 1 1 ++ leBytes 1 r.cause ++ leBytes 1 r.fwSlot ++ leBytes 1 r.outcome
    ++ (List.range 4).flatMap (fun d => leBytes 1 (r.opLimit.getD d 15)) ++ List.replicate 48 0
    ++ (List.range 16).flatMap (fun i => entBytes (i + 1) (tabGet {} (i + 1) r.steps)) ++ List.replicate 60 0
  b ++ leBytes 4 (Config.crc32 b)
/-- The fuse state of measurement 3: key slots, revocations, security minimums. -/
def fuseBytes (s : State) : List Byte :=
  let ks := (List.range 4) ++ (List.range 8).map (16 + ·)
  ks.flatMap (fun k => tabGet (List.replicate 32 0) k s.fuses.slots) ++ ks.flatMap (fun k => leBytes 1 (b2n (s.fuses.revoked.contains k))) ++ leBytes 4 s.fuses.fwMin ++ leBytes 4 s.fuses.secMin
/-- Measurement 5: IMAGE_ID and the hash of the loaded image, or zeros. -/
def imageMeasure (s : State) : List Byte := if reg s aImgActive = 0 then List.replicate 40 0 else s.sec.measured
/-- A measurement (R590). -/
def measurement (s : State) (i : Nat) : List Byte :=
  match i with
  | 1 => Config.romMeasure
  | 2 => fwMeasure s ++ leBytes 4 (imgSecVersion (tabGet [] s.boot.now.fwSlot s.flash.fw))
  | 3 => sha3 (fuseBytes s)
  | 4 => sha3 s.flash.board
  | 5 => imageMeasure s
  | 6 => recBytes ((journalRead s.flash).headD s.boot.now)
  | _ => []
/-- The measurements that an index asks for: none of them for the number, one, or all for 0xFF. -/
def measureList (i : Nat) : Option (List Nat) :=
  if i = 0 then some [] else if 1 ≤ i ∧ i ≤ 6 then some [i] else if i = 0xFF then some [1, 2, 3, 4, 5, 6] else none
/-- GET_MEASUREMENTS (R589, R590): with a signature of slot 0's key. -/
def execGetMeasurements (path : SpdmPath) (index : Byte) (nonce : List Byte) (s : State) : Host.Outcome State Fault Refusal :=
  .next (serveSpdm path (fun s =>
    match measureList index.toNat with
    | none => spdmError path 1 s
    | some is =>
      let m := [0x60, 6] ++ is.flatMap (fun i => leBytes 1 i ++ measurement s i) ++ nonce
      spdmReply path (m ++ Config.sign 0 s.fuses.secret m) s) s)

/-! ### Sessions (R589) -/

/-- A session is one of a path. -/
def onPath (path : SpdmPath) (x : Session) : Bool := x.doe == decide (path = .doe)
/-- The sessions of a path. -/
def sessionsOn (path : SpdmPath) (s : State) : List Session := s.sec.sessions.filter (onPath path)
/-- KEY_EXCHANGE (R589): Busy beyond two sessions of a path. -/
def execKeyExchange (path : SpdmPath) (slot : Byte) (data : List Byte) (s : State) : Host.Outcome State Fault Refusal :=
  .next (serveSpdm path (fun s =>
    if 2 ≤ (sessionsOn path s).length then spdmError path 3 s
    else if 1 < slot.toNat then spdmError path 1 s
    else
      let sid := s.sec.nextSid
      let m := [0x64, slot] ++ leBytes 2 sid ++ Config.exchange sid data
      spdmReply path (m ++ Config.sign slot.toNat s.fuses.secret (data ++ m))
        { s with sec := { s.sec with nextSid := sid + 1, sessions := s.sec.sessions ++ [{ doe := decide (path = .doe), sid := sid }] } }) s)
/-- Serve a request within a session of the path. -/
def inSpdm (path : SpdmPath) (sid : Nat) (open_ : Bool) (f : Session → Option Session) (code : Byte) (s : State) : State :=
  if (sessionsOn path s).any (fun x => x.sid = sid && x.open_ == open_) then
    spdmReply path [code] { s with sec := { s.sec with sessions := s.sec.sessions.filterMap fun x => if onPath path x && decide (x.sid = sid) then f x else some x } }
  else spdmError path 2 s
/-- FINISH (R589): the handshake completes. -/
def execFinish (path : SpdmPath) (sid : Nat) (s : State) : Host.Outcome State Fault Refusal :=
  .next (serveSpdm path (inSpdm path sid false (fun x => some { x with open_ := true }) 0x65) s)
/-- HEARTBEAT (R589). -/
def execHeartbeat (path : SpdmPath) (sid : Nat) (s : State) : Host.Outcome State Fault Refusal := .next (serveSpdm path (inSpdm path sid true some 0x68) s)
/-- KEY_UPDATE (R589). -/
def execKeyUpdate (path : SpdmPath) (sid : Nat) (s : State) : Host.Outcome State Fault Refusal :=
  .next (serveSpdm path (inSpdm path sid true (fun x => some { x with updates := x.updates + 1 }) 0x69) s)
/-- END_SESSION (R589). -/
def execEndSession (path : SpdmPath) (sid : Nat) (s : State) : Host.Outcome State Fault Refusal := .next (serveSpdm path (inSpdm path sid true (fun _ => none) 0x6C) s)

end Sys2Proof.Machine
end

