-- ==== Sys2Proof/Machine/Dispatch.lean ====
section
/-!
DEFINITION. Machine/Dispatch.lean: one arm for each command.
-/
namespace Sys2Proof.Machine

/-- The effect of a command on everything but the queue. -/
def exec (i : Instr) (s : State) : Host.Outcome State Fault Refusal :=
  match i with
  | .registerWrite acc v ep => Sys2Proof.Machine.execRegisterWrite acc v ep s
  | .counterClear acc same => Sys2Proof.Machine.execCounterClear acc same s
  | .imgStart img srcErr => Sys2Proof.Machine.execImgStart img srcErr s
  | .imgAbort => Sys2Proof.Machine.execImgAbort s
  | .verifyEnd => Sys2Proof.Machine.execVerifyEnd s
  | .applyEnd img srcErr => Sys2Proof.Machine.execApplyEnd img srcErr s
  | .partRun p => Sys2Proof.Machine.execPartRun p s
  | .partStop p => Sys2Proof.Machine.execPartStop p s
  | .partStopped p => Sys2Proof.Machine.execPartStopped p s
  | .partWdogExpire t => Sys2Proof.Machine.execPartWdogExpire t s
  | .mxDescStart t parity => Sys2Proof.Machine.execMxDescStart t parity s
  | .mxChunkEnd t => Sys2Proof.Machine.execMxChunkEnd t s
  | .mxDescDone t stall => Sys2Proof.Machine.execMxDescDone t stall s
  | .mxSkipDone t => Sys2Proof.Machine.execMxSkipDone t s
  | .accSlotFree t mask => Sys2Proof.Machine.execAccSlotFree t mask s
  | .accFreeEffect t slot => Sys2Proof.Machine.execAccFreeEffect t slot s
  | .strmDescStart t parity => Sys2Proof.Machine.execStrmDescStart t parity s
  | .strmDescDone t run => Sys2Proof.Machine.execStrmDescDone t run s
  | .strmDescFaultEnd t ending place run => Sys2Proof.Machine.execStrmDescFaultEnd t ending place run s
  | .strmSkipDone t => Sys2Proof.Machine.execStrmSkipDone t s
  | .interruptEntry t => Sys2Proof.Machine.execInterruptEntry t s
  | .add t d a b => Sys2Proof.Machine.execAdd t d a b s
  | .sub t d a b => Sys2Proof.Machine.execSub t d a b s
  | .and t d a b => Sys2Proof.Machine.execAnd t d a b s
  | .or t d a b => Sys2Proof.Machine.execOr t d a b s
  | .xor t d a b => Sys2Proof.Machine.execXor t d a b s
  | .sll t d a b => Sys2Proof.Machine.execSll t d a b s
  | .srl t d a b => Sys2Proof.Machine.execSrl t d a b s
  | .sra t d a b => Sys2Proof.Machine.execSra t d a b s
  | .slt t d a b => Sys2Proof.Machine.execSlt t d a b s
  | .sltu t d a b => Sys2Proof.Machine.execSltu t d a b s
  | .min t d a b => Sys2Proof.Machine.execMin t d a b s
  | .max t d a b => Sys2Proof.Machine.execMax t d a b s
  | .minu t d a b => Sys2Proof.Machine.execMinu t d a b s
  | .maxu t d a b => Sys2Proof.Machine.execMaxu t d a b s
  | .mul t d a b => Sys2Proof.Machine.execMul t d a b s
  | .mulhi t d a b => Sys2Proof.Machine.execMulhi t d a b s
  | .mulhiu t d a b => Sys2Proof.Machine.execMulhiu t d a b s
  | .mulhim t d a b => Sys2Proof.Machine.execMulhim t d a b s
  | .div t d a b => Sys2Proof.Machine.execDiv t d a b s
  | .divu t d a b => Sys2Proof.Machine.execDivu t d a b s
  | .rem t d a b => Sys2Proof.Machine.execRem t d a b s
  | .remu t d a b => Sys2Proof.Machine.execRemu t d a b s
  | .sext8 t d a => Sys2Proof.Machine.execSext8 t d a s
  | .sext16 t d a => Sys2Proof.Machine.execSext16 t d a s
  | .sext32 t d a => Sys2Proof.Machine.execSext32 t d a s
  | .addi t d a imm => Sys2Proof.Machine.execAddi t d a imm s
  | .upperImmediate t d imm => Sys2Proof.Machine.execUpperImmediate t d imm s
  | .andi t d a imm => Sys2Proof.Machine.execAndi t d a imm s
  | .ori t d a imm => Sys2Proof.Machine.execOri t d a imm s
  | .xori t d a imm => Sys2Proof.Machine.execXori t d a imm s
  | .slti t d a imm => Sys2Proof.Machine.execSlti t d a imm s
  | .sltiu t d a imm => Sys2Proof.Machine.execSltiu t d a imm s
  | .slli t d a amt => Sys2Proof.Machine.execSlli t d a amt s
  | .srli t d a amt => Sys2Proof.Machine.execSrli t d a amt s
  | .srai t d a amt => Sys2Proof.Machine.execSrai t d a amt s
  | .load64 t d a imm => Sys2Proof.Machine.execLoad64 t d a imm s
  | .load32 t d a imm => Sys2Proof.Machine.execLoad32 t d a imm s
  | .load16 t d a imm => Sys2Proof.Machine.execLoad16 t d a imm s
  | .load8 t d a imm => Sys2Proof.Machine.execLoad8 t d a imm s
  | .store64 t d a imm => Sys2Proof.Machine.execStore64 t d a imm s
  | .store32 t d a imm => Sys2Proof.Machine.execStore32 t d a imm s
  | .store16 t d a imm => Sys2Proof.Machine.execStore16 t d a imm s
  | .store8 t d a imm => Sys2Proof.Machine.execStore8 t d a imm s
  | .beq t a b off => Sys2Proof.Machine.execBeq t a b off s
  | .bne t a b off => Sys2Proof.Machine.execBne t a b off s
  | .blt t a b off => Sys2Proof.Machine.execBlt t a b off s
  | .bge t a b off => Sys2Proof.Machine.execBge t a b off s
  | .bltu t a b off => Sys2Proof.Machine.execBltu t a b off s
  | .bgeu t a b off => Sys2Proof.Machine.execBgeu t a b off s
  | .jal t d imm => Sys2Proof.Machine.execJal t d imm s
  | .jr t d a imm => Sys2Proof.Machine.execJr t d a imm s
  | .sysr t d a => Sys2Proof.Machine.execSysr t d a s
  | .sysw t a b => Sys2Proof.Machine.execSysw t a b s
  | .retx t => Sys2Proof.Machine.execRetx t s
  | .brk t => Sys2Proof.Machine.execBrk t s
  | .isync t => Sys2Proof.Machine.execIsync t s
  | .wnext t d => Sys2Proof.Machine.execWnext t d s
  | .waitm t d a => Sys2Proof.Machine.execWaitm t d a s
  | .waits t d a => Sys2Proof.Machine.execWaits t d a s
  | .waitall t => Sys2Proof.Machine.execWaitall t s
  | .mxi t d a b => Sys2Proof.Machine.execMxi t d a b s
  | .sti t d a => Sys2Proof.Machine.execSti t d a s
  | .vadd t vd va vb m sew => Sys2Proof.Machine.execVadd t vd va vb m sew s
  | .vsub t vd va vb m sew => Sys2Proof.Machine.execVsub t vd va vb m sew s
  | .vmul t vd va vb m sew => Sys2Proof.Machine.execVmul t vd va vb m sew s
  | .vmin t vd va vb m sew => Sys2Proof.Machine.execVmin t vd va vb m sew s
  | .vminu t vd va vb m sew => Sys2Proof.Machine.execVminu t vd va vb m sew s
  | .vmax t vd va vb m sew => Sys2Proof.Machine.execVmax t vd va vb m sew s
  | .vmaxu t vd va vb m sew => Sys2Proof.Machine.execVmaxu t vd va vb m sew s
  | .vand t vd va vb m sew => Sys2Proof.Machine.execVand t vd va vb m sew s
  | .vor t vd va vb m sew => Sys2Proof.Machine.execVor t vd va vb m sew s
  | .vxor t vd va vb m sew => Sys2Proof.Machine.execVxor t vd va vb m sew s
  | .vsll t vd va vb m sew => Sys2Proof.Machine.execVsll t vd va vb m sew s
  | .vsrl t vd va vb m sew => Sys2Proof.Machine.execVsrl t vd va vb m sew s
  | .vsra t vd va vb m sew => Sys2Proof.Machine.execVsra t vd va vb m sew s
  | .vcmpeq t vd va vb m sew => Sys2Proof.Machine.execVcmpeq t vd va vb m sew s
  | .vcmplt t vd va vb m sew => Sys2Proof.Machine.execVcmplt t vd va vb m sew s
  | .vcmpltu t vd va vb m sew => Sys2Proof.Machine.execVcmpltu t vd va vb m sew s
  | .vfadd t vd va vb m sew => Sys2Proof.Machine.execVfadd t vd va vb m sew s
  | .vfsub t vd va vb m sew => Sys2Proof.Machine.execVfsub t vd va vb m sew s
  | .vfmul t vd va vb m sew => Sys2Proof.Machine.execVfmul t vd va vb m sew s
  | .vffma t vd va vb m sew => Sys2Proof.Machine.execVffma t vd va vb m sew s
  | .vfmin t vd va vb m sew => Sys2Proof.Machine.execVfmin t vd va vb m sew s
  | .vfmax t vd va vb m sew => Sys2Proof.Machine.execVfmax t vd va vb m sew s
  | .vfcmpeq t vd va vb m sew => Sys2Proof.Machine.execVfcmpeq t vd va vb m sew s
  | .vfcmplt t vd va vb m sew => Sys2Proof.Machine.execVfcmplt t vd va vb m sew s
  | .vwideMul t vd va vb m sew sa sb => Sys2Proof.Machine.execVwideMul t vd va vb m sew sa sb s
  | .vwideMuladd t vd va vb m sew sa sb => Sys2Proof.Machine.execVwideMuladd t vd va vb m sew sa sb s
  | .vdotInt8 t vd va vb m sew sa sb => Sys2Proof.Machine.execVdotInt8 t vd va vb m sew sa sb s
  | .vdotBf16 t vd va vb m sew => Sys2Proof.Machine.execVdotBf16 t vd va vb m sew s
  | .vdotFp16 t vd va vb m sew => Sys2Proof.Machine.execVdotFp16 t vd va vb m sew s
  | .vld t vd a m sew => Sys2Proof.Machine.execVld t vd a m sew s
  | .vlds t vd a b m sew => Sys2Proof.Machine.execVlds t vd a b m sew s
  | .vldx t vd a vb m sew => Sys2Proof.Machine.execVldx t vd a vb m sew s
  | .vst t vd a m sew => Sys2Proof.Machine.execVst t vd a m sew s
  | .vsts t vd a b m sew => Sys2Proof.Machine.execVsts t vd a b m sew s
  | .vstx t vd a vb m sew => Sys2Proof.Machine.execVstx t vd a vb m sew s
  | .vbcast t vd a m sew => Sys2Proof.Machine.execVbcast t vd a m sew s
  | .vins t vd a b m sew => Sys2Proof.Machine.execVins t vd a b m sew s
  | .vext t d va b m sew => Sys2Proof.Machine.execVext t d va b m sew s
  | .vslide t vd va b m sew => Sys2Proof.Machine.execVslide t vd va b m sew s
  | .vmand t vd va vb => Sys2Proof.Machine.execVmand t vd va vb s
  | .vmor t vd va vb => Sys2Proof.Machine.execVmor t vd va vb s
  | .vmnot t vd va => Sys2Proof.Machine.execVmnot t vd va s
  | .vredRsum t vd va m sew => Sys2Proof.Machine.execVredRsum t vd va m sew s
  | .vredRsumf t vd va m sew => Sys2Proof.Machine.execVredRsumf t vd va m sew s
  | .vredRmax t vd va m sew => Sys2Proof.Machine.execVredRmax t vd va m sew s
  | .vredRmin t vd va m sew => Sys2Proof.Machine.execVredRmin t vd va m sew s
  | .setup t => Sys2Proof.Machine.execSetup t s
  | .delta t => Sys2Proof.Machine.execDelta t s
  | .solve t => Sys2Proof.Machine.execSolve t s
  | .adjoint t => Sys2Proof.Machine.execAdjoint t s
  | .setprev t => Sys2Proof.Machine.execSetprev t s
  | .release t => Sys2Proof.Machine.execRelease t s
  | .solvCmdDone d done => Sys2Proof.Machine.execSolvCmdDone d done s
  | .solvDeadline d seq => Sys2Proof.Machine.execSolvDeadline d seq s
  | .solvTileFail d seq t code storage accFault => Sys2Proof.Machine.execSolvTileFail d seq t code storage accFault s
  | .scrubRead t => Sys2Proof.Machine.execScrubRead t s
  | .scrubWrite t => Sys2Proof.Machine.execScrubWrite t s
  | .refreshWindow c hot retryOk waited => Sys2Proof.Machine.execRefreshWindow c hot retryOk waited s
  | .bstFlush v => Sys2Proof.Machine.execBstFlush v s
  | .bstFlushDone => Sys2Proof.Machine.execBstFlushDone s
  | .rd p => Sys2Proof.Machine.execRd p s
  | .wr p data => Sys2Proof.Machine.execWr p data s
  | .crd p => Sys2Proof.Machine.execCrd p s
  | .cwr p data => Sys2Proof.Machine.execCwr p data s
  | .brd p edcOk => Sys2Proof.Machine.execBrd p edcOk s
  | .bwr p data edcOk => Sys2Proof.Machine.execBwr p data edcOk s
  | .rsp p data => Sys2Proof.Machine.execRsp p data s
  | .niTimeout st txid => Sys2Proof.Machine.execNiTimeout st txid s
  | .deferRetry st txid => Sys2Proof.Machine.execDeferRetry st txid s
  | .drainBegin n => Sys2Proof.Machine.execDrainBegin n s
  | .drainComplete n => Sys2Proof.Machine.execDrainComplete n s
  | .domainReady n => Sys2Proof.Machine.execDomainReady n s
  | .rampEnd n short => Sys2Proof.Machine.execRampEnd n short s
  | .slowRamp n => Sys2Proof.Machine.execSlowRamp n s
  | .collIdleOff => Sys2Proof.Machine.execCollIdleOff s
  | .dataFrame n f => Sys2Proof.Machine.execDataFrame n f s
  | .emptyFrame n f => Sys2Proof.Machine.execEmptyFrame n f s
  | .trainFrame n body keyOk => Sys2Proof.Machine.execTrainFrame n body keyOk s
  | .closeFrame n f => Sys2Proof.Machine.execCloseFrame n f s
  | .nakResend n => Sys2Proof.Machine.execNakResend n s
  | .replayResend n => Sys2Proof.Machine.execReplayResend n s
  | .replayTimeout n => Sys2Proof.Machine.execReplayTimeout n s
  | .laneRetire n lane => Sys2Proof.Machine.execLaneRetire n lane s
  | .presenceGained n => Sys2Proof.Machine.execPresenceGained n s
  | .presenceLost n => Sys2Proof.Machine.execPresenceLost n s
  | .trainStateDone n rx tx => Sys2Proof.Machine.execTrainStateDone n rx tx s
  | .trainStateLimit n => Sys2Proof.Machine.execTrainStateLimit n s
  | .trainAttemptLimit n => Sys2Proof.Machine.execTrainAttemptLimit n s
  | .beaconEnd n => Sys2Proof.Machine.execBeaconEnd n s
  | .retrain n => Sys2Proof.Machine.execRetrain n s
  | .linkCloseDone n => Sys2Proof.Machine.execLinkCloseDone n s
  | .locationAssign flags tier cell slot => Sys2Proof.Machine.execLocationAssign flags tier cell slot s
  | .locationQuery msg => Sys2Proof.Machine.execLocationQuery msg s
  | .memberSend => Sys2Proof.Machine.execMemberSend s
  | .member n body => Sys2Proof.Machine.execMember n body s
  | .slotLost slot => Sys2Proof.Machine.execSlotLost slot s
  | .mapFormation => Sys2Proof.Machine.execMapFormation s
  | .rankMap body => Sys2Proof.Machine.execRankMap body s
  | .mapAck body => Sys2Proof.Machine.execMapAck body s
  | .uplinkSwap n => Sys2Proof.Machine.execUplinkSwap n s
  | .allReduce t => Sys2Proof.Machine.execAllReduce t s
  | .reduceScatter t => Sys2Proof.Machine.execReduceScatter t s
  | .allGather t => Sys2Proof.Machine.execAllGather t s
  | .allToAll t => Sys2Proof.Machine.execAllToAll t s
  | .allToAllv t => Sys2Proof.Machine.execAllToAllv t s
  | .broadcast t => Sys2Proof.Machine.execBroadcast t s
  | .barrier t => Sys2Proof.Machine.execBarrier t s
  | .gatherDemand t => Sys2Proof.Machine.execGatherDemand t s
  | .fenceClose p => Sys2Proof.Machine.execFenceClose p s
  | .ready p r => Sys2Proof.Machine.execReady p r s
  | .cdata p d => Sys2Proof.Machine.execCdata p d s
  | .cctlDone p sender ctag => Sys2Proof.Machine.execCctlDone p sender ctag s
  | .abort p sender ctag code => Sys2Proof.Machine.execAbort p sender ctag code s
  | .collTimeout p => Sys2Proof.Machine.execCollTimeout p s
  | .workPost t => Sys2Proof.Machine.execWorkPost t s
  | .workPostAck t => Sys2Proof.Machine.execWorkPostAck t s
  | .dispatchItem t parity => Sys2Proof.Machine.execDispatchItem t parity s
  | .workItemReceive t => Sys2Proof.Machine.execWorkItemReceive t s
  | .digest t => Sys2Proof.Machine.execDigest t s
  | .digestDone => Sys2Proof.Machine.execDigestDone s
  | .stepAdv t => Sys2Proof.Machine.execStepAdv t s
  | .imgStepWrite p v => Sys2Proof.Machine.execImgStepWrite p v s
  | .controlPeriod acts frames => Sys2Proof.Machine.execControlPeriod acts frames s
  | .avsSample rails => Sys2Proof.Machine.execAvsSample rails s
  | .calibrationWindow => Sys2Proof.Machine.execCalibrationWindow s
  | .powerSuspend => Sys2Proof.Machine.execPowerSuspend s
  | .powerResume => Sys2Proof.Machine.execPowerResume s
  | .thermalRead temps => Sys2Proof.Machine.execThermalRead temps s
  | .coolantFall => Sys2Proof.Machine.execCoolantFall s
  | .thermStopClear => Sys2Proof.Machine.execThermStopClear s
  | .pwrCapWrite v => Sys2Proof.Machine.execPwrCapWrite v s
  | .opMaxWrite p v => Sys2Proof.Machine.execOpMaxWrite p v s
  | .budgetShift => Sys2Proof.Machine.execBudgetShift s
  | .capSet body => Sys2Proof.Machine.execCapSet body s
  | .quietTimeout => Sys2Proof.Machine.execQuietTimeout s
  | .sleepReq req => Sys2Proof.Machine.execSleepReq req s
  | .sleepEntryDone => Sys2Proof.Machine.execSleepEntryDone s
  | .resume => Sys2Proof.Machine.execResume s
  | .timerWake => Sys2Proof.Machine.execTimerWake s
  | .wakeDone => Sys2Proof.Machine.execWakeDone s
  | .sleepPrepare body => Sys2Proof.Machine.execSleepPrepare body s
  | .sleepVote body => Sys2Proof.Machine.execSleepVote body s
  | .sleepCommit body => Sys2Proof.Machine.execSleepCommit body s
  | .sleepAbort body => Sys2Proof.Machine.execSleepAbort body s
  | .sleepVoteLimit => Sys2Proof.Machine.execSleepVoteLimit s
  | .sleepDecisionLimit => Sys2Proof.Machine.execSleepDecisionLimit s
  | .haltAssert => Sys2Proof.Machine.execHaltAssert s
  | .haltDeassert => Sys2Proof.Machine.execHaltDeassert s
  | .clockStopped bit => Sys2Proof.Machine.execClockStopped bit s
  | .timeExchange => Sys2Proof.Machine.execTimeExchange s
  | .timeReq body => Sys2Proof.Machine.execTimeReq body s
  | .timeRsp body => Sys2Proof.Machine.execTimeRsp body s
  | .tickSlew => Sys2Proof.Machine.execTickSlew s
  | .cold => Sys2Proof.Machine.execCold s
  | .warm => Sys2Proof.Machine.execWarm s
  | .clkUnitReset unit => Sys2Proof.Machine.execClkUnitReset unit s
  | .mcmdReset unit src txid => Sys2Proof.Machine.execMcmdReset unit src txid s
  | .unitResetDone unit => Sys2Proof.Machine.execUnitResetDone unit s
  | .kick => Sys2Proof.Machine.execKick s
  | .clkWdogWrite v => Sys2Proof.Machine.execClkWdogWrite v s
  | .wdogWarn => Sys2Proof.Machine.execWdogWarn s
  | .wdogExpire => Sys2Proof.Machine.execWdogExpire s
  | .bootStepDone r => Sys2Proof.Machine.execBootStepDone r s
  | .bootStepLimit => Sys2Proof.Machine.execBootStepLimit s
  | .powerOnRelease sa => Sys2Proof.Machine.execPowerOnRelease sa s
  | .auxFail => Sys2Proof.Machine.execAuxFail s
  | .refclkLoss => Sys2Proof.Machine.execRefclkLoss s
  | .coreRailFail d => Sys2Proof.Machine.execCoreRailFail d s
  | .vddqFail => Sys2Proof.Machine.execVddqFail s
  | .nocCtrlWrite v => Sys2Proof.Machine.execNocCtrlWrite v s
  | .collCtrlWrite v => Sys2Proof.Machine.execCollCtrlWrite v s
  | .hostCtrlWrite v => Sys2Proof.Machine.execHostCtrlWrite v s
  | .bar2BstWrite v => Sys2Proof.Machine.execBar2BstWrite v s
  | .bar2Read off read => Sys2Proof.Machine.execBar2Read off read s
  | .bar2Write off data mark => Sys2Proof.Machine.execBar2Write off data mark s
  | .hostDeferRetry txid => Sys2Proof.Machine.execHostDeferRetry txid s
  | .hostRetryLimit txid => Sys2Proof.Machine.execHostRetryLimit txid s
  | .hostIrq t vec => Sys2Proof.Machine.execHostIrq t vec s
  | .msixUnmask vec => Sys2Proof.Machine.execMsixUnmask vec s
  | .ltrWrite v => Sys2Proof.Machine.execLtrWrite v s
  | .ltrEnable => Sys2Proof.Machine.execLtrEnable s
  | .dlUp => Sys2Proof.Machine.execDlUp s
  | .dlDown => Sys2Proof.Machine.execDlDown s
  | .perstAssert => Sys2Proof.Machine.execPerstAssert s
  | .perstDeassert => Sys2Proof.Machine.execPerstDeassert s
  | .d3hot => Sys2Proof.Machine.execD3hot s
  | .pop => Sys2Proof.Machine.execPop s
  | .clearAll => Sys2Proof.Machine.execClearAll s
  | .rotate k => Sys2Proof.Machine.execRotate k s
  | .entdaa addr => Sys2Proof.Machine.execEntdaa addr s
  | .setdasa staticAddr dynAddr => Sys2Proof.Machine.execSetdasa staticAddr dynAddr s
  | .setEndpointId eid => Sys2Proof.Machine.execSetEndpointId eid s
  | .getEndpointId => Sys2Proof.Machine.execGetEndpointId s
  | .getMctpVersionSupport => Sys2Proof.Machine.execGetMctpVersionSupport s
  | .getMessageTypeSupport => Sys2Proof.Machine.execGetMessageTypeSupport s
  | .getVendorDefinedMsgSupport => Sys2Proof.Machine.execGetVendorDefinedMsgSupport s
  | .reset kind => Sys2Proof.Machine.execReset kind s
  | .wdogKick => Sys2Proof.Machine.execWdogKick s
  | .setBoardLimit w => Sys2Proof.Machine.execSetBoardLimit w s
  | .wake => Sys2Proof.Machine.execWake s
  | .regRead off => Sys2Proof.Machine.execRegRead off s
  | .regWrite off v => Sys2Proof.Machine.execRegWrite off v s
  | .fabricKey secured id key => Sys2Proof.Machine.execFabricKey secured id key s
  | .keyInstall secured slot key => Sys2Proof.Machine.execKeyInstall secured slot key s
  | .ownerFuse secured slot hash => Sys2Proof.Machine.execOwnerFuse secured slot hash s
  | .svnAdvance secured which => Sys2Proof.Machine.execSvnAdvance secured which s
  | .getTid => Sys2Proof.Machine.execGetTid s
  | .setTid tid => Sys2Proof.Machine.execSetTid tid s
  | .getPldmVersion ptype => Sys2Proof.Machine.execGetPldmVersion ptype s
  | .getPldmTypes => Sys2Proof.Machine.execGetPldmTypes s
  | .getPldmCommands ptype => Sys2Proof.Machine.execGetPldmCommands ptype s
  | .getPdr handle => Sys2Proof.Machine.execGetPdr handle s
  | .getSensorReading id => Sys2Proof.Machine.execGetSensorReading id s
  | .getStateSensorReadings id => Sys2Proof.Machine.execGetStateSensorReadings id s
  | .setNumericEffecterValue id v => Sys2Proof.Machine.execSetNumericEffecterValue id v s
  | .getNumericEffecterValue id => Sys2Proof.Machine.execGetNumericEffecterValue id s
  | .setEventReceiver eid => Sys2Proof.Machine.execSetEventReceiver eid s
  | .platformEventAck id => Sys2Proof.Machine.execPlatformEventAck id s
  | .pldmEventRetry id => Sys2Proof.Machine.execPldmEventRetry id s
  | .requestFirmwareData comp block => Sys2Proof.Machine.execRequestFirmwareData comp block s
  | .firmwareVerify => Sys2Proof.Machine.execFirmwareVerify s
  | .activateFirmware => Sys2Proof.Machine.execActivateFirmware s
  | .getVersion path => Sys2Proof.Machine.execGetVersion path s
  | .getCapabilities path => Sys2Proof.Machine.execGetCapabilities path s
  | .negotiateAlgorithms path algs => Sys2Proof.Machine.execNegotiateAlgorithms path algs s
  | .getDigests path => Sys2Proof.Machine.execGetDigests path s
  | .getCertificate path slot => Sys2Proof.Machine.execGetCertificate path slot s
  | .challenge path slot nonce => Sys2Proof.Machine.execChallenge path slot nonce s
  | .getMeasurements path index nonce => Sys2Proof.Machine.execGetMeasurements path index nonce s
  | .keyExchange path slot data => Sys2Proof.Machine.execKeyExchange path slot data s
  | .finish path sid => Sys2Proof.Machine.execFinish path sid s
  | .heartbeat path sid => Sys2Proof.Machine.execHeartbeat path sid s
  | .keyUpdate path sid => Sys2Proof.Machine.execKeyUpdate path sid s
  | .endSession path sid => Sys2Proof.Machine.execEndSession path sid s
  | .coolantRise => Sys2Proof.Machine.execCoolantRise s
  | .d0 => Sys2Proof.Machine.execD0 s
  | .pmeTurnOff => Sys2Proof.Machine.execPmeTurnOff s
  | .mrd acc => Sys2Proof.Machine.execMrd acc s

end Sys2Proof.Machine
end

