-- ==== Sys2Proof/Safety.lean ====
section
/-!
DEFINITION. Safety.lean: what a safe state is, in the terms that the claims use: the canonical form of the scratchpad, and the bounds of the error log;
and the conditions and relations that the claims about instructions name: when an instruction is fetched, and what a read may leave noted.
-/
namespace Sys2Proof.Machine

/-- The canonical form of the scratchpad: addresses strictly rising, no entry equal to what an unlisted address reads as (0). -/
def Memory.wf (m : List Host.Cell) : Bool := tabCanon (fun _ => (0 : Byte)) m

/-- A safe state: the scratchpad is canonical, the check states rise by word, and the error log holds at most its 256 places, from an index in it (R597). -/
structure State.Safe (s : State) : Prop where
  mem : Memory.wf s.mem = true
  ecc : tabRising s.ecc = true
  log : s.err.log.length ≤ 256
  head : s.err.head < 256

/-- The registers in which a note may stand: the error log's status, loss and counts, and a tile's scratchpad status, count and address. -/
def noteReg (o : Nat) : Bool :=
  o == 0x600000 || (decide (0x600018 ≤ o) && decide (o < 0x600040)) ||
    (decide (0x2000000 ≤ o) && decide (0xC00 ≤ (o - 0x2000000) % 0x4000) && decide ((o - 0x2000000) % 0x4000 < 0xC18))

/-- From `s` to `t` nothing has happened but what the check bits of words that were read, or the message of an event, leave noted: registers of notes, the error
log, the host's vectors and messages, and the rows that a tile records, which the repair list of the boot journal takes (R300, R301, R305, R573, R595). -/
structure Noted (s t : State) : Prop where
  rest : { t with
    regs := s.regs, err := s.err, host := s.host, sent := s.sent, tiles := s.tiles, flash := { t.flash with repair := s.flash.repair } } = s
  tiles : ∀ u, { tile t u with rows := (tile s u).rows, rowCorr := (tile s u).rowCorr } = tile s u
  regs : ∀ o, noteReg o = false → reg t o = reg s o

/-- The line of working memory that holds tile `t`'s program counter, as a package address (R217). -/
def fetchLine (s : State) (t : Nat) : Nat := pkgAddr t (64 * ((getPc s t).toNat / 64))

/-- Tile `t` may issue and its instruction can be fetched (R217): the instruction lies in [0, W), and its line is cached or has no uncorrectable word. -/
structure FetchOk (s : State) (t : Nat) : Prop where
  may : canIssue s t = true
  inside : (getPc s t).toNat + 4 ≤ tileW s t
  line : (icFind s t ((getPc s t).toNat / 64)).isSome = true ∨ anyBad s (fetchLine s t) 64 = false

/-- The word at tile `t`'s program counter spells the instruction `i` (R218 to R222). -/
def Spells (s : State) (t : Tile) (i : Instr) : Prop := decodeCore t (wordNext s t) = some i

/-- Tile `t`'s oldest post to its engine, `x`, can go out and be served: the tile's NI takes a request and its TXID names no other post, and the engine's unit
answers (R333, R340, R346). -/
structure PostGoes (s : State) (t : Nat) (x : Post) : Prop where
  oldest : nextPost s t x.kind = some x
  room : niStalled s (tileStation s t) = false
  here : stationTile s (tileStation s t) = some t
  fresh : ∀ y ∈ s.posts, tileStation s y.tile = tileStation s t → y.txid ≠ some (freeTxid s (tileStation s t))
  serves : unitGate (postStation x) 3 s = none

/-- A fetch that leaves no note: the line is cached or its words have fresh check bits, and no resume of a vector instruction waits (R238). -/
structure FetchQuiet (s : State) (t : Nat) : Prop where
  line : (icFind s t ((getPc s t).toNat / 64)).isSome = true ∨ ∀ w ∈ wordsOf (fetchLine s t) 64, eccOf s w = none
  fresh : (core s t).resumed = false ∨ vxValid s t = false

/-- The state in which a fetched instruction executes. -/
def fetched (t : Nat) (s : State) : State := issue t id s

/-- What the fetch of tile `t` changes from `s` to `n`: its instruction cache, the mark and the validity of a resume that RETX
leaves, the word that issued last, and notes (R217, R238). -/
structure Fetched (s n : State) (t : Nat) : Prop where
  rest : { n with
    regs := s.regs, err := s.err, host := s.host, sent := s.sent, tiles := s.tiles, flash := { n.flash with repair := s.flash.repair } } = s
  others : ∀ u, u ≠ t → { tile n u with rows := (tile s u).rows, rowCorr := (tile s u).rowCorr } = tile s u
  own : { tile n t with
    rows := (tile s t).rows
    rowCorr := (tile s t).rowCorr
    core := { core n t with icache := (core s t).icache, resumed := (core s t).resumed, last := (core s t).last, pair := (core s t).pair } } = tile s t
  regs : ∀ o, noteReg o = false → o ≠ aVxResume t → reg n o = reg s o

end Sys2Proof.Machine
end

