-- ==== Sys2Proof/Certificates/Slice0/Obligations.lean ====
section
/-!
DEFINITION. Certificates/Slice0/Obligations.lean: the statements for the provers.
-/

open Sys2Proof hiding core
open Sys2Proof.Machine

/-! ### The block as a whole -/

/-- One step takes the command at the front of the queue and runs it with the rest of the queue; on an empty queue one tick passes. -/
def Obligations.StepRunsTheFrontCommand : Prop :=
  (∀ (c : Instr) (rest : List Instr) (s : State), step { s with pending := c :: rest } = exec c { s with pending := rest }) ∧
  ∀ s : State, s.pending = [] → step s = .next (idleTick s)

/-- The state after reset is safe, and its queue is empty. -/
def Obligations.ResetIsSafe : Prop := State.reset.Safe ∧ State.reset.pending = []

/-- Every step keeps the canonical form of the scratchpad and the bounds of the error log, from every state that has them. -/
def Obligations.EveryStepKeepsSafe : Prop := ∀ s t : State, s.Safe → step s = .next t → t.Safe

/-- No command touches the queue; no command changes the speed bin or the device secret, and no command lowers a fused minimum version. -/
def Obligations.CommandsLeaveQueueAndFuses : Prop :=
  ∀ (c : Instr) (s t : State), exec c s = .next t →
    t.pending = s.pending ∧ t.fuses.speedBin = s.fuses.speedBin ∧ t.fuses.secret = s.fuses.secret ∧
      s.fuses.fwMin ≤ t.fuses.fwMin ∧ s.fuses.secMin ≤ t.fuses.secMin

/-- A write of scratchpad bytes is handled word by word. A word that it covers whole is stored with fresh check bits, and so is a merge into a word that is not
uncorrectable; a word that is uncorrectable and covered in part is left unchanged and UE is set; the write completes with POISON exactly where a merge was not
made, and every byte outside it stays. For a store of the control core, that completion is the POISON exception (R302). -/
def Obligations.ScratchpadWrites : Prop :=
  ∀ (src a : Nat) (bs : List Byte) (s : State),
    let n := bs.length
    let u := spWrite src a bs s
    let unmade (w : Nat) : Bool := badWord s w && !(decide (a ≤ 8 * w) && decide (8 * w + 8 ≤ a + n))
    (∀ i, i < n → memByte u (a + i) = if unmade ((a + i) / 8) then memByte s (a + i) else bs.getD i 0) ∧
    (∀ x, x < a ∨ a + n ≤ x → memByte u x = memByte s x) ∧
    (∀ w, eccOf u w = if w ∈ wordsOf a n ∧ unmade w = false then none else eccOf s w) ∧
    (∀ w ∈ wordsOf a n, unmade w = true → getB u (aTileSpStatus (8 * w / 0x2000000)) 1 = true) ∧
    (writePoisons s a n = true ↔ ∃ w ∈ wordsOf a n, unmade w = true) ∧
    ∀ (t : Tile) (d r : GReg) (imm : BitVec 16), FetchOk s t →
      let x := (getG s t r + imm.signExtend 64).toNat
      let poison (store : Instr) (k : Nat) : Prop := Spells s t store → x + k ≤ tileW s t → x % k = 0 → writePoisons s (pkgAddr t x) k = true →
        ∃ v, exec store s = .next (raiseExc t 0x04 x v) ∧ ∀ z, memByte v z = memByte s z
      poison (.store32 t d r imm) 4 ∧ poison (.store16 t d r imm) 2 ∧ poison (.store8 t d r imm) 1

/-! ### The control core: issue, operands and arithmetic -/

/-- A fetch changes the instruction cache, the mark of RETX, the word that issued last and notes alone; the line of the program counter is then cached with the bytes it held
there or, on a miss, those of working memory; a quiet fetch leaves no note (R217). -/
def Obligations.FetchChangesTheCacheAlone : Prop :=
  ∀ (s : State) (t : Nat), FetchOk s t →
    let n := fetched t s
    let line := (getPc s t).toNat / 64
    Fetched s n t ∧ (core n t).resumed = false ∧
      icFind n t line = some ((icFind s t line).getD ⟨line, memBytes s (fetchLine s t) 64⟩) ∧
      (FetchQuiet s t → n.regs = s.regs ∧ n.err = s.err ∧ n.host = s.host ∧ n.sent = s.sent ∧ n.flash = s.flash ∧
        (∀ u, (tile n u).rows = (tile s u).rows ∧ (tile n u).rowCorr = (tile s u).rowCorr))

/-- Writing a register: G0 reads 0 and VM0 all ones, and a write to them is discarded; another register reads what was written; nothing else of the core
changes, but the program counter of a core that goes on (R211). -/
def Obligations.RegisterWrites : Prop :=
  ∀ (s : State) (t : Nat),
    (∀ (d : GReg) (v : Word),
      let n := nextPc t (setG t d v s)
      getG n t d = (if d = 0 then 0 else v) ∧ (∀ r, r ≠ d → getG n t r = getG s t r) ∧
        (∀ r, getV n t r = getV s t r) ∧ (∀ r, getM n t r = getM s t r) ∧ getPc n t = getPc s t + 4 ∧
        ({ core n t with g := (core s t).g, pc := (core s t).pc } : CoreSt) = core s t ∧
        ({ tile n t with core := core s t } : TileSt) = tile s t ∧ (∀ u, u ≠ t → tile n u = tile s u) ∧
        ({ n with tiles := s.tiles } : State) = s) ∧
    (∀ (d : VReg) (v : BitVec 512),
      let n := setV t d v s
      getV n t d = v ∧ (∀ r, r ≠ d → getV n t r = getV s t r) ∧ ({ core n t with v := (core s t).v } : CoreSt) = core s t ∧
        (∀ u, u ≠ t → tile n u = tile s u) ∧ ({ n with tiles := s.tiles } : State) = s) ∧
    (∀ (d : MReg) (v : Word),
      let n := setM t d v s
      getM n t d = (if d = 0 then BitVec.allOnes 64 else v) ∧ (∀ r, r ≠ d → getM n t r = getM s t r) ∧
        ({ core n t with vm := (core s t).vm } : CoreSt) = core s t ∧ (∀ u, u ≠ t → tile n u = tile s u) ∧ ({ n with tiles := s.tiles } : State) = s)

/-- Every scalar arithmetic and logical operation, on two registers, on one and an immediate, on one, or on an immediate, completes where the word at the
program counter spells it: D takes the value, and the next instruction follows (R219, R220, R221). -/
def Obligations.ScalarArithmetic : Prop :=
  ∀ (t : Tile) (d a b : GReg) (imm : BitVec 16) (up : BitVec 21) (k : BitVec 6) (s : State), FetchOk s t →
    let x := getG s t a
    let y := getG s t b
    let z := imm.signExtend 64
    let w (i : Instr) (v : Word) : Prop := Spells s t i → exec i s = .next (nextPc t (setG t d v (fetched t s)))
    w (.add t d a b) (x + y) ∧ w (.sub t d a b) (x - y) ∧
    w (.and t d a b) (x &&& y) ∧ w (.or t d a b) (x ||| y) ∧ w (.xor t d a b) (x ^^^ y) ∧
    w (.sll t d a b) (x <<< (y.extractLsb' 0 6).toNat) ∧ w (.srl t d a b) (x >>> (y.extractLsb' 0 6).toNat) ∧
    w (.sra t d a b) (x.sshiftRight (y.extractLsb' 0 6).toNat) ∧
    w (.slt t d a b) (if x.slt y then 1 else 0) ∧ w (.sltu t d a b) (if x.ult y then 1 else 0) ∧
    w (.min t d a b) (if x.sle y then x else y) ∧ w (.max t d a b) (if x.sle y then y else x) ∧
    w (.minu t d a b) (if x.ule y then x else y) ∧ w (.maxu t d a b) (if x.ule y then y else x) ∧
    w (.mul t d a b) ((x.zeroExtend 128 * y.zeroExtend 128).extractLsb' 0 64) ∧
    w (.mulhi t d a b) ((x.signExtend 128 * y.signExtend 128).extractLsb' 64 64) ∧
    w (.mulhiu t d a b) ((x.zeroExtend 128 * y.zeroExtend 128).extractLsb' 64 64) ∧
    w (.mulhim t d a b) ((x.signExtend 128 * y.zeroExtend 128).extractLsb' 64 64) ∧
    w (.div t d a b) (if y = 0 then 0 else x.sdiv y) ∧ w (.divu t d a b) (if y = 0 then 0 else x / y) ∧
    w (.rem t d a b) (if y = 0 then x else x.srem y) ∧ w (.remu t d a b) (if y = 0 then x else x % y) ∧
    w (.addi t d a imm) (x + z) ∧ w (.andi t d a imm) (x &&& z) ∧ w (.ori t d a imm) (x ||| z) ∧
    w (.xori t d a imm) (x ^^^ z) ∧ w (.slti t d a imm) (if x.slt z then 1 else 0) ∧
    w (.sltiu t d a imm) (if x.ult z then 1 else 0) ∧ w (.upperImmediate t d up) (up ++ (0 : BitVec 43)) ∧
    w (.slli t d a k) (x <<< k.toNat) ∧ w (.srli t d a k) (x >>> k.toNat) ∧
    w (.srai t d a k) (x.sshiftRight k.toNat) ∧ w (.sext8 t d a) ((x.extractLsb' 0 8).signExtend 64) ∧
    w (.sext16 t d a) ((x.extractLsb' 0 16).signExtend 64) ∧ w (.sext32 t d a) ((x.extractLsb' 0 32).signExtend 64)

/-! ### The control core: control flow and exceptions -/

/-- A branch whose comparison holds goes to PC + 4 × off, signed, another to the next instruction; JAL and an aligned JR write the address of the next
instruction and jump (R219, R221). -/
def Obligations.BranchesAndJumps : Prop :=
  ∀ (t : Tile) (a b d : GReg) (off : BitVec 8) (far : BitVec 21) (imm : BitVec 16) (s : State), FetchOk s t →
    let x := getG s t a
    let y := getG s t b
    let pc := getPc s t
    let n := fetched t s
    let gives (i : Instr) (u : State) : Prop := Spells s t i → exec i s = .next u
    let br (i : Instr) (c : Bool) : Prop := gives i (setPc t (if c then pc + 4 * off.signExtend 64 else pc + 4) n)
    br (.beq t a b off) (x == y) ∧ br (.bne t a b off) (x != y) ∧ br (.blt t a b off) (x.slt y) ∧ br (.bge t a b off) (!x.slt y) ∧
    br (.bltu t a b off) (x.ult y) ∧ br (.bgeu t a b off) (!x.ult y) ∧
    gives (.jal t d far) (setPc t (pc + 4 * far.signExtend 64) (setG t d (pc + 4) n)) ∧
    ((x + imm.signExtend 64).toNat % 4 = 0 → gives (.jr t d a imm) (setPc t (x + imm.signExtend 64) (setG t d (pc + 4) n))) ∧
    ((x + imm.signExtend 64).toNat % 4 ≠ 0 → gives (.jr t d a imm) (raiseExc t 0x03 (x + imm.signExtend 64).toNat n))

/-- Entry to a handler (R236): TILE_EPC takes the address to resume, TILE_ECAUSE the code, TILE_EVAL the value, EXL is set and PC takes TILE_EVEC; no
other register, no operand register and no byte of memory changes. -/
def Obligations.HandlerEntry : Prop :=
  ∀ (s : State) (t : Tile) (code eval : Nat) (second : Bool) (epc : Word), code < 256 → eval < 2 ^ 64 →
    let n := enterHandler t code second epc eval s
    reg n (aTileEpc t) = epc ∧ (reg n (aTileEcause t)).toNat = code + 256 * b2n second ∧ (reg n (aTileEval t)).toNat = eval ∧
      getB n (aTileCoreStatus t) 0 = true ∧ getPc n t = reg s (aTileEvec t) ∧
      (∀ i, i ≠ 0 → i < 64 → getB n (aTileCoreStatus t) i = getB s (aTileCoreStatus t) i) ∧
      (∀ o, o ≠ aTileEpc t → o ≠ aTileEcause t → o ≠ aTileEval t → o ≠ aTileCoreStatus t → reg n o = reg s o) ∧
      (∀ r, getG n t r = getG s t r) ∧ (∀ r, getV n t r = getV s t r) ∧ (∀ r, getM n t r = getM s t r) ∧
      (∀ x, memByte n x = memByte s x) ∧ (∀ u, u ≠ t.val → tile n u = tile s u)

/-- A synchronous exception with EXL clear enters the handler with the faulting instruction's address; with EXL set it is a double fault: the core halts,
DOUBLE is set, and the tile issues nothing further (R236, R240). SECOND is a free value
(log entry 6) where R222 lets the instruction be the second of a pair, and 0 where it does not: behind a branch, a jump, or an instruction that issues alone, beside a
second memory, vector or system instruction, where it reads what the one before writes, and for an instruction that itself issues alone, as BREAK does. -/
def Obligations.SynchronousException : Prop :=
  ∀ (s : State) (t : Tile) (code eval : Nat),
    (getB s (aTileCoreStatus t) 0 = false →
      ∃ second, ((core s t).pair = false → second = false) ∧ raiseExc t code eval s = enterHandler t code second (getPc s t) eval (tickFree s)) ∧
    (FetchOk s t →
      (core (fetched t s) t).last = some (wordNext s t) ∧ (core (fetched t s) t).pair = mayPair (core s t).last (wordNext s t)) ∧
    (FetchOk s t → Spells s t (.brk t) → (core (fetched t s) t).pair = false) ∧
    (getB s (aTileCoreStatus t) 0 = true →
      let n := raiseExc t code eval s
      getB n (aTileCoreStatus t) 3 = true ∧ (core n t).run = .dead ∧ canIssue n t = false ∧ (∀ r, getG n t r = getG s t r) ∧
        (∀ x, memByte n x = memByte s x) ∧ reg n (aTileEpc t) = reg s (aTileEpc t))

/-- A scalar load of aligned bytes inside [0, W), none in an uncorrectable word, completes: D takes them, zero-extended (R219). -/
def Obligations.Loads : Prop :=
  ∀ (t : Tile) (d a : GReg) (imm : BitVec 16) (s : State), FetchOk s t →
    let x := (getG s t a + imm.signExtend 64).toNat
    let y := pkgAddr t x
    let res (k : Nat) : State := nextPc t (setG t d (BitVec.ofNat 64 (leVal (memBytes s y k))) (touchRange 0 y k (fetched t s)))
    let ok (k : Nat) : Prop := x + k ≤ tileW s t ∧ x % k = 0 ∧ anyBad s y k = false
    (Spells s t (.load64 t d a imm) → ok 8 → exec (.load64 t d a imm) s = .next (res 8)) ∧ (Spells s t (.load32 t d a imm) → ok 4 → exec (.load32 t d a imm) s = .next (res 4)) ∧
    (Spells s t (.load16 t d a imm) → ok 2 → exec (.load16 t d a imm) s = .next (res 2)) ∧ (Spells s t (.load8 t d a imm) → ok 1 → exec (.load8 t d a imm) s = .next (res 1)) ∧
    (∀ k, Noted (fetched t s) (touchRange 0 y k (fetched t s)))

/-- A scalar store of aligned bytes inside [0, W) that leaves no merge unmade completes: the bytes at A + imm take D's low bytes, and every other byte of
memory, every operand register and every other tile is as it was (R219, R302). -/
def Obligations.Stores : Prop :=
  ∀ (t : Tile) (d a : GReg) (imm : BitVec 16) (s : State), FetchOk s t →
    let x := loadAddr s t a imm
    let y := pkgAddr t x
    let stored (k : Nat) (n : State) : Prop :=
      memBytes n y k = leBytes k (getG s t d).toNat ∧ (∀ z, z < y ∨ y + k ≤ z → memByte n z = memByte s z) ∧
        getPc n t = getPc s t + 4 ∧ (∀ r, getG n t r = getG s t r) ∧ (∀ r, getV n t r = getV s t r) ∧ (∀ r, getM n t r = getM s t r) ∧
        (∀ u, u ≠ t.val → core n u = core s u) ∧ (FetchQuiet s t → (∀ w ∈ wordsOf y k, eccOf s w = none) → n.regs = s.regs)
    let ok (k : Nat) : Prop := x + k ≤ tileW s t ∧ x % k = 0 ∧ writePoisons s y k = false
    (Spells s t (.store64 t d a imm) → ok 8 → ∃ n, exec (.store64 t d a imm) s = .next n ∧ stored 8 n) ∧ (Spells s t (.store32 t d a imm) → ok 4 → ∃ n, exec (.store32 t d a imm) s = .next n ∧ stored 4 n) ∧
    (Spells s t (.store16 t d a imm) → ok 2 → ∃ n, exec (.store16 t d a imm) s = .next n ∧ stored 2 n) ∧ (Spells s t (.store8 t d a imm) → ok 1 → ∃ n, exec (.store8 t d a imm) s = .next n ∧ stored 1 n)

/-- A scalar access with a byte outside [0, W) raises RANGE, one inside that is not aligned MISALIGN, and one that meets an uncorrectable word as a load,
or as a store that covers it in part, POISON, each with the byte address (R219, R235, R236). -/
def Obligations.ScalarAccessFaults : Prop :=
  ∀ (t : Tile) (d a : GReg) (imm : BitVec 16) (s : State), FetchOk s t →
    let x := (getG s t a + imm.signExtend 64).toNat
    let y := pkgAddr t x
    let n := fetched t s
    let gives (i : Instr) (u : State) : Prop := Spells s t i → exec i s = .next u
    let raises (load store : Instr) (k : Nat) : Prop :=
      (tileW s t < x + k → gives load (raiseExc t 0x02 x n) ∧ gives store (raiseExc t 0x02 x n)) ∧
      (x + k ≤ tileW s t → x % k ≠ 0 → gives load (raiseExc t 0x03 x n) ∧ gives store (raiseExc t 0x03 x n)) ∧
      (x + k ≤ tileW s t → x % k = 0 → anyBad s y k = true → gives load (raiseExc t 0x04 x (touchRange 0 y k n))) ∧
      (x + k ≤ tileW s t → x % k = 0 → writePoisons s y k = true → gives store (raiseExc t 0x04 x (spWrite 0 y (leBytes k (getG s t d).toNat) n)))
    raises (.load64 t d a imm) (.store64 t d a imm) 8 ∧ raises (.load32 t d a imm) (.store32 t d a imm) 4 ∧
    raises (.load16 t d a imm) (.store16 t d a imm) 2 ∧ raises (.load8 t d a imm) (.store8 t d a imm) 1

/-! ### The control core: system instructions, waits and descriptors -/

/-- System register number n names the register at offset 8n of the core's own tile. SYSR of a number at which a register lies completes: D takes what the
register reads as. SYSW of a register of which some field is not RO completes: B is written by the access codes, and a WO register performs its action. Any
other access raises SYSREG (R212). -/
def Obligations.SystemRegisterAccess : Prop :=
  ∀ (t : Tile) (d a b : GReg) (s : State), FetchOk s t →
    let k := ((getG s t a).extractLsb' 0 11).toNat
    let n := fetched t s
    let gives (i : Instr) (u : State) : Prop := Spells s t i → exec i s = .next u
    (sysExists t k = true → gives (.sysr t d a) (nextPc t (setG t d (readTileReg n t (8 * k)) n))) ∧
    (sysExists t k = false → gives (.sysr t d a) (raiseExc t 0x07 0 n)) ∧
    (sysWritable t k = true → gives (.sysw t a b) (sysWrite t k (getG s t b) (nextPc t n))) ∧
    (sysWritable t k = false → gives (.sysw t a b) (raiseExc t 0x07 0 n)) ∧
    let o := 0x2000000 + 0x4000 * t.val + 8 * k
    (sysExists t k = (regSpecAt o).isSome) ∧ (sysWritable t k = true ↔ ∃ r, regSpecAt o = some r ∧ (r.rw ≠ 0 ∨ r.w1c ≠ 0 ∨ r.wo ≠ 0)) ∧
    ∀ (v : Word) (z : State),
      (k ∉ [0x62, 0x140, 0x141, 0x142, 0x144, 0x145, 0x146] → sysWrite t k v z = writeStored o v z) ∧
      sysWrite t 0x62 v z = placeFrees t v z ∧ sysWrite t 0x140 v z = sendPost t .solv v z ∧ sysWrite t 0x141 v z = sendPost t .coll v z ∧
      sysWrite t 0x142 v z = modCore t (fun c => { c with post := some { off := 64 * wfld v 0 19 } }) z ∧
      sysWrite t 0x144 v z = (if v.getLsbD 0 then stepAdvance t z else z) ∧ sysWrite t 0x145 v z = sendPost t .dig v z ∧
      sysWrite t 0x146 v z = hostIrqOp t (wfld v 0 5) z

/-- A write of a stored register acts bit by bit: a RW bit takes the value, a W1C bit is cleared by a 1, and every other bit stays; CLEAR of a counter
returns COUNT to 0; no other register changes (R12, R110). -/
def Obligations.StoredWriteByAccessCodes : Prop :=
  ∀ (off : Nat) (v : Word) (s : State),
    (∀ r, regSpecAt off = some r → ∀ i, i < 64 →
      (reg (writeStored off v s) off).getLsbD i =
        (((if r.rw.testBit i then v.getLsbD i else (reg s off).getLsbD i) && !(r.w1c.testBit i && v.getLsbD i)) &&
          !(r.isCounter && v.getLsbD 48 && decide (i < 48)))) ∧
    (regSpecAt off = none → writeStored off v s = s) ∧
    (∀ o, o ≠ off → reg (writeStored off v s) o = reg s o) ∧ ({ writeStored off v s with regs := s.regs } : State) = s

/-- RETX returns to TILE_EPC with EXL clear and marks the core as resumed; BREAK takes its exception; ISYNC empties the instruction cache and goes on;
WNEXT ends the item and waits with its destination, or stops where the partition is being stopped (R68, R217, R228, R235, R238). -/
def Obligations.ReturnBreakSyncNext : Prop :=
  ∀ (t : Tile) (d : GReg) (s : State), FetchOk s t →
    let n := fetched t s
    (Spells s t (.retx t) → ∃ u, exec (.retx t) s = .next u ∧ getPc u t = reg s (aTileEpc t) ∧ getB u (aTileCoreStatus t) 0 = false ∧
      (core u t).resumed = true ∧ (∀ o, noteReg o = false → o ≠ aTileCoreStatus t → o ≠ aVxResume t → reg u o = reg s o) ∧
      (∀ r, getG u t r = getG s t r) ∧ (∀ x, memByte u x = memByte s x)) ∧
    (Spells s t (.brk t) → exec (.brk t) s = .next (raiseExc t 0x06 0 n)) ∧
    (Spells s t (.isync t) → ∃ u, exec (.isync t) s = .next u ∧ getPc u t = getPc s t + 4 ∧ (∀ line, icFind u t line = none) ∧
      (∀ r, getG u t r = getG s t r) ∧ (∀ x, memByte u x = memByte s x)) ∧
    (Spells s t (.wnext t d) → ∃ u, exec (.wnext t d) s = .next u ∧ (core u t).item = none ∧ getPc u t = getPc s t ∧
      (core u t).run = (match ownerOf s t with | some p => if (part s p).stopping then .stopped else .waiting d | none => .stopped) ∧
      (∀ r, getG u t r = getG s t r) ∧ (∀ x, memByte u x = memByte s x))

/-- WAITM and WAITS give D the completion code of the descriptor A names, 0xFF where the core has no record of it, and leave the core where it is while
the descriptor is not complete; WAITALL completes while neither queue of the tile holds a descriptor that its core issued (R227). -/
def Obligations.Waits : Prop :=
  ∀ (t : Tile) (d a : GReg) (s : State), FetchOk s t →
    let q := ((getG s t a).extractLsb' 0 16).toNat
    let n := fetched t s
    let gives (i : Instr) (u : State) : Prop := Spells s t i → exec i s = .next u
    let w (i : Instr) (l : List (Nat × Option Byte)) : Prop :=
      (∀ c, codeFor l q = some c → gives i (nextPc t (setG t d (c.zeroExtend 64) n))) ∧ (codeFor l q = none → gives i n)
    w (.waitm t d a) (core s t).mxCodes ∧ w (.waits t d a) (core s t).stCodes ∧
    (∀ l : List (Nat × Option Byte), (∀ e ∈ l, e.1 ≠ q) → codeFor l q = some 0xFF) ∧
    ((∀ e ∈ (tile s t).mxq, e.solv ≠ none) → (∀ e ∈ (tile s t).stq, e.solv ≠ none) → gives (.waitall t) (nextPc t n)) ∧
    ((∃ e ∈ (tile s t).mxq, e.solv = none) ∨ (∃ e ∈ (tile s t).stq, e.solv = none) → gives (.waitall t) n)

/-- MXI and STI with room in the queue complete: the descriptor enters at the end of the queue with the next sequence number, and D takes that number; with
a full queue the core stalls; STI of a register that is not a multiple of 4, or of G0, raises ILLEGAL (R141, R204, R225, R226). -/
def Obligations.DescriptorIssue : Prop :=
  ∀ (t : Tile) (d a b : GReg) (s : State), FetchOk s t →
    let n := fetched t s
    let gives (i : Instr) (u : State) : Prop := Spells s t i → exec i s = .next u
    (Spells s t (.mxi t d a b) → (tile s t).mxq.length < 8 → ∃ u e, exec (.mxi t d a b) s = .next u ∧ (tile u t).mxq = (tile s t).mxq ++ [e] ∧
      e.seq = (tile s t).mxSeq ∧ e.w0 = getG s t a ∧ e.w1 = getG s t b ∧ e.solv = none ∧ (tile u t).mxSeq = ((tile s t).mxSeq + 1) % 65536 ∧
      (∀ r, getG u t r = if r = d ∧ d ≠ 0 then BitVec.ofNat 64 (tile s t).mxSeq else getG s t r) ∧ getPc u t = getPc s t + 4 ∧
      (∀ x, memByte u x = memByte s x)) ∧
    (8 ≤ (tile s t).mxq.length → gives (.mxi t d a b) n) ∧
    (Spells s t (.sti t d a) → a.val % 4 = 0 → a ≠ 0 → (tile s t).stq.length < 16 → ∃ u e, exec (.sti t d a) s = .next u ∧
      (tile u t).stq = (tile s t).stq ++ [e] ∧ e.seq = (tile s t).stSeq ∧ e.ws = (List.range 4).map (fun j => getG s t (Fin.ofNat 32 (a.val + j))) ∧
      e.solv = none ∧ (tile u t).stSeq = ((tile s t).stSeq + 1) % 65536 ∧
      (∀ r, getG u t r = if r = d ∧ d ≠ 0 then BitVec.ofNat 64 (tile s t).stSeq else getG s t r) ∧ getPc u t = getPc s t + 4 ∧
      (∀ x, memByte u x = memByte s x)) ∧
    (a.val % 4 = 0 → a ≠ 0 → 16 ≤ (tile s t).stq.length → gives (.sti t d a) n) ∧
    (a.val % 4 ≠ 0 ∨ a = 0 → gives (.sti t d a) (raiseExc t 0x01 0 n))

/-- At an instruction boundary with IE set and EXL clear, the pending interrupt of lowest code is taken, with the address of the next instruction not yet
issued and the value 0; with EXL set, IE clear or nothing pending none is (R236, R239). -/
def Obligations.InterruptEntry : Prop :=
  ∀ (t : Tile) (s : State), canIssue s t = true →
    let cs := aTileCoreStatus t
    let st := aStrmStatus t
    let cvt := (getB s (aTileCvt t) 2 && getB s (aTileCvtStatus t) 0) || (getB s (aTileCvt t) 3 && getB s (aTileCvtStatus t) 4)
    let acc := getB s (aAccStatus t) 12 && getB s (aAccStatus t) 8
    let strm := getB s st 14 && (getB s st 8 || getB s st 9 || getB s st 11)
    let take (c : Nat) : Prop := exec (.interruptEntry t) s = .next (enterHandler t c false (getPc s t) 0 s)
    (getB s cs 1 = true → getB s cs 0 = false →
      (getB s cs 16 = true → take 0x20) ∧ (getB s cs 16 = false → getB s cs 17 = true → take 0x21) ∧
      (getB s cs 16 = false → getB s cs 17 = false → cvt = true → take 0x22) ∧
      (getB s cs 16 = false → getB s cs 17 = false → cvt = false → acc = true → take 0x23) ∧
      (getB s cs 16 = false → getB s cs 17 = false → cvt = false → acc = false → strm = true → take 0x24) ∧
      (getB s cs 16 = false → getB s cs 17 = false → cvt = false → acc = false → strm = false → exec (.interruptEntry t) s = .next s)) ∧
    (getB s cs 1 = false ∨ getB s cs 0 = true → exec (.interruptEntry t) s = .next s)

/-! ### The control core: vector instructions -/

/-- Every VINT instruction that writes elements completes: an active element takes the operation of its SEW bits, modulo 2^SEW, and an inactive one keeps
its value; of a shift by the width or more the spec states no result, and the statement none (R230, R231, R232; log entry 9). -/
def Obligations.VectorIntegers : Prop :=
  ∀ (t : Tile) (vd va vb : VReg) (m : MReg) (sew : Sew) (s : State), FetchOk s t →
    let w := sewBits sew
    let lanes (i : Instr) (ok : Nat → Prop) (f : BitVec w → BitVec w → BitVec w) : Prop := Spells s t i →
      ∃ v, exec i s = .next (nextPc t (setV t vd v (fetched t s))) ∧ ∀ k, k < 512 / w →
        (active (getM s t m) k = true → ok (elemOf w (getV s t vb) k) →
          elemOf w v k = (f (BitVec.ofNat w (elemOf w (getV s t va) k)) (BitVec.ofNat w (elemOf w (getV s t vb) k))).toNat) ∧
        (active (getM s t m) k = false → elemOf w v k = elemOf w (getV s t vd) k)
    let all : Nat → Prop := fun _ => True
    let few : Nat → Prop := fun b => b < w
    lanes (.vadd t vd va vb m sew) all (fun x y => x + y) ∧ lanes (.vsub t vd va vb m sew) all (fun x y => x - y) ∧
    lanes (.vmul t vd va vb m sew) all (fun x y => x * y) ∧ lanes (.vmin t vd va vb m sew) all (fun x y => if x.sle y then x else y) ∧
    lanes (.vminu t vd va vb m sew) all (fun x y => if x.ule y then x else y) ∧
    lanes (.vmax t vd va vb m sew) all (fun x y => if x.sle y then y else x) ∧
    lanes (.vmaxu t vd va vb m sew) all (fun x y => if x.ule y then y else x) ∧ lanes (.vand t vd va vb m sew) all (fun x y => x &&& y) ∧
    lanes (.vor t vd va vb m sew) all (fun x y => x ||| y) ∧ lanes (.vxor t vd va vb m sew) all (fun x y => x ^^^ y) ∧
    lanes (.vsll t vd va vb m sew) few (fun x y => x <<< y) ∧ lanes (.vsrl t vd va vb m sew) few (fun x y => x >>> y) ∧
    lanes (.vsra t vd va vb m sew) few (fun x y => x.sshiftRight' y)

/-- Every compare with Vd[4:3] = 0 completes: bit i of VM(Vd[2:0]) takes the result for an active element i, and every other bit stays; the floating ones
need SEW 32 or 64 (R230). -/
def Obligations.VectorCompares : Prop :=
  ∀ (t : Tile) (vd va vb : VReg) (m : MReg) (sew : Sew) (s : State), FetchOk s t → vd.val < 8 →
    let w := sewBits sew
    let k : MReg := Fin.ofNat 8 vd.val
    let bits (i : Instr) (f : Nat → Nat → Bool) : Prop := Spells s t i →
      ∃ v, exec i s = .next (nextPc t (setM t k v (fetched t s))) ∧ ∀ j, j < 64 →
        v.getLsbD j = (if j < 512 / w ∧ active (getM s t m) j = true then f (elemOf w (getV s t va) j) (elemOf w (getV s t vb) j)
          else (getM s t k).getLsbD j)
    bits (.vcmpeq t vd va vb m sew) (fun x y => x == y) ∧
    bits (.vcmplt t vd va vb m sew) (fun x y => (BitVec.ofNat w x).slt (BitVec.ofNat w y)) ∧
    bits (.vcmpltu t vd va vb m sew) (fun x y => decide (x < y)) ∧
    (sew = .s32 ∨ sew = .s64 → bits (.vfcmpeq t vd va vb m sew) (fun x y => eqV (vfpDec sew x) (vfpDec sew y)) ∧
      bits (.vfcmplt t vd va vb m sew) (fun x y => ltV (vfpDec sew x) (vfpDec sew y)))

/-- Every VFP instruction of SEW 32 or 64 completes: an active element takes the exact result of its operation, rounded once to nearest, ties to even; FMA
rounds Va × Vb + Vd once (R230, R233). -/
def Obligations.VectorFloats : Prop :=
  ∀ (t : Tile) (vd va vb : VReg) (m : MReg) (sew : Sew) (s : State), FetchOk s t → sew = .s32 ∨ sew = .s64 →
    let w := sewBits sew
    let lanes (i : Instr) (f : Val → Val → Val → Val) : Prop := Spells s t i →
      ∃ v, exec i s = .next (nextPc t (setV t vd v (fetched t s))) ∧ ∀ k, k < 512 / w →
        elemOf w v k = (if active (getM s t m) k = true then
            ((sewFloat sew).encode false .rne (f (vfpDec sew (elemOf w (getV s t va) k)) (vfpDec sew (elemOf w (getV s t vb) k))
              (vfpDec sew (elemOf w (getV s t vd) k)))).code % 2 ^ w
          else elemOf w (getV s t vd) k)
    lanes (.vfadd t vd va vb m sew) (fun x y _ => addV x y) ∧ lanes (.vfsub t vd va vb m sew) (fun x y _ => subV x y) ∧
    lanes (.vfmul t vd va vb m sew) (fun x y _ => mulV x y) ∧ lanes (.vffma t vd va vb m sew) (fun x y z => fmaV x y z) ∧
    lanes (.vfmin t vd va vb m sew) (fun x y _ => minV x y) ∧ lanes (.vfmax t vd va vb m sew) (fun x y _ => maxV x y)

/-- VWIDE with mask field 0, an even Vd and a source width of 8, 16 or 32 completes: the products of the sign that the form names, of 2 × SEW bits, go to Vd
and, from the middle on, to V(d + 1); with multiply-add each is added to the element that was there (R231, R232). -/
def Obligations.VectorWidening : Prop :=
  ∀ (t : Tile) (vd va vb : VReg) (sew : Sew) (sa sb : Bool) (s : State), FetchOk s t → vd.val % 2 = 0 → sew ≠ .s64 →
    let w := sewBits sew
    let h := 256 / w
    let ext (g : Bool) (x : Nat) : BitVec (2 * w) := if g then (BitVec.ofNat w x).signExtend (2 * w) else BitVec.ofNat (2 * w) x
    let prod (i : Nat) : BitVec (2 * w) := ext sa (elemOf w (getV s t va) i) * ext sb (elemOf w (getV s t vb) i)
    let vn : VReg := Fin.ofNat 32 (vd.val + 1)
    let pair (i : Instr) (add : Bool) : Prop :=
      Spells s t i → ∃ lo hi, exec i s = .next (nextPc t (setV t vn hi (setV t vd lo (fetched t s)))) ∧ ∀ k, k < h →
        elemOf (2 * w) lo k = (prod k + (if add then BitVec.ofNat (2 * w) (elemOf (2 * w) (getV s t vd) k) else 0)).toNat ∧
        elemOf (2 * w) hi k = (prod (h + k) + (if add then BitVec.ofNat (2 * w) (elemOf (2 * w) (getV s t vn) k) else 0)).toNat
    pair (.vwideMul t vd va vb 0 sew sa sb) false ∧ pair (.vwideMuladd t vd va vb 0 sew sa sb) true

/-- VDOT with mask field 0 completes. The 8-bit form adds to each INT32 lane the exact sum of four products, held within −2^31 to 2^31 − 1, and sets
VX_STATUS.ISAT where a lane was held; the 16-bit forms add two products to each FP32 lane with one rounding (R231, R232, R233). -/
def Obligations.VectorDots : Prop :=
  ∀ (t : Tile) (vd va vb : VReg) (sa sb : Bool) (s : State), FetchOk s t →
    let byte (g : Bool) (v : VReg) (i : Nat) : Int :=
      let x := BitVec.ofNat 8 (elemOf 8 (getV s t v) i)
      if g then x.toInt else x.toNat
    let sum (j : Nat) : Int := (BitVec.ofNat 32 (elemOf 32 (getV s t vd) j)).toInt + byte sa va (4 * j) * byte sb vb (4 * j)
      + byte sa va (4 * j + 1) * byte sb vb (4 * j + 1) + byte sa va (4 * j + 2) * byte sb vb (4 * j + 2)
      + byte sa va (4 * j + 3) * byte sb vb (4 * j + 3)
    let held (j : Nat) : Int := max (-(2 ^ 31)) (min (2 ^ 31 - 1) (sum j))
    let fp (g : FloatFmt) (j : Nat) : Nat :=
      let p (i : Nat) : Val := mulV (g.decode (elemOf 16 (getV s t va) i)) (g.decode (elemOf 16 (getV s t vb) i))
      (fmtFp32.encode false .rne (addV (addV (p (2 * j)) (p (2 * j + 1))) (fmtFp32.decode (elemOf 32 (getV s t vd) j)))).code
    (Spells s t (.vdotInt8 t vd va vb 0 .s8 sa sb) → ∃ v, exec (.vdotInt8 t vd va vb 0 .s8 sa sb) s = .next (nextPc t (setV t vd v
        (if (List.range 16).any (fun j => held j != sum j) then stick (aVxStatus t) 0 (fetched t s) else fetched t s))) ∧
      ∀ j, j < 16 → elemOf 32 v j = (BitVec.ofInt 32 (held j)).toNat) ∧
    (Spells s t (.vdotBf16 t vd va vb 0 .s16) →
      ∃ v, exec (.vdotBf16 t vd va vb 0 .s16) s = .next (nextPc t (setV t vd v (fetched t s))) ∧ ∀ j, j < 16 → elemOf 32 v j = fp fmtBf16 j % 2 ^ 32) ∧
    (Spells s t (.vdotFp16 t vd va vb 0 .s16) →
      ∃ v, exec (.vdotFp16 t vd va vb 0 .s16) s = .next (nextPc t (setV t vd v (fetched t s))) ∧ ∀ j, j < 16 → elemOf 32 v j = fp fmtFp16 j % 2 ^ 32)

/-- VBCAST, VINS, VEXT and VSLIDE complete. VEXT of an element that the width has not is left open (log entry 9), and VSLIDE reads Gb as signed, which is
the model's choice (R230, R231). -/
def Obligations.VectorMoves : Prop :=
  ∀ (t : Tile) (vd va : VReg) (d a b : GReg) (m : MReg) (sew : Sew) (s : State), FetchOk s t →
    let w := sewBits sew
    let k := ((getG s t b).extractLsb' 0 6).toNat
    let n := fetched t s
    let x := (getG s t a).toNat % 2 ^ w
    (Spells s t (.vbcast t vd a m sew) → ∃ v, exec (.vbcast t vd a m sew) s = .next (nextPc t (setV t vd v n)) ∧ ∀ i, i < 512 / w →
      elemOf w v i = (if active (getM s t m) i = true then x else elemOf w (getV s t vd) i)) ∧
    (Spells s t (.vins t vd a b m sew) → ∃ u, exec (.vins t vd a b m sew) s = .next (nextPc t u) ∧ (∀ i, i < 512 / w →
        elemOf w (getV u t vd) i = (if i = k ∧ active (getM s t m) k = true then x else elemOf w (getV s t vd) i)) ∧
      (∀ r, r ≠ vd → getV u t r = getV s t r) ∧ (∀ r, getG u t r = getG s t r) ∧ (∀ z, memByte u z = memByte s z)) ∧
    (k < 512 / w → Spells s t (.vext t d va b m sew) → exec (.vext t d va b m sew) s = .next (nextPc t (setG t d (BitVec.ofNat 64 (elemOf w (getV s t va) k)) n))) ∧
    (Spells s t (.vslide t vd va b m sew) → ∃ v, exec (.vslide t vd va b m sew) s = .next (nextPc t (setV t vd v n)) ∧ ∀ i, i < 512 / w →
      elemOf w v i = (if active (getM s t m) i = true then
          (let j : Int := i + (getG s t b).toInt
            if 0 ≤ j ∧ j < (512 / w : Nat) then elemOf w (getV s t va) j.toNat else 0)
        else elemOf w (getV s t vd) i))

/-- The mask operations complete, bitwise over 64 bits (R230). -/
def Obligations.MaskOperations : Prop :=
  ∀ (t : Tile) (vd va vb : MReg) (s : State), FetchOk s t →
    let w (i : Instr) (v : Word) : Prop := Spells s t i → exec i s = .next (nextPc t (setM t vd v (fetched t s)))
    w (.vmand t vd va vb) (getM s t va &&& getM s t vb) ∧ w (.vmor t vd va vb) (getM s t va ||| getM s t vb) ∧ w (.vmnot t vd va) (~~~ getM s t va)

/-- The reductions complete: element 0 takes the active elements combined in ascending order and every other element 0; of none, RSUM and RSUMF give 0, RMAX
the most negative and RMIN the most positive value (R231, R232, R233). -/
def Obligations.VectorReductions : Prop :=
  ∀ (t : Tile) (vd va : VReg) (m : MReg) (sew : Sew) (s : State), FetchOk s t →
    let w := sewBits sew
    let xs : List (BitVec w) := ((List.range (512 / w)).filter fun i => active (getM s t m) i).map fun i => BitVec.ofNat w (elemOf w (getV s t va) i)
    let red (i : Instr) (r : BitVec w) : Prop := Spells s t i →
      ∃ v, exec i s = .next (nextPc t (setV t vd v (fetched t s))) ∧ elemOf w v 0 = r.toNat ∧ ∀ k, 0 < k → k < 512 / w → elemOf w v k = 0
    red (.vredRsum t vd va m sew) (xs.foldl (fun a x => a + x) 0) ∧
    red (.vredRmax t vd va m sew) (xs.foldl (fun a x => if a.slt x then x else a) (BitVec.intMin w)) ∧
    red (.vredRmin t vd va m sew) (xs.foldl (fun a x => if x.slt a then x else a) (BitVec.intMax w)) ∧
    (sew = .s32 ∨ sew = .s64 → red (.vredRsumf t vd va m sew)
      (match xs with
        | [] => 0
        | x :: r => BitVec.ofNat w (vfpEnc sew (r.foldl (fun a y => vfpDec sew (vfpEnc sew (addV a (vfpDec sew y.toNat)))) (vfpDec sew x.toNat)))))

/-- A vector load whose active elements lie in [0, W), are aligned and meet no uncorrectable word completes: an active element takes the bytes at its address,
an inactive one keeps its value, and no other register and no byte of memory changes (R231, R234). -/
def Obligations.VectorLoads : Prop :=
  ∀ (t : Tile) (vd vb : VReg) (a b : GReg) (m : MReg) (sew : Sew) (s : State), FetchOk s t → (core s t).resumed = false ∨ vxValid s t = false →
    let w := sewBits sew
    let loads (i : Instr) (addr : Nat → Word) : Prop := Spells s t i →
      (∀ k, k < 512 / w → active (getM s t m) k = true →
        (addr k).toNat + w / 8 ≤ tileW s t ∧ (addr k).toNat % (w / 8) = 0 ∧ anyBad s (pkgAddr t (addr k).toNat) (w / 8) = false) →
      ∃ u, exec i s = .next u ∧ getPc u t = getPc s t + 4 ∧ (∀ k, k < 512 / w →
          elemOf w (getV u t vd) k = (if active (getM s t m) k = true then leVal (memBytes s (pkgAddr t (addr k).toNat) (w / 8))
            else elemOf w (getV s t vd) k)) ∧
        (∀ r, r ≠ vd → getV u t r = getV s t r) ∧ (∀ r, getG u t r = getG s t r) ∧ (∀ r, getM u t r = getM s t r) ∧ (∀ x, memByte u x = memByte s x)
    loads (.vld t vd a m sew) (fun k => getG s t a + BitVec.ofNat 64 (k * (w / 8))) ∧
    loads (.vlds t vd a b m sew) (fun k => getG s t a + BitVec.ofNat 64 k * getG s t b) ∧
    loads (.vldx t vd a vb m sew) (fun k => getG s t a + BitVec.ofNat 64 (elemOf w (getV s t vb) k))

/-- A vector store whose active elements lie in [0, W), are aligned and leave no merge unmade completes: of the elements that share an address the highest
remains, and no byte outside the active elements' addresses changes (R231, R234, R302). -/
def Obligations.VectorStores : Prop :=
  ∀ (t : Tile) (vd vb : VReg) (a b : GReg) (m : MReg) (sew : Sew) (s : State), FetchOk s t → (core s t).resumed = false ∨ vxValid s t = false →
    let w := sewBits sew
    let act (k : Nat) : Prop := k < 512 / w ∧ active (getM s t m) k = true
    let stores (i : Instr) (addr : Nat → Word) : Prop := Spells s t i →
      (∀ k, act k → (addr k).toNat + w / 8 ≤ tileW s t ∧ (addr k).toNat % (w / 8) = 0 ∧ writePoisons s (pkgAddr t (addr k).toNat) (w / 8) = false) →
      ∃ u, exec i s = .next u ∧ getPc u t = getPc s t + 4 ∧
        (∀ k, act k → (∀ j, act j → k < j → addr j ≠ addr k) →
          memBytes u (pkgAddr t (addr k).toNat) (w / 8) = leBytes (w / 8) (elemOf w (getV s t vd) k)) ∧
        (∀ x, (∀ k, act k → x < pkgAddr t (addr k).toNat ∨ pkgAddr t (addr k).toNat + w / 8 ≤ x) → memByte u x = memByte s x) ∧
        (∀ r, getV u t r = getV s t r) ∧ (∀ r, getG u t r = getG s t r) ∧ (∀ r, getM u t r = getM s t r)
    stores (.vst t vd a m sew) (fun k => getG s t a + BitVec.ofNat 64 (k * (w / 8))) ∧
    stores (.vsts t vd a b m sew) (fun k => getG s t a + BitVec.ofNat 64 k * getG s t b) ∧
    stores (.vstx t vd a vb m sew) (fun k => getG s t a + BitVec.ofNat 64 (elemOf w (getV s t vb) k))

/-- Instruction words. Every form that the classes allow has a word, and that word spells it, with every operand at every value; a word that spells a form is the
word of that form, but that a mask operation does not look at SEW and at Va[4:3] and Vb[4:3] (R230). A form that a class forbids, a compare with Vd[4:3] not 0, a VFP instruction of SEW 8 or 16, VWIDE or VDOT with a mask, VWIDE of SEW 64 or with an
odd Vd, has a word that spells nothing. A fetched word that spells nothing raises ILLEGAL with the value 0, and a fetch outside [0, W) or from a line with an
uncorrectable word that is not cached raises FETCH with the address (R217 to R222, R230 to R232, R235). -/
def Obligations.IllegalVectorForms : Prop :=
  (∀ (t : Tile) (i : Instr) (v : BitVec 32), decodeCore t v = some i →
    encodeCore i = some (match i with | .vmand .. | .vmor .. | .vmnot .. => v &&& ~~~0x18C0C0#32 | _ => v)) ∧
  (∀ (t : Tile) (d a b : GReg) (imm : BitVec 16) (far : BitVec 21) (off : BitVec 8) (k : BitVec 6) (vd va vb : VReg) (m md ma mb : MReg) (sew : Sew)
      (sa sb : Bool),
    let rt (i : Instr) : Prop := ∃ v, encodeCore i = some v ∧ decodeCore t v = some i
    let no (i : Instr) : Prop := ∃ v, encodeCore i = some v ∧ decodeCore t v = none
    rt (.add t d a b) ∧ rt (.sub t d a b) ∧ rt (.and t d a b) ∧ rt (.or t d a b) ∧ rt (.xor t d a b) ∧ rt (.sll t d a b) ∧ rt (.srl t d a b) ∧
    rt (.sra t d a b) ∧ rt (.slt t d a b) ∧ rt (.sltu t d a b) ∧ rt (.min t d a b) ∧ rt (.max t d a b) ∧ rt (.minu t d a b) ∧ rt (.maxu t d a b) ∧
    rt (.mul t d a b) ∧ rt (.mulhi t d a b) ∧ rt (.mulhiu t d a b) ∧ rt (.mulhim t d a b) ∧ rt (.div t d a b) ∧ rt (.divu t d a b) ∧
    rt (.rem t d a b) ∧ rt (.remu t d a b) ∧ rt (.sext8 t d a) ∧ rt (.sext16 t d a) ∧ rt (.sext32 t d a) ∧ rt (.upperImmediate t d far) ∧
    rt (.addi t d a imm) ∧ rt (.load64 t d a imm) ∧ rt (.load32 t d a imm) ∧ rt (.load16 t d a imm) ∧ rt (.load8 t d a imm) ∧
    rt (.store64 t d a imm) ∧ rt (.store32 t d a imm) ∧ rt (.store16 t d a imm) ∧ rt (.store8 t d a imm) ∧ rt (.jr t d a imm) ∧ rt (.andi t d a imm) ∧
    rt (.ori t d a imm) ∧ rt (.xori t d a imm) ∧ rt (.slti t d a imm) ∧ rt (.sltiu t d a imm) ∧ rt (.beq t a b off) ∧ rt (.bne t a b off) ∧
    rt (.blt t a b off) ∧ rt (.bge t a b off) ∧ rt (.bltu t a b off) ∧ rt (.bgeu t a b off) ∧ rt (.jal t d far) ∧ rt (.slli t d a k) ∧
    rt (.srli t d a k) ∧ rt (.srai t d a k) ∧ rt (.sysr t d a) ∧ rt (.sysw t a b) ∧ rt (.retx t) ∧ rt (.brk t) ∧ rt (.isync t) ∧ rt (.wnext t d) ∧
    rt (.waitm t d a) ∧ rt (.waits t d a) ∧ rt (.waitall t) ∧ rt (.mxi t d a b) ∧ rt (.sti t d a) ∧ rt (.vadd t vd va vb m sew) ∧
    rt (.vsub t vd va vb m sew) ∧ rt (.vmul t vd va vb m sew) ∧ rt (.vmin t vd va vb m sew) ∧ rt (.vminu t vd va vb m sew) ∧
    rt (.vmax t vd va vb m sew) ∧ rt (.vmaxu t vd va vb m sew) ∧ rt (.vand t vd va vb m sew) ∧ rt (.vor t vd va vb m sew) ∧
    rt (.vxor t vd va vb m sew) ∧ rt (.vsll t vd va vb m sew) ∧ rt (.vsrl t vd va vb m sew) ∧ rt (.vsra t vd va vb m sew) ∧ rt (.vld t vd a m sew) ∧
    rt (.vlds t vd a b m sew) ∧ rt (.vldx t vd a vb m sew) ∧ rt (.vst t vd a m sew) ∧ rt (.vsts t vd a b m sew) ∧ rt (.vstx t vd a vb m sew) ∧
    rt (.vbcast t vd a m sew) ∧ rt (.vins t vd a b m sew) ∧ rt (.vext t d va b m sew) ∧ rt (.vslide t vd va b m sew) ∧ rt (.vmand t md ma mb) ∧
    rt (.vmor t md ma mb) ∧ rt (.vmnot t md ma) ∧ rt (.vredRsum t vd va m sew) ∧ rt (.vredRmax t vd va m sew) ∧ rt (.vredRmin t vd va m sew) ∧
    (vd.val < 8 →
      rt (.vcmpeq t vd va vb m sew) ∧ rt (.vcmplt t vd va vb m sew) ∧ rt (.vcmpltu t vd va vb m sew)) ∧
    (sew = .s32 ∨ sew = .s64 →
      rt (.vfadd t vd va vb m sew) ∧ rt (.vfsub t vd va vb m sew) ∧ rt (.vfmul t vd va vb m sew) ∧ rt (.vffma t vd va vb m sew) ∧
      rt (.vfmin t vd va vb m sew) ∧ rt (.vfmax t vd va vb m sew) ∧ rt (.vredRsumf t vd va m sew)) ∧
    (sew = .s32 ∨ sew = .s64 → vd.val < 8 → rt (.vfcmpeq t vd va vb m sew) ∧ rt (.vfcmplt t vd va vb m sew)) ∧
    (vd.val % 2 = 0 → sew ≠ .s64 → rt (.vwideMul t vd va vb 0 sew sa sb) ∧ rt (.vwideMuladd t vd va vb 0 sew sa sb)) ∧
    rt (.vdotInt8 t vd va vb 0 .s8 sa sb) ∧ rt (.vdotBf16 t vd va vb 0 .s16) ∧ rt (.vdotFp16 t vd va vb 0 .s16) ∧
    (8 ≤ vd.val → no (.vcmpeq t vd va vb m sew) ∧ no (.vcmplt t vd va vb m sew) ∧ no (.vcmpltu t vd va vb m sew) ∧
      no (.vfcmpeq t vd va vb m sew) ∧ no (.vfcmplt t vd va vb m sew)) ∧
    (sew = .s8 ∨ sew = .s16 → no (.vfadd t vd va vb m sew) ∧ no (.vfsub t vd va vb m sew) ∧ no (.vfmul t vd va vb m sew) ∧
      no (.vffma t vd va vb m sew) ∧ no (.vfmin t vd va vb m sew) ∧ no (.vfmax t vd va vb m sew) ∧ no (.vfcmpeq t vd va vb m sew) ∧
      no (.vfcmplt t vd va vb m sew) ∧ no (.vredRsumf t vd va m sew)) ∧
    (m ≠ 0 → no (.vwideMul t vd va vb m sew sa sb) ∧ no (.vwideMuladd t vd va vb m sew sa sb) ∧ no (.vdotInt8 t vd va vb m sew sa sb) ∧
      no (.vdotBf16 t vd va vb m sew) ∧ no (.vdotFp16 t vd va vb m sew)) ∧
    (sew = .s64 ∨ vd.val % 2 = 1 → no (.vwideMul t vd va vb m sew sa sb) ∧ no (.vwideMuladd t vd va vb m sew sa sb))) ∧
  (∀ (t : Tile) (i : Instr) (v : BitVec 32) (s : State), decodeCore t v = some i →
    (FetchOk s t → decodeCore t (wordNext s t) = none → exec i s = .next (raiseExc t 0x01 0 (fetched t s))) ∧
    (canIssue s t = true → getB s (aTileCoreStatus t) 0 = false → tileW s t < (getPc s t).toNat + 4 →
      ∃ second, exec i s = .next (enterHandler t 0x05 second (getPc s t) (getPc s t).toNat (tickFree s))) ∧
    (canIssue s t = true → getB s (aTileCoreStatus t) 0 = false → (getPc s t).toNat + 4 ≤ tileW s t →
      icFind s t ((getPc s t).toNat / 64) = none → anyBad s (fetchLine s t) 64 = true →
      ∃ second n, Noted s n ∧ exec i s = .next (enterHandler t 0x05 second (getPc s t) (getPc s t).toNat (tickFree n))))

/-! ### The matrix engine, the accumulator file and the stream engine -/

/-- A matrix descriptor starts where it is executed and every earlier operation of its slot is a matrix one or a read that has begun, binding an unbound slot
with zero totals; a chunk that ends is promoted into every element of the slot; the descriptor leaves the queue with DONE, or with POISON where a row met an
uncorrectable word; one that is not executed leaves with its code and changes no slot; each sets LAST_SEQ, LAST_CODE and its interrupt. A solver sequencer's
descriptor leaves with DONE, or, where it took ACC_FORMAT_FAULT, with that code, and its command goes on or ends. While the tile's clock is gated nothing happens. The room that a descriptor leaves is filled first by what a sequencer has left to issue (R124, R126, R127, R129, R157, R634). -/
def Obligations.MatrixDescriptors : Prop :=
  ∀ (t : Tile) (e : MxEntry) (q : List MxEntry) (s : State), (tile s t).mxq = e :: q →
    let x := mxBits e.w0 e.w1
    let k := mxSlot x
    let ended (u : State) (code : Byte) : Prop :=
      (tile u t).mxq = q ∧ (tile u t).mxRun = none ∧ getF u (aTileMxStatus t) 16 8 = code.toNat ∧ getF u (aTileMxStatus t) 32 16 = e.seq % 65536 ∧
        (mxIrq x = true → getB u (aTileCoreStatus t) 16 = true) ∧ (code = 0x02 → getB u (aTileMxStatus t) 10 = true) ∧
        (∀ c, (e.seq, c) ∈ (core s t).mxCodes → (e.seq, some code) ∈ (core u t).mxCodes) ∧
        ({ u with regs := s.regs, tiles := s.tiles, host := s.host, sent := s.sent } : State) = s ∧ (∀ v, v ≠ t.val → tile u v = tile s v)
    let left (u : State) (code : Byte) : Prop :=
      (tile u t).mxq = q ∧ (tile u t).mxRun = none ∧ getF u (aTileMxStatus t) 16 8 = code.toNat ∧ getF u (aTileMxStatus t) 32 16 = e.seq % 65536 ∧
        (∀ v, v ≠ t.val → tile u v = tile s v)
    ((∀ d, seqWaiters s d = []) → seqRefill s = s) ∧
    (engineGated s = true → exec (.mxDescStart t false) s = .next s ∧ exec (.mxChunkEnd t) s = .next s ∧
      (∀ stall, exec (.mxDescDone t stall) s = .next s) ∧ exec (.mxSkipDone t) s = .next s) ∧
    (engineGated s = false →
    ((tile s t).mxRun = none → e.skip = none →
      (∀ o ∈ slotBefore (accSlot s t k) e.seq, (∃ n b, o = .mx n b) ∨
        ∃ n d, o = .rd n ∧ (tile s t).stRun = true ∧ (tile s t).stq.head? = some d ∧ d.seq = n ∧ stEntryNi s t n = none) →
      ∃ u, exec (.mxDescStart t false) s = .next u ∧ (tile u t).mxRun = some {} ∧ (tile u t).mxq = e :: q ∧
        (accSlot u t k).bind = some ((accSlot s t k).bind.getD (mxBind x)) ∧
        ((accSlot s t k).bind = none → (accSlot u t k).tot = [] ∧ (accSlot u t k).comp = []) ∧
        ((accSlot s t k).bind ≠ none → accSlot u t k = accSlot s t k) ∧ (∀ j, j ≠ k → accSlot u t j = accSlot s t j) ∧
        ({ u with tiles := s.tiles } : State) = s ∧ (∀ v, v ≠ t.val → tile u v = tile s v)) ∧
    (∀ r, (tile s t).mxRun = some r → r.chunk < mxChunks x → e.solv = none →
      ∃ u r', exec (.mxChunkEnd t) s = .next u ∧ (tile u t).mxRun = some r' ∧ r'.chunk = r.chunk + 1 ∧ (tile u t).mxq = e :: q ∧
        (∀ a, memByte u a = memByte s a) ∧ (∀ j, j ≠ k → accSlot u t j = accSlot s t j) ∧ (accSlot u t k).bind = (accSlot s t k).bind ∧
        (let k0 := r.chunk * mxChunkLen x
        let n := min (mxChunkLen x) (mxK x - k0)
        let zero := r.chunk = 0 ∧ mxAcc x = false
        let old (l : Tab Nat) (i : Nat) : Nat := if zero then 0 else tabGet 0 i l
        ∀ m j, m < mxM x → j < mxN x →
          let i := m * mxN x + j
          let va := ((operandOf s t e false).row s t m k0 n).1
          let vb := ((operandOf s t e true).row s t j k0 n).1
          ((mxBind x).afmt = 4 → tabGet 0 i (accSlot u t k).tot = (promoteInt (old (accSlot s t k).tot i) (chunkInt va vb)).tot) ∧
          let z := if (operandOf s t e false).bad s t m k0 n = true ∨ (operandOf s t e true).bad s t j k0 n = true then (vNan, vZero) else chunkPair x va vb
          ((mxBind x).afmt ≠ 4 →
            tabGet 0 i (accSlot u t k).tot = (promote (mxBind x).afmt (old (accSlot s t k).tot i) (old (accSlot s t k).comp i) z).tot ∧
              tabGet 0 i (accSlot u t k).comp = (promote (mxBind x).afmt (old (accSlot s t k).tot i) (old (accSlot s t k).comp i) z).comp))) ∧
    (∀ r stall, (tile s t).mxRun = some r → r.chunk = mxChunks x → e.solv = none →
      ∃ u, exec (.mxDescDone t stall) s = .next (seqRefill u) ∧ ended u (if r.poisonA = [] ∧ r.poisonB = [] then 0x01 else 0x02)) ∧
    (∀ r stall o, (tile s t).mxRun = some r → e.solv = some o →
      ∃ u, exec (.mxDescDone t stall) s = .next (seqRefill (seqEnded o t 0x01 0 false u)) ∧ left u 0x01) ∧
    (∀ c, e.skip = some c → e.solv = none →
      ∃ u, exec (.mxSkipDone t) s = .next (seqRefill u) ∧ ended u c ∧ (tile u t).acc = (tile s t).acc) ∧
    (∀ c o, e.skip = some c → e.solv = some o →
      ∃ u, exec (.mxSkipDone t) s = .next (seqRefill (seqEnded o t 0x23 0x07 false u)) ∧ left u c ∧ (tile u t).acc = (tile s t).acc))

/-- A write of ACC_SLOT_FREE places a free of each named slot that is bound at that place, and none of another; a free at the front of a slot's order takes
effect: the slot is unbound and empty (R150). -/
def Obligations.AccumulatorFrees : Prop :=
  ∀ (t : Tile) (mask : Word) (k : Fin 64) (s : State),
    (∃ u, exec (.accSlotFree t mask) s = .next u ∧
      (∀ j, j < 64 → accSlot u t j = if bitOf mask.toNat j = true ∧ (slotLatest (accSlot s t j)).isSome = true then
          { accSlot s t j with order := (accSlot s t j).order ++ [.free] } else accSlot s t j) ∧
      ({ tile u t with acc := (tile s t).acc } : TileSt) = tile s t ∧ ({ u with tiles := s.tiles } : State) = s ∧ (∀ v, v ≠ t.val → tile u v = tile s v)) ∧
    (∀ rest, (accSlot s t k).order = .free :: rest →
      ∃ u, exec (.accFreeEffect t k) s = .next u ∧ accSlot u t k = { order := rest } ∧ (∀ j, j ≠ k.val → accSlot u t j = accSlot s t j) ∧
        ({ u with tiles := s.tiles } : State) = s ∧ (∀ v, v ≠ t.val → tile u v = tile s v))

/-- A stream descriptor starts where it is executed and no earlier matrix descriptor precedes its read in a slot's order, and keeps the content of that slot; it
completes with DONE, with POISON, or with the code of its ending, unless an access of it is deferred, whose request then waits, or needs an entry where none is
free; a fault that ends it is recorded with its cause, stream and element where no fault bit was set; one that is not executed completes with its code, and FORMAT,
RANGE or POISON is set. A solver sequencer's descriptor completes with DONE, POISON or the code of an ending forced on it, and its command goes on or ends. While the
tile's clock is gated nothing happens (R166, R168, R190, R191, R198, R199, R206, R209, R635). -/
def Obligations.StreamDescriptors : Prop :=
  ∀ (t : Tile) (e : StEntry) (q : List StEntry) (s : State), (tile s t).stq = e :: q →
    let ended (u : State) (code : Byte) : Prop :=
      (tile u t).stq = q ∧ (tile u t).stRun = false ∧ getF u (aStrmStatus t) 16 8 = code.toNat ∧ getF u (aStrmStatus t) 32 16 = e.seq % 65536 ∧
        (stIrq (stBits e.ws) = true → getB u (aTileCoreStatus t) 17 = true)
    let ctx (forced : Bool) (net : StreamNet) : StCtx := { stCtx s t e with forced := forced, ue := net.ue }
    let marked (net : StreamNet) : State := packetsHurt (tileStation s t) net.hurt s
    let left (u : State) (o : Nat × Nat) (code : Byte) (own : Bool) : Prop :=
      ∃ z made, u = seqRefill (seqEnded o t code 0 (decide (code = 0x30)) (seqEndSt t made e code z)) ∧ (own = true → ∀ a, memByte z a = memByte s a) ∧
        (tile (seqEndSt t made e code z) t).stq = q ∧ (tile (seqEndSt t made e code z) t).stRun = false ∧
        getF (seqEndSt t made e code z) (aStrmStatus t) 16 8 = code.toNat ∧ getF (seqEndSt t made e code z) (aStrmStatus t) 32 16 = e.seq % 65536
    (engineGated s = true → exec (.strmDescStart t false) s = .next s ∧ (∀ stall net, exec (.strmDescDone t ⟨stall, net⟩) s = .next s) ∧
      (∀ ending stream elem stall net, exec (.strmDescFaultEnd t ending ⟨stream, elem⟩ ⟨stall, net⟩) s = .next s) ∧ exec (.strmSkipDone t) s = .next s) ∧
    (engineGated s = false →
    ((tile s t).stRun = false → e.skip = none → (∀ a ∈ (tile s t).acc,
        SlotOp.rd e.seq ∈ a.2.order → ∀ o ∈ a.2.order.takeWhile (fun o => decide (o ≠ .rd e.seq)), ∀ n b, o ≠ .mx n b) →
      exec (.strmDescStart t false) s = .next (modTile t (fun y => { y with
        stRun := true
        stq := { e with slot := ((stIns (stBits e.ws) e.chain).find? fun r => decide (r.kind = 3)).map fun r => accSlot s t (recSlot r) } :: q }) s)) ∧
    (∀ stall net, (tile s t).stRun = true → e.solv = none →
      let d := stExecute (ctx false net) none (marked net)
      (stStalled s (ctx false net) = true → exec (.strmDescDone t ⟨stall, net⟩) s = .next s) ∧
      (stStalled s (ctx false net) = false → ∀ w, d.wait = some w → exec (.strmDescDone t ⟨stall, net⟩) s = .next (stDefer (ctx false net) w (marked net))) ∧
      (stStalled s (ctx false net) = false → d.wait = none →
        ∃ u, exec (.strmDescDone t ⟨stall, net⟩) s = .next (seqRefill u) ∧
          ended u (match d.ending with
            | some n => n.code
            | none => if d.bad = true ∨ ∃ r ∈ (ctx false net).ins, r.kind = 3 ∧ ((e.slot.getD {}).held = true ∨ (e.slot.getD {}).poison = true) then 0x02 else 0x01) ∧
          (d.ending.isSome = true → getB u (aStrmStatus t) 11 = true))) ∧
    (∀ stall net o, (tile s t).stRun = true → e.solv = some o →
      ∃ u code, exec (.strmDescDone t ⟨stall, net⟩) s = .next u ∧ (code = 0x01 ∨ code = 0x02) ∧ left u o code (!e.conv)) ∧
    (∀ ending stream elem stall net o, (tile s t).stRun = true → e.solv = some o →
      let n := endingOf ending stream.val elem
      ∃ u, exec (.strmDescFaultEnd t ending ⟨stream, elem⟩ ⟨stall, net⟩) s = .next u ∧ left u o n.code true) ∧
    (∀ ending stream elem stall net, (tile s t).stRun = true → e.solv = none → elem < ctxTotal (stCtx s t e) →
      let d := stExecute (ctx true net) (some (endingOf ending stream.val elem)) (marked net)
      ∀ n, d.wait = none → d.ending = some n →
      ∃ u, exec (.strmDescFaultEnd t ending ⟨stream, elem⟩ ⟨stall, net⟩) s = .next (seqRefill u) ∧ ended u n.code ∧ getB u (aStrmStatus t) 11 = true) ∧
    (∀ c, e.skip = some c →
      ∃ u, exec (.strmSkipDone t) s = .next (seqRefill u) ∧ ended u c ∧ (e.cause = 1 → getB u (aStrmStatus t) 8 = true) ∧
        (e.cause = 2 → getB u (aStrmStatus t) 9 = true) ∧ (e.cause = 0 → c = 0x02 → getB u (aStrmStatus t) 10 = true) ∧
        (e.fmtFault = true → getB u (aTileCvtStatus t) 3 = true) ∧
        (e.cause = 1 ∨ e.cause = 2 → e.stream < 8 → getB s (aStrmStatus t) 8 = false → getB s (aStrmStatus t) 9 = false → getB s (aStrmStatus t) 11 = false →
          getF u (aStrmFaultInfo t) 0 4 = e.cause ∧ getF u (aStrmFaultInfo t) 4 3 = e.stream ∧ getF u (aStrmFaultInfo t) 48 16 = e.seq % 65536) ∧
        (∀ a, memByte u a = memByte s a) ∧ (∀ v, v ≠ t.val → tile u v = tile s v)))

/-! ### Loads, partitions and work items -/

/-- IMG_START outside a load begins the verify pass, and during one sets BUSY alone; ABORT rejects a load in its verify pass with ABORTED and does nothing in its
apply pass (R65); a verify pass ends rejected with the reason and section of the first check that fails, or goes on to the apply pass, in which every named
partition is LOADING; the apply pass waits while a line that the load writes back waits for the board-store PHY, and ends in DONE, with every new partition STOPPED, or rejected; each end sets its event bit. -/
def Obligations.ImageLoad : Prop :=
  ∀ (img : List Byte) (srcErr : Bool) (s : State),
    let rejected (u : State) (reason sec : Nat) : Prop :=
      u.img.phase = .rejected ∧ u.img.reason = reason ∧ u.img.section_ = sec ∧ getB u aImgStatus 33 = true
    (s.img.phase ≠ .verify → s.img.phase ≠ .apply →
      exec (.imgStart img srcErr) s = .next { s with img := { phase := .verify, img := img, srcErr := srcErr, len := getF s aImgLen 0 31 } }) ∧
    (s.img.phase = .verify ∨ s.img.phase = .apply →
      ∃ u, exec (.imgStart img srcErr) s = .next u ∧ getB u aImgStatus 34 = true ∧ u.img = s.img ∧ (∀ o, o ≠ aImgStatus → reg u o = reg s o)) ∧
    (s.img.phase = .verify → ∃ u, exec .imgAbort s = .next u ∧ rejected u 0x13 0xFFFF ∧ (∀ p, part u p = part s p) ∧ (∀ a, memByte u a = memByte s a)) ∧
    (s.img.phase = .apply → exec .imgAbort s = .next s) ∧
    (s.img.phase = .verify → s.img.srcErr = true → ∃ u, exec .verifyEnd s = .next u ∧ rejected u 0x14 0xFFFF ∧ (∀ p, part u p = part s p)) ∧
    (s.img.phase = .verify → s.img.srcErr = false →
      ∃ u, exec .verifyEnd s = .next u ∧ (∀ a, memByte u a = memByte s a) ∧
        (match imageFails s (if s.img.flash then none else some s.img.len) s.img.img with
          | some r => rejected u r.1 r.2 ∧ ∀ p, part u p = part s p
          | none => u.img.phase = .apply ∧ u.img.img = s.img.img ∧ (∀ p ∈ imgNamed s s.img.img, (part u p).st = .loading) ∧
            ∀ p, p ∉ imgNamed s s.img.img → part u p = part s p)) ∧
    (s.img.phase = .apply →
      let n := 64 + 64 * imgCount s.img.img
      let b := slice s.img.img 0 n ++ img.drop n
      (∀ w, loadWait s.img.img s = some w → exec (.applyEnd img srcErr) s = .next w) ∧
      (loadWait s.img.img s = none → srcErr = true → ∃ u, exec (.applyEnd img srcErr) s = .next u ∧ rejected u 0x14 0xFFFF) ∧
      (loadWait s.img.img s = none → srcErr = false → ∀ r, digestFails b = some r → ∃ u, exec (.applyEnd img srcErr) s = .next u ∧ rejected u r.1 r.2) ∧
      (loadWait s.img.img s = none → srcErr = false → digestFails b = none → ∃ u, exec (.applyEnd img srcErr) s = .next u ∧ u.img.phase = .done ∧ u.img.reason = 0 ∧
        getB u aImgStatus 32 = true ∧ u.sec.imgVersion = imgSecVersion b ∧
        (∀ e ∈ imgNew b, (part u e.1).st = .stopped ∧ (part u e.1).prec = e.2 ∧ (part u e.1).nq = [] ∧ (part u e.1).dq = [])))

/-- RUN of a STOPPED or FAULTED partition without a FAILED tile makes it RUNNING, with empty queues and cause 0, and every core of a tile whose domain is ON
starts at the program's entry with its tile, index and count in G1 to G3, or SUSPENDED while HALT_N is asserted; STOP of a RUNNING partition marks it and halts the cores that
wait, of a SUSPENDED or FAULTED one makes it STOPPED, or marks it while a sequencer command of it remains, and a stopping partition with nothing left becomes
STOPPED; a watchdog that expires makes the partition FAULTED with cause WATCHDOG (R67, R68, R70, R216, R228, R285, R609, R625). -/
def Obligations.Partitions : Prop :=
  ∀ (p : Part) (t : Tile) (s : State),
    let x := part s p
    let stopped (u : State) : Prop :=
      (part u p).st = .stopped ∧ (part u p).nq = [] ∧ (part u p).dq = [] ∧ (part u p).stopping = false ∧ (part u p).prec = x.prec ∧
        (∀ r, r ≠ p.val → part u r = part s r) ∧ (∀ v, tile u v = tile s v) ∧ (∀ a, memByte u a = memByte s a)
    (x.st = .stopped ∨ x.st = .faulted → (∀ v ∈ x.prec.tiles, unitState s (tileStation s v) ≠ .failed) → s.pins.halt = false →
      ∃ u, exec (.partRun p) s = .next u ∧ (part u p).st = .running ∧ (part u p).cause = 0 ∧ (part u p).stopping = false ∧
        (part u p).nq = [] ∧ (part u p).dq = [] ∧ (part u p).prec = x.prec ∧ (∀ r, r ≠ p.val → part u r = part s r) ∧
        (∀ v ∈ x.prec.tiles, domSt s (quadOf v) = .on → (core u v).run = .running ∧ (core u v).pc = BitVec.ofNat 64 x.entry ∧
          getG u v 1 = BitVec.ofNat 64 v ∧ getG u v 2 = BitVec.ofNat 64 (tileIndex s p v) ∧ getG u v 3 = BitVec.ofNat 64 x.prec.tiles.length ∧
          (∀ r, r ≠ 1 → r ≠ 2 → r ≠ 3 → getG u v r = 0) ∧ (∀ r, getV u v r = 0) ∧ reg u (aTileEvec v) = BitVec.ofNat 64 (x.handler / 4 * 4) ∧
          getB u (aTileCoreStatus v) 0 = false ∧ getB u (aTileCoreStatus v) 1 = false) ∧
        (∀ v, v ∉ x.prec.tiles → tile u v = tile s v) ∧ (∀ a, memByte u a = memByte s a)) ∧
    (x.st = .stopped ∨ x.st = .faulted → (∀ v ∈ x.prec.tiles, unitState s (tileStation s v) ≠ .failed) → s.pins.halt = true →
      ∃ u, exec (.partRun p) s = .next u ∧ (part u p).st = .suspended ∧ (part u p).suspHalt = true ∧ (part u p).cause = 0) ∧
    (x.st = .running → ∃ u, exec (.partStop p) s = .next u ∧ (part u p).stopping = true ∧ (part u p).st = .running ∧
      (∀ v ∈ x.prec.tiles, ∀ d, (core s v).run = .waiting d → (core s v).given = none → (core u v).run = .stopped)) ∧
    (x.st = .suspended ∨ x.st = .faulted →
      (solvIdle s p = true → ∃ u, exec (.partStop p) s = .next u ∧ stopped u) ∧
      (solvIdle s p = false → exec (.partStop p) s = .next (modPart p (fun y => { y with stopping := true, suspPower := false, suspHalt := false }) s))) ∧
    (x.stopping = true → (x.st = .running ∧ partQuiet s p = true) ∨ ((x.st = .suspended ∨ x.st = .faulted) ∧ solvIdle s p = true) →
      ∃ u, exec (.partStopped p) s = .next u ∧ stopped u) ∧
    (∀ r, ownerOf s t = some r → (part s r).st = .running → getB s aErrCtrl 4 = false →
      ∃ u, exec (.partWdogExpire t) s = .next u ∧ (part u r).st = .faulted ∧ (part u r).cause = 1)

/-- A posted record that passes every check of R459 enters its queue, one that fails is refused with its event, and a full queue leaves it waiting; its
acknowledgement ends the post; a tile that waits takes the item that the dispatcher chooses; the item reaches it with its argument and entry,
and leaves its queue once every tile that it targets has received it (R228, R458 to R464). -/
def Obligations.WorkItems : Prop :=
  ∀ (t : Tile) (s : State),
    let it (off p : Nat) : Item := { itemOf (memBytes s (pkgAddr t off) 32) with seq := postOrder (part s p) }
    (∀ p x, p < 64 → ownerOf s t = some p → (core s t).post = some x → x.answered = false →
      (itemRefused s p t x.off = none → ((if (it x.off p).deferred then (part s p).dq else (part s p).nq).length < 256 →
          ∃ u, exec (.workPost t) s = .next u ∧ (core u t).post = some { x with answered := true } ∧
            (part u p).nq = (part s p).nq ++ (if (it x.off p).deferred then [] else [it x.off p]) ∧
            (part u p).dq = (part s p).dq ++ (if (it x.off p).deferred then [it x.off p] else []) ∧ (∀ a, memByte u a = memByte s a)) ∧
        (256 ≤ (if (it x.off p).deferred then (part s p).dq else (part s p).nq).length → exec (.workPost t) s = .next s)) ∧
      (∀ ev, itemRefused s p t x.off = some ev → ∃ u, exec (.workPost t) s = .next u ∧ (core u t).post = some { x with answered := true } ∧
        (∀ r, part u r = part s r) ∧ getB u (aImgDisp p) 33 = true ∧ (∀ a, memByte u a = memByte s a))) ∧
    (∀ x, (core s t).post = some x → x.answered = true →
      exec (.workPostAck t) s = .next (modCore t (fun c => { c with post := none }) s)) ∧
    (∀ p c, ownerOf s t = some p → mayDispatch s p t = true → chooseItem s p (tileIndex s p t) = some c →
      ∃ u i, exec (.dispatchItem t false) s = .next u ∧
        { (if c.deferred then (part s p).dq else (part s p).nq).getD c.place {} with
          got := c.index :: ((if c.deferred then (part s p).dq else (part s p).nq).getD c.place {}).got } = i ∧
        (core u t).given = some i ∧ (core u t).run = (core s t).run ∧
        (part u p).dq = (if c.deferred then (part s p).dq.set c.place i else (part s p).dq) ∧
        (part u p).nq = (if c.deferred then (part s p).nq else (part s p).nq.set c.place i) ∧
        (∀ v, v ≠ t.val → tile u v = tile s v) ∧ (∀ a, memByte u a = memByte s a)) ∧
    (∀ p i d, ownerOf s t = some p → (core s t).given = some i → (core s t).run = .waiting d → (part s p).st = .running ∨ (part s p).st = .suspended →
      ∃ u, exec (.workItemReceive t) s = .next u ∧ (core u t).run = .running ∧ getPc u t = i.entry ∧ (core u t).given = none ∧
        (core u t).item = some i.eclass ∧ (core u t).wdog = 0 ∧ (∀ r, getG u t r = if r = d ∧ d ≠ 0 then i.arg else getG s t r) ∧
        (∀ r, getV u t r = getV s t r) ∧ ({ u with tiles := s.tiles, parts := s.parts } : State) = s ∧ (∀ v, v ≠ t.val → tile u v = tile s v) ∧
        (part u p).nq = (if i.deferred then (part s p).nq else itemReceived (tileCount s p) i (part s p).nq) ∧
        (part u p).dq = (if i.deferred then itemReceived (tileCount s p) i (part s p).dq else (part s p).dq))

/-! ### Registers from outside, the network and the board store -/

/-- Every register is 8-byte aligned, and an access of BAR0 that is not 8 aligned bytes is answered as unsupported and has no effect; a read of an offset that
no register occupies answers 0 and a write of it is discarded (R11, R16). A write with EP set is refused with POISON; an access whose tile's unit answers DEFER
waits in an entry of the host port for its retry, one whose header is damaged on the way for its limit, and one that it refuses ends with its code; else the write
acts on the register and the read answers what the register reads as. An access by system register number acts as the instruction does. -/
def Obligations.RegisterAccess : Prop :=
  ∀ (off size : Nat) (way : Transit) (v : Word) (t : Tile) (k : Fin 2048) (s : State),
    let held (u : State) (x : Nat) : Prop :=
      (∃ e, entryOf u 1133 x = some e ∧ e.use = .host ∧ e.deferred = true) ∧ ({ u with host := s.host, ni := s.ni } : State) = s
    let refused (u : State) (code : Byte) : Prop :=
      getB u aGlbHostStatus 16 = true ∧ getF u aGlbHostStatus 24 8 = code.toNat ∧ (∀ o, o ≠ aGlbHostStatus → noteReg o = false → reg u o = reg s o) ∧
        (∀ a, memByte u a = memByte s a)
    (∀ r, regSpecAt off = some r → off % 8 = 0 ∧ off < 0x4000000) ∧
    (hostLive s = true → size ≠ 8 ∨ off % 8 ≠ 0 ∨ 0x4000000 ≤ off →
      (∀ ep, exec (.registerWrite (.bar0 off size) v ep) s = .next { s with sent := .regUr off :: s.sent }) ∧
      exec (.mrd (.bar0 off size)) s = .next { s with sent := .regUr off :: s.sent }) ∧
    (hostLive s = true → off % 8 = 0 → off < 0x4000000 →
      (∃ u, exec (.registerWrite (.bar0 off 8) v true) s = .next u ∧ refused u 0x02) ∧
      (bar0Gate s off = none →
        exec (.registerWrite (.bar0 off 8) v false) s = .next (writeReg off v s) ∧
        exec (.mrd (.bar0 off 8)) s = .next { s with sent := .reg off (readReg s off) :: s.sent } ∧
        (regSpecAt off = none → readReg s off = 0 ∧ writeReg off v s = s)) ∧
      (bar0Gate s off = some 0x10 →
        (∃ u x, exec (.registerWrite (.bar0 off 8) v false) s = .next u ∧ tabFind x u.host.accs =
            some { write := true, off := off, data := leBytes 8 v.toNat, epoch := linkEpoch s } ∧ held u x) ∧
        (∃ u x, exec (.mrd (.bar0 off 8)) s = .next u ∧ tabFind x u.host.accs = some { off := off, epoch := linkEpoch s } ∧ held u x)) ∧
      (way.hdr ≠ .ok → ∃ u x, exec (.mrd (.bar0 off 8 way)) s = .next u ∧ tabFind x u.host.accs = some { off := off, epoch := linkEpoch s } ∧
        (∃ e, entryOf u 1133 x = some e ∧ e.use = .host ∧ e.deferred = false) ∧ (∀ a, memByte u a = memByte s a)) ∧
      (∀ c, c ≠ 0x10 → bar0Gate s off = some c →
        (∃ u, exec (.registerWrite (.bar0 off 8) v false) s = .next u ∧ refused u c) ∧
        (∃ u, exec (.mrd (.bar0 off 8)) s = .next u ∧ refused u c ∧ Msg.reg off (BitVec.allOnes 64) ∈ u.sent))) ∧
    (s.pins.powered = true →
      (sysWritable t k.val = true → exec (.registerWrite (.sys t k) v false) s = .next (sysWrite t k.val v s)) ∧
      (sysExists t k.val = true → exec (.mrd (.sys t k)) s =
        .next { s with sent := .reg (sysOff t k.val) (readTileReg s t (8 * k.val)) :: s.sent }))

/-- The writes that hold a field within a range, and CLEAR of a counter, which leaves the events of the same cycle: the field takes the value held, its
neighbours and every other register stay (R110, R342, R444, R563, R565). -/
def Obligations.RangedRegisterWrites : Prop :=
  ∀ (off same : Nat) (v : Word) (s : State),
    let writes (c : Instr) (o lo w value : Nat) : Prop :=
      ∃ u, exec c s = .next u ∧ getF u o lo w = value ∧ (∀ i, i < 64 → i < lo ∨ lo + w ≤ i → (reg u o).getLsbD i = (reg s o).getLsbD i) ∧
        (∀ x, x ≠ o → reg u x = reg s x) ∧ ({ u with regs := s.regs } : State) = s
    let x (lo hi a : Nat) : Nat := max lo (min hi a)
    writes (.nocCtrlWrite v) aNocCtrl 0 14 (x 1 16000 (wfld v 0 14)) ∧
    (∃ u, exec (.collCtrlWrite v) s = .next u ∧ getF u aCollCtrl 0 16 = x 1 60000 (wfld v 0 16) ∧ getB u aCollCtrl 16 = v.getLsbD 16 ∧
      (∀ i, 17 ≤ i → i < 64 → (reg u aCollCtrl).getLsbD i = (reg s aCollCtrl).getLsbD i) ∧ (∀ o, o ≠ aCollCtrl → reg u o = reg s o) ∧
      ({ u with regs := s.regs } : State) = s) ∧
    writes (.hostCtrlWrite v) aGlbHostCtrl 0 16 (max 1 (wfld v 0 16)) ∧ writes (.bar2BstWrite v) aGlbBar2Bst 0 7 (min 71 (wfld v 0 7)) ∧
    (∀ r, hostLive s = true → off % 8 = 0 → off < 0x4000000 → bar0Gate s off = none → regSpecAt off = some r → r.isCounter = true →
      writes (.counterClear (.bar0 off 8) same) off 0 48 (min 0xFFFFFFFFFFFF same))

/-- A header flit read back is the header that was written. A read of working memory that its target serves is answered with the bytes of the range, and one that
meets an uncorrectable word with POISON; a write that leaves no merge unmade writes its bytes and is answered with DONE; a response frees the entry that its numbers
name, a quarantined one whatever it says, keeps it where it is DEFER, and is dropped and counted where none is or where an epoch does not match; an entry whose
limit expires completes with TIMEOUT and is quarantined; the request of an entry whose answer was DEFER goes out again under the entry, and what waits at another
station for its sender stays (R297, R301, R302, R331, R332, R341, R342, R344, R603). -/
def Obligations.NetworkRequests : Prop :=
  ∀ (p : Packet) (data : List Byte) (st : Station) (x : BitVec 16) (s : State),
    let whole (q : Packet) : Prop := q.way = {} ∧ q.dstStn.toNat < 1088 ∧ q.addr.toNat % 64 + q.bytesM1.toNat + 1 ≤ 512
    let sound : Prop := whole p
    let y (t : Nat) : Nat := pkgAddr t p.addr.toNat
    let n := p.bytesM1.toNat + 1
    let answered (u : State) (code : Byte) (bytes : List Byte) : Prop :=
      ∃ r rest, u.sent = .packet r bytes :: rest ∧ r.code = code ∧ r.txid = p.txid ∧ r.dstStn = p.srcStn ∧ r.srcStn = p.dstStn ∧ r.opcode = 0x10
    (sound → ∀ s1 t, openEntry (stamped s 1 p) [] s = some s1 → stationTile s p.dstStn.toNat = some t → tileRefuse (stamped s 1 p) s1 = none →
      ∃ u, exec (.rd p) s = .next u ∧ answered u (if anyBad s (y t) n = true then 0x02 else 0x01) (memBytes s (y t) n) ∧
        (∀ a, memByte u a = memByte s a)) ∧
    (sound → ∀ s1 t, openEntry (stamped s 2 p) data s = some s1 → stationTile s p.dstStn.toNat = some t → tileRefuse (stamped s 2 p) s1 = none →
      p.poison = 0 → writePoisons s (y t) n = false → data.length = n →
      ∃ u, exec (.wr p data) s = .next u ∧ answered u 0x01 [] ∧ memBytes u (y t) n = data ∧
        (∀ a, a < y t ∨ y t + n ≤ a → memByte u a = memByte s a)) ∧
    (p.way = {} → p.oparg.length = 32 → p.dflits.toNat ≤ 8 → p.opcode.toNat ∈ opcodes → decodeHeader (encodeHeader p) = some p) ∧
    (∀ n : Nat, n ≠ 1132 → n < 1092 ∨ 1120 ≤ n → entryFreed n s = s) ∧
    (p.way = {} → ∀ e, entryOf s p.dstStn.toNat p.txid.toNat = some e →
      (e.quar = true → ∃ u, exec (.rsp p data) s = .next (entryFreed p.dstStn.toNat u) ∧ entryOf u p.dstStn.toNat p.txid.toNat = none ∧
        ({ u with ni := s.ni } : State) = s) ∧
      (e.quar = false → p.reqEpoch.toNat = (niOf s p.dstStn.toNat).epoch → e.req.dstStn = p.srcStn → e.use = .plain → p.code = 0x10 →
        ∃ u, exec (.rsp p data) s = .next u ∧ entryOf u p.dstStn.toNat p.txid.toNat = some { e with deferred := true, waiting := false, flight := false } ∧
          ({ u with ni := s.ni } : State) = s) ∧
      (e.quar = false → p.reqEpoch.toNat = (niOf s p.dstStn.toNat).epoch → e.req.dstStn = p.srcStn → e.use = .plain → p.code ≠ 0x10 →
        ∃ u, exec (.rsp p data) s = .next (entryFreed p.dstStn.toNat u) ∧ entryOf u p.dstStn.toNat p.txid.toNat = none ∧ ({ u with ni := s.ni } : State) = s)) ∧
    (p.way = {} → (∀ e, entryOf s p.dstStn.toNat p.txid.toNat = some e →
        e.quar = false ∧ (p.reqEpoch.toNat ≠ (niOf s p.dstStn.toNat).epoch ∨ e.req.dstStn ≠ p.srcStn)) →
      ∃ u, exec (.rsp p data) s = .next u ∧ getB u aNocStatus 1 = true ∧
        getF u aNocStaleDrops 0 48 = min 0xFFFFFFFFFFFF (getF s aNocStaleDrops 0 48 + 1) ∧ u.ni = s.ni) ∧
    (∀ e, entryOf s st x.toNat = some e → e.quar = false → e.use = .plain →
      ∃ u, exec (.niTimeout st x) s = .next (entryFreed st u) ∧ getB u aNocStatus 0 = true ∧ Msg.done st x.toNat 0x41 ∈ u.sent ∧
        entryOf u st x.toNat = (if e.deferred then none else some { e with quar := true, waiting := false, flight := false })) ∧
    (∃ u, exec (.deferRetry st x) s = .next u) ∧
    (entryOf s st x.toNat = none → exec (.deferRetry st x) s = .next s) ∧
    (∀ e, entryOf s st x.toNat = some e → e.quar = true ∨ e.deferred = false ∨ e.use = .host ∨ ofLink e = true → exec (.deferRetry st x) s = .next s) ∧
    (∀ e, entryOf s st x.toNat = some e → e.quar = false → e.deferred = true →
      (∀ q i j, e.use = .stream q i j → exec (.deferRetry st x) s = .next (putEntry st x.toNat { e with deferred := false, flight := true } s)) ∧
      (∀ a b c, e.use = .coll a b c → exec (.deferRetry st x) s = .next (collDispatch x.toNat e s)) ∧
      (∀ a b c d, e.use = .gather a b c d → exec (.deferRetry st x) s = .next (collDispatch x.toNat e s)) ∧
      (e.use = .post → e.req.opcode = 7 → exec (.deferRetry st x) s = .next (arrive 7 e.req [] servePost s)) ∧
      (e.use = .plain →
        (e.req.opcode = 1 → exec (.deferRetry st x) s = exec (.rd e.req) s) ∧ (e.req.opcode = 2 → exec (.deferRetry st x) s = exec (.wr e.req e.data) s) ∧
        (e.req.opcode = 3 → exec (.deferRetry st x) s = exec (.crd e.req) s) ∧ (e.req.opcode = 4 → exec (.deferRetry st x) s = exec (.cwr e.req e.data) s) ∧
        (e.req.opcode = 5 → exec (.deferRetry st x) s = exec (.brd e.req true) s) ∧
        (e.req.opcode = 6 → exec (.deferRetry st x) s = exec (.bwr e.req e.data true) s) ∧
        (e.req.opcode = 0x22 → exec (.deferRetry st x) s = .next (arrive 0x22 e.req [] serveReset s)) ∧
        (e.req.opcode = 1 → whole e.req → e.req.srcStn.toNat = st → e.req.txid = x → e.req.reqEpoch.toNat = (niOf s st).epoch → ∀ s1 t, openEntry (stamped s 1 e.req) [] s = some s1 →
          stationTile s e.req.dstStn.toNat = some t → tileRefuse (stamped s 1 e.req) s1 = none →
          let a := pkgAddr t e.req.addr.toNat
          let k := e.req.bytesM1.toNat + 1
          ∃ u r rest, exec (.deferRetry st x) s = .next u ∧ u.sent = .packet r (memBytes s a k) :: rest ∧ r.txid = x ∧ r.dstStn.toNat = st ∧
            r.code = (if anyBad s a k = true then 0x02 else 0x01) ∧ entryOf u st x.toNat = some { e with deferred := false, waiting := false, flight := false })))

/-- A cache request that its set's tile serves is answered with what the line access gives; at a channel a burst that passes its check is answered at once,
one that fails waits, and a refresh window retries those that wait, keeps the ones that fail again and notes HOT; START of BST_FLUSH begins a flush that is not
in progress, and its end sets FLUSH_DONE (R311, R312, R320, R324, R325). That a retry's burst passes its check is the command's operand (log entry 17). -/
def Obligations.BoardStore : Prop :=
  ∀ (p : Packet) (data : List Byte) (c : Chan) (hot : Bool) (retryOk : List Bool) (waited : Nat) (v : Word) (s : State),
    let sound : Prop := p.way = {} ∧ p.dstStn.toNat < 1135 ∧ (p.dstStn.toNat < 1092 ∨ 1120 ≤ p.dstStn.toNat) ∧
      p.addr.toNat % 64 + p.bytesM1.toNat + 1 ≤ 512
    let n := p.bytesM1.toNat + 1
    let answered (u : State) (code : Byte) (bytes : List Byte) : Prop :=
      ∃ r rest, u.sent = .packet r bytes :: rest ∧ r.code = code ∧ r.txid = p.txid ∧ r.dstStn = p.srcStn ∧ r.srcStn = p.dstStn ∧ r.opcode = 0x10
    let ch (u : State) : ChanSt := tabGet {} c.val u.bst.chans
    (sound → ∀ s1, let q := stamped s 3 p
      openEntry q [] s = some s1 → cacheRefuse q s1 = none →
      let r := bstRead q.tag.toNat q.hint.toNat q.addr.toNat n s1
      ∃ u, exec (.crd p) s = .next u ∧ answered u r.2.code (if r.2.code = 0x01 ∨ r.2.code = 0x02 then r.2.bytes else [])) ∧
    (sound → ∀ s1, let q := stamped s 4 p
      openEntry q data s = some s1 → cacheRefuse q s1 = none →
      let r := bstWrite q.tag.toNat q.hint.toNat q.addr.toNat (slice data 0 n) (decide (q.poison ≠ 0)) s1
      ∃ u, exec (.cwr p data) s = .next u ∧ answered u r.2 []) ∧
    (sound → ∀ s1, let q := stamped s 5 p
      openEntry q [] s = some s1 → chanRefuse q s1 = none →
      let r := chanRead s1 (p.addr.toNat / 128)
      (∃ u, exec (.brd p true) s = .next u ∧ answered u r.code (slice r.bytes (p.addr.toNat % 128) n)) ∧
      (p.dstStn.toNat = 1120 + c.val →
        ∃ u, exec (.brd p false) s = .next u ∧ (ch u).retry = (ch s1).retry ++ [{ q := q, epoch := (niOf s1 p.dstStn.toNat).epoch }] ∧ u.sent = s1.sent ∧ ({ u with bst := s1.bst } : State) = s1)) ∧
    (sound → ∀ s1, let q := stamped s 6 p
      openEntry q data s = some s1 → chanRefuse q s1 = none →
      let r := writeAround (p.addr.toNat / 128) (p.addr.toNat % 128) (slice data 0 n) (decide (p.poison ≠ 0)) s1
      (∃ u, exec (.bwr p data true) s = .next u ∧ answered u r.2 [] ∧ u.bst = r.1.bst) ∧
      (p.dstStn.toNat = 1120 + c.val →
        ∃ u, exec (.bwr p data false) s = .next u ∧ (ch u).retry = (ch s1).retry ++
          [{ q := q, data := data, write := true, epoch := (niOf s1 p.dstStn.toNat).epoch }])) ∧
    ((ch s).st = .trained → (ch s).retry = [] → ∃ u, exec (.refreshWindow c hot retryOk waited) s = .next u ∧ (ch u).hot = hot ∧ (ch u).retry = [] ∧
      (ch u).edc = retryOk ∧
      getF u (aBstRefreshWait c) 0 48 = (if waited = 0 then getF s (aBstRefreshWait c) 0 48
        else min 0xFFFFFFFFFFFF (getF s (aBstRefreshWait c) 0 48 + waited))) ∧
    (∀ b, (ch s).st = .trained → (ch s).retry = [b] → b.write = false → ∃ u, exec (.refreshWindow c hot retryOk 0) s = .next u ∧ (ch u).hot = hot ∧
      (ch u).edc = retryOk.drop 1 ∧
      (ch u).retry = if retryOk.getD 0 true = true ∨ 2 ≤ b.tries then [] else [{ b with tries := b.tries + 1 }]) ∧
    (v.getLsbD 7 = true → s.bst.flush = none →
      exec (.bstFlush v) s = .next (modBst (fun b => { b with flush := some (if v.getLsbD 6 then none else some (v.extractLsb' 0 6).toNat) }) s)) ∧
    (∀ f, s.bst.flush = some f → phyReady s = true → ∃ u, exec .bstFlushDone s = .next u ∧ u.bst.flush = none ∧ getB u aBstStatus 4 = true)

/-! ### The solver, the scrub, the error log, keys and domains -/

/-- A command that a tile posted is queued at its sequencer under the next number where it passes the checks of the post; while 8 commands run it stays
queued (R247, R249, R251, R252). -/
def Obligations.SolverPosts : Prop :=
  ∀ (t : Tile) (way : Transit) (p : Nat) (x : Post) (s : State),
    let a := pkgAddr t x.off
    let y := solvOf s x.die
    let q := y.cmds.filter fun c => !c.running
    PostGoes s t x → x.kind = .solv → way.hdr = .ok → ownerOf s t = some p → x.off + 64 ≤ workBytes s p →
    anyBad s a 64 = false → (part s p).st = .running → (part s p).stopping = false → q.length < 64 → (q.filter fun c => c.part = p).length < 16 →
    8 ≤ y.cmds.countP (fun c => c.running) →
    let queued (i : Instr) (op : Nat) : Prop :=
      (memByte s a).toNat = op → ∃ u, exec i s = .next u ∧
        (solvOf u x.die).cmds = y.cmds ++ [{ seq := y.nextSeq, part := p, tile := t, step := x.step, blk := memBytes s a 64 }] ∧
        (solvOf u x.die).nextSeq = (y.nextSeq + 1) % 65536 ∧ (solvOf u x.die).slots = y.slots ∧ u.posts.length + 1 = s.posts.length ∧
        (∀ b, memByte u b = memByte s b) ∧ ∃ r rest, u.sent = .packet r [] :: rest ∧ r.code = 0x01 ∧ r.dstStn.toNat = tileStation s t
    queued (.setup ⟨t, way⟩) 1 ∧ queued (.delta ⟨t, way⟩) 2 ∧ queued (.solve ⟨t, way⟩) 3 ∧ queued (.adjoint ⟨t, way⟩) 4 ∧ queued (.setprev ⟨t, way⟩) 5 ∧
    queued (.release ⟨t, way⟩) 6

/-- The one running command of a sequencer ends and leaves it: by its own rules once its descriptors are issued and gone, at its deadline, with the code it must end
with, or because a descriptor of it completes with another code than DONE; a RELEASE frees the problem's slots and a SETUP makes them READY; a SOLVE at its deadline ends with
outcome DEADLINE and the shifted previous solution, once its converted copy is written where it has one; a tile that fails leaves the problem READY, or FAILED where its
storage or the tile was lost. While the sequencer's clock is gated nothing happens (R248, R249, R270, R271, R282, R283, R284, R285). -/
def Obligations.SolverEnds : Prop :=
  ∀ (d : Die) (seq : BitVec 16) (t : Tile) (code : Byte) (storage accFault : Bool) (hurt : List Packet) (c : SolvCmd) (s : State),
    (solvOf s d).cmds = [c] → c.running = true → c.seq = seq.toNat →
    let pr := (slotOf s d c.slot).prob
    let word0 (code : Byte) : Nat := code.toNat + 2 ^ 8 * 0xFF + 2 ^ 32 * c.seq + 2 ^ 63
    let recorded (u : State) (code : Byte) : Prop :=
      cmdCpl c + 64 ≤ workBytes s c.part → cmdCpl c % 64 = 0 → memBytes u (pkgAddr c.tile (cmdCpl c)) 8 = leBytes 8 (word0 code)
    let gone (u : State) : Prop := (solvOf u d).cmds = []
    (engineGated s = true → exec (.solvCmdDone d ⟨seq, hurt⟩) s = .next s ∧ exec (.solvDeadline d seq) s = .next s ∧
      exec (.solvTileFail d seq t code storage accFault) s = .next s) ∧
    (engineGated s = false →
      (c.fin = none → c.endAs = none →
        (cmdOp c = 6 → ∃ u, exec (.solvCmdDone d ⟨seq, hurt⟩) s = .next u ∧ gone u ∧ recorded u 0x01 ∧ ∀ x ∈ pr.dies, (slotOf u x.1 x.2).st = .free) ∧
        (cmdOp c = 1 → c.slot < 64 →
          ∃ u, exec (.solvCmdDone d ⟨seq, hurt⟩) s = .next u ∧ gone u ∧ recorded u 0x01 ∧ ∀ x ∈ pr.dies, (slotOf u x.1 x.2).st = .ready) ∧
        (cmdOp c = 2 → memByte s (pkgAddr c.tile (cmdArg c) + 2) ≠ 1 → ∃ u, exec (.solvCmdDone d ⟨seq, hurt⟩) s = .next u ∧ gone u) ∧
        (cmdOp c = 4 ∨ cmdOp c = 5 ∨ cmdOp c = 3 ∧ dOutCopy pr.desc = false → seqPending s d c pr = false →
          ∃ u, exec (.solvCmdDone d ⟨seq, hurt⟩) s = .next u ∧ gone u)) ∧
      (∀ f, c.fin = some f → seqPending s d c pr = false →
        (∃ u, exec (.solvCmdDone d ⟨seq, hurt⟩) s = .next u ∧ gone u) ∧ ∃ u, exec (.solvDeadline d seq) s = .next u ∧ gone u) ∧
      (∀ e, c.fin = none → c.endAs = some e →
        (cmdOp c = 1 ∨ seqQueued s d c pr = false →
          (∃ u, exec (.solvCmdDone d ⟨seq, hurt⟩) s = .next u ∧ gone u ∧ recorded u e) ∧ ∃ u, exec (.solvDeadline d seq) s = .next u ∧ gone u ∧ recorded u e) ∧
        (cmdOp c ≠ 1 → seqQueued s d c pr = true → ∃ u, exec (.solvDeadline d seq) s = .next u ∧ (solvOf u d).cmds = [{ c with left := [] }])) ∧
      (c.fin = none → c.endAs = none → cmdOp c = 3 → deadlineReached s.tick (cmdDeadline c) = true → seqQueued s d c pr = false →
        (readVec pr (dRhsOff pr.desc) (dFmt pr.desc 104) s).2.2 = none →
        ∃ u, exec (.solvDeadline d seq) s = .next u ∧
          (dOutCopy pr.desc = false → gone u ∧ (slotOf u d c.slot).st = .ready ∧ (slotOf u d c.slot).prob.outcome = 1 ∧
            (slotOf u d c.slot).prob.xPrev = shifted (dN pr.desc) (dTslots pr.desc) pr.xPrev) ∧
          (dOutCopy pr.desc = true → ∃ x pr' ran r, (solvOf u d).cmds = [x] ∧ x.seq = c.seq ∧ x.fin = some (.commit pr' (shifted (dN pr.desc) (dTslots pr.desc) pr.xPrev) ran r) ∧
            r.outcome = 1 ∧ (slotOf u d c.slot).prob = pr)) ∧
      (accFault = false → code = 0x01 → exec (.solvTileFail d seq t code storage accFault) s = .next s) ∧
      (∀ e q, (tile s t).mxq = e :: q → e.solv = some (d.val, c.seq) → e.skip.isSome = true → accFault = true →
        exec (.solvTileFail d seq t code storage accFault) s = .next (seqRefill (seqEnded (d.val, c.seq) t 0x23 0x07 false (seqEndMx t e 0x23 s)))) ∧
      (∀ e q, (tile s t).stq = e :: q → e.solv = some (d.val, c.seq) → (tile s t).stRun = true → accFault = false → code ≠ 0x01 → code ≠ 0x02 →
        ∃ z made, exec (.solvTileFail d seq t code storage accFault) s =
            .next (seqRefill (seqEnded (d.val, c.seq) t code 0 (decide (code = 0x30)) (seqEndSt t made e code z))) ∧
          getB z (aStrmStatus t) 11 = true ∧ ∀ a, memByte z a = memByte s a) ∧
      (∀ detail failed, c.fin = none → code ≠ 0x01 →
        let u := seqEnded (d.val, c.seq) t code detail failed s
        (seqQueued s d c pr = false → gone u ∧ getB u (aSolvStatus d) 34 = true ∧ (slotOf u d c.slot).st = (if failed = true then .failed else .ready) ∧ recorded u code) ∧
        (seqQueued s d c pr = true → (solvOf u d).cmds = [{ c with left := [], fin := some (.tile t code detail failed) }])))

/-- The scrub reads the next granule of a tile and notes its corrected words, and writes the oldest of them back where it still needs it; POP removes the
oldest record of the error log and CLEAR_ALL all; ROTATE advances a key's generation where no load uses it, and else sets the slot's bit (R303, R587, R597). -/
def Obligations.Housekeeping : Prop :=
  ∀ (t : Tile) (k : Fin 65) (s : State),
    (∃ u, exec (.scrubRead t) s = .next u ∧ (tile u t).scrubPos = ((tile s t).scrubPos + 1) % 65536 ∧
      (tile u t).scrubFix = (tile s t).scrubFix ++
        (wordsOf (pkgAddr t (512 * (tile s t).scrubPos)) 512).filter (fun w => decide (eccOf s w = some .single)) ∧
      (∀ a, memByte u a = memByte s a) ∧ (∀ w, eccOf u w = eccOf s w) ∧ (∀ v, core u v = core s v) ∧ (∀ o, noteReg o = false → reg u o = reg s o)) ∧
    (∀ w r, (tile s t).scrubFix = w :: r → ∃ u, exec (.scrubWrite t) s = .next u ∧ (tile u t).scrubFix = r ∧
      eccOf u w = (if eccOf s w = some .single then none else eccOf s w) ∧ (∀ x, x ≠ w → eccOf u x = eccOf s x) ∧
      ({ u with tiles := s.tiles, ecc := s.ecc } : State) = s) ∧
    (∀ x r, s.err.log = x :: r → exec .pop s = .next { s with err := { log := r, head := (s.err.head + 1) % 256 } }) ∧
    (∃ u, exec .clearAll s = .next u ∧ u.err.log = [] ∧ u.err.head = (s.err.head + s.err.log.length) % 256 ∧ ({ u with err := s.err } : State) = s) ∧
    (slotBusy s k = false → ∃ u, exec (.rotate k) s = .next u ∧ tabGet 0 k.val u.flash.gens = (tabGet 0 k.val s.flash.gens + 1) % 65536 ∧
      (∀ j, j ≠ k.val → tabGet 0 j u.flash.gens = tabGet 0 j s.flash.gens) ∧ u.regs = s.regs) ∧
    (slotBusy s k = true → ∃ u, exec (.rotate k) s = .next u ∧ getB u (aSecKey k) 2 = true ∧ u.flash = s.flash ∧ u.keys = s.keys)

/-- The rows of power domains. DRAIN_BEGIN makes an ON domain that may be off DRAINING; DRAIN_COMPLETE switches a draining one off where nothing in it is busy, but
makes the ACTIVE ports of an optical bank take their loss with cause DRAIN first; DOMAIN_READY makes a domain whose ramp stands ON, the queues and accumulator files of a
quadrant's tiles then empty, their step views kept, and the core of a tile that no partition owns at its reset; RAMP_END with a ramp at its limit sets SHORT1 and asks for the
repeat, which SLOW_RAMP begins, and a second such ramp fails the domain; COLL_IDLE_OFF drains the idle collective engine, which is off at once where nothing is outstanding.
In every other state each of the six leaves the state as it is (R347, R386, R475, R492, R532, R599). -/
def Obligations.PowerDomains : Prop :=
  ∀ (n : Dom) (short : Bool) (s : State),
    let st := domSt s n
    let slow := (tabGet {} n.val s.doms).slow
    let again := (tabGet {} n.val s.doms).again
    let becomes (x : DomSt) (u : State) : Prop := tabGet {} n.val u.doms = x ∧ (∀ m, m ≠ n.val → domSt u m = domSt s m) ∧ ({ u with doms := s.doms } : State) = s
    (st = .on → offAllowed s n = true → ∃ u, exec (.drainBegin n) s = .next u ∧ becomes { tabGet {} n.val s.doms with st := .draining } u) ∧
    (st ≠ .on ∨ offAllowed s n = false → exec (.drainBegin n) s = .next s) ∧
    (st = .draining → domBusy s n = false →
      (n.val < 24 ∨ n.val = 28 → ∃ u, exec (.drainComplete n) s = .next u ∧ becomes {} u) ∧
      (n.val = 29 → ∃ u, exec (.drainComplete n) s = .next u ∧ domSt u n = .off ∧ u.coll.pend = [] ∧ u.coll.outq = [] ∧
        ({ u with doms := s.doms, coll := s.coll } : State) = s) ∧
      (24 ≤ n.val → n.val < 28 → (∀ m ∈ bankPorts (n - 24), portUp s m = false) → ∃ u, exec (.drainComplete n) s = .next u ∧ domSt u n = .off) ∧
      (24 ≤ n.val → n.val < 28 → (∃ m ∈ bankPorts (n - 24), portUp s m = true) →
        exec (.drainComplete n) s = .next ((bankPorts (n - 24)).foldl (fun s m => loseLink m 7 s) s))) ∧
    (st ≠ .draining ∨ domBusy s n = true → exec (.drainComplete n) s = .next s) ∧
    (st = .ramping → slow = false →
      ∃ u, exec (.domainReady n) s = .next u ∧ domSt u n = .on ∧ (16 ≤ n.val ∧ n.val < 20 ∨ n.val = 29 → becomes { st := .on } u) ∧
        (n.val < 16 → ∀ i, i < 64 →
          let x := tile u (64 * n.val + i)
          x.mxq = [] ∧ x.stq = [] ∧ x.acc = [] ∧ x.step = (tile s (64 * n.val + i)).step ∧ (ownerOf s (64 * n.val + i) = none → x.core = {}))) ∧
    (st ≠ .ramping ∨ slow = true → exec (.domainReady n) s = .next s ∧ exec (.rampEnd n short) s = .next s) ∧
    (st = .ramping → slow = false →
      (short = false → exec (.rampEnd n short) s = .next s) ∧
      (short = true → again = false → ∃ u, exec (.rampEnd n short) s = .next u ∧ domSt u n = .ramping ∧ (tabGet {} n.val u.doms).slow = true ∧
        getB u (aPwrDom n) 4 = true ∧ (∀ m, m ≠ n.val → domSt u m = domSt s m)) ∧
      (short = true → again = true → ∃ u, exec (.rampEnd n short) s = .next u ∧ domSt u n = .failed ∧ getB u aPwrStatus 22 = true)) ∧
    (st = .ramping → slow = true → ∃ u, exec (.slowRamp n) s = .next u ∧ becomes { st := .ramping, again := true } u) ∧
    (st ≠ .ramping ∨ slow = false → exec (.slowRamp n) s = .next s) ∧
    (domSt s 29 = .on → collQuiet s = true → ∃ u, exec .collIdleOff s = .next u ∧ domSt u 29 = (if domBusy s 29 then .draining else .off) ∧
      (∀ m, m ≠ 29 → domSt u m = domSt s m) ∧ ({ u with doms := s.doms, coll := s.coll } : State) = s) ∧
    (domSt s 29 ≠ .on ∨ collQuiet s = false → exec .collIdleOff s = .next s)

/-! ### Fabric ports -/

/-- Frames at an ACTIVE port: a sound DATA frame that is the next is accepted and acknowledged, one already received is dropped, one after a gap or not sound
is answered with one NAK; an accepted EMPTY frame retires what it acknowledges and returns credits; a TRAIN or CLOSE frame loses an ACTIVE link with cause 5, and
a replay timer with cause 2; replay resends every held frame (R359 to R364, R366, R381, R386). -/
def Obligations.LinkFrames : Prop :=
  ∀ (n : Port) (f : Frame) (rec : List Byte) (keyOk : Bool) (s : State),
    let x := port s n
    let lost (u : State) (cause : Nat) : Prop :=
      (port u n).st = (if (cause = 3 ∨ cause = 5 ∨ cause = 6) ∧ x.present = true then .laneLock else .detect) ∧ (port u n).lostCause = cause ∧
        (port u n).replay = [] ∧ (port u n).fwd = [] ∧ getB u (aLnkStatus n) 21 = true
    let nakSent (u : State) : Prop := ∃ g : OutFrame, Msg.frame g ∈ u.sent ∧ g.port = n.val ∧ g.nak = true ∧ g.slots = [] ∧ g.ack = (port u n).rxSeq
    portUp s n = true →
    (frameOk x f = true → (f.seq.toNat + 65536 - x.rxSeq % 65536) % 65536 = 1 → ∃ u, exec (.dataFrame n f) s = .next u ∧
      (port u n).rxSeq = f.seq.toNat ∧ (port u n).rxCount = f.fcount.toNat ∧ (port u n).nak = false ∧ (port u n).st = .active ∧
      ∃ g rest, u.sent = .frame g :: rest ∧ g.port = n.val ∧ g.ack = f.seq.toNat ∧ g.nak = false ∧ g.slots = []) ∧
    (frameOk x f = true → (f.seq.toNat + 65536 - x.rxSeq % 65536) % 65536 = 0 ∨ 0x8000 ≤ (f.seq.toNat + 65536 - x.rxSeq % 65536) % 65536 →
      ∃ u, exec (.dataFrame n f) s = .next u ∧ (port u n).rxSeq = x.rxSeq ∧ (port u n).rxCount = f.fcount.toNat ∧ (port u n).nak = x.nak) ∧
    (frameOk x f = true → 1 < (f.seq.toNat + 65536 - x.rxSeq % 65536) % 65536 → (f.seq.toNat + 65536 - x.rxSeq % 65536) % 65536 < 0x8000 →
      ∃ u, exec (.dataFrame n f) s = .next u ∧ (port u n).rxSeq = x.rxSeq ∧ (port u n).nak = true ∧ (x.nak = false → nakSent u)) ∧
    (frameOk x f = false → x.encrypted = false → ∃ u, exec (.dataFrame n f) s = .next u ∧ (port u n).rxSeq = x.rxSeq ∧ (port u n).nak = true ∧
      (x.nak = false → nakSent u)) ∧
    (frameOk x f = true → f.swapReq = false → f.nak = false → x.txq = [] → ∃ u, exec (.emptyFrame n f) s = .next u ∧
      (port u n).rxCount = f.fcount.toNat ∧ (port u n).rxSeq = x.rxSeq ∧
      (port u n).replay = (match x.replay.findIdx? (fun t => decide (t.seq = f.ack.toNat)) with | some i => x.replay.drop (i + 1) | none => x.replay) ∧
      (port u n).credits = x.credits.mapIdx (fun v c => c + (f.credit.getD v 0).toNat)) ∧
    (∃ u, exec (.trainFrame n rec keyOk) s = .next u ∧ lost u 5) ∧
    (frameOk x f = true → ∃ u, exec (.closeFrame n f) s = .next u ∧ lost u 5) ∧
    (x.nak = true → ∃ u, exec (.nakResend n) s = .next u ∧ nakSent u ∧ (port u n).txCount = x.txCount + 1) ∧
    (x.replay ≠ [] → ∃ u, exec (.replayResend n) s = .next u ∧ (port u n).replay.map (fun t => (t.seq, t.slots)) = x.replay.map (fun t => (t.seq, t.slots)) ∧ (port u n).txCount = x.txCount + x.replay.length ∧
      (∀ t ∈ x.replay, ∃ g : OutFrame, Msg.frame g ∈ u.sent ∧ g.port = n.val ∧ g.seq = t.seq ∧ g.slots = t.slots)) ∧
    (x.replay ≠ [] → ∃ u, exec (.replayTimeout n) s = .next u ∧ lost u 2)

/-- Training: NEGOTIATE sends this end's record in a TRAIN frame, and ACTIVATE starts from full credits and cleared counts with an EMPTY frame; each state goes on to the next on its condition and else fails the attempt; a third failure, or a record that fails CHECK, puts the port in DOWN;
limits, presence, the beacon, RETRAIN and the end of a drain act as their states say; a lane of an ACTIVE port is replaced by its spare, or the link is lost
(R358, R359, R369 to R376, R380, R381, R385 to R387). -/
def Obligations.LinkTraining : Prop :=
  ∀ (n : Port) (rx tx : BitVec 10) (lane : Fin 10) (rec : List Byte) (s : State),
    let x := port s n
    let goes (c : Instr) (t : TrainSt) : Prop := ∃ u, exec c s = .next u ∧ (port u n).st = t ∧ (∀ m, m ≠ n.val → port u m = port s m)
    let fails (c : Instr) (reason : Nat) : Prop :=
      ∃ u, exec c s = .next u ∧ (port u n).reason = reason ∧ (port u n).attempts = x.attempts + 1 ∧
        (port u n).st = (if 3 ≤ x.attempts + 1 then .down else .detect) ∧ (3 ≤ x.attempts + 1 → getB u (aLnkStatus n) 20 = true) ∧
        (∀ m, m ≠ n.val → port u m = port s m)
    let done : Instr := .trainStateDone n rx tx
    (x.st = .detect → x.present = true → x.beacon = false → goes done .laneLock) ∧ (x.st = .laneLock → goes done .laneMap) ∧
    (x.st = .laneMap → 9 ≤ popCount 10 rx.toNat → 9 ≤ popCount 10 tx.toNat →
      goes done (if x.remap = true ∧ (idleOf rx ≠ x.rxIdle ∨ idleOf tx ≠ x.txIdle) then .laneLock else .fecAlign)) ∧
    (x.st = .laneMap → popCount 10 rx.toNat < 9 ∨ popCount 10 tx.toNat < 9 → fails done 3) ∧
    (x.st = .fecAlign → dataLanes x.rxIdle rx = true → dataLanes x.txIdle tx = true → goes done .negotiate) ∧
    (x.st = .fecAlign → dataLanes x.rxIdle rx = false ∨ dataLanes x.txIdle tx = false → goes done .laneMap) ∧
    (x.st = .negotiate → x.peer ≠ [] → goes done .check) ∧
    (x.st = .negotiate → ∃ u, exec (.trainFrame n rec true) s = .next u ∧ (port u n).peer = slice rec 0 64 ∧ (port u n).st = .negotiate) ∧
    (x.st = .check → checkPeer s n = none → goes done (if x.encReq || bitOf (leAt x.peer 8 1) 1 then .key else .activate)) ∧
    (∀ r, x.st = .check → checkPeer s n = some r → ∃ u, exec done s = .next u ∧ (port u n).st = .down ∧ (port u n).reason = r ∧
      getB u (aLnkStatus n) 20 = true) ∧
    (x.st = .key → s.sec.fabric ≠ none → ∃ u, exec (.trainFrame n rec true) s = .next u ∧ (port u n).keyOk = true ∧ (port u n).st = .key) ∧
    (x.st = .key → fails (.trainFrame n rec false) 4) ∧ (x.st = .key → x.keyOk = true → goes done .activate) ∧ (x.st = .key → x.keyOk = false → fails done 4) ∧
    (x.st = .key → x.keyOk = true → ∃ u, exec done s = .next u ∧ (port u n).credits = [64, 1024, 1024, 2048] ∧ (port u n).replay = [] ∧
      (port u n).txSeq = 0 ∧ (port u n).rxSeq = 0 ∧ (port u n).txCount = 1 ∧ (port u n).rxCount = 0 ∧ ∃ g rest, u.sent = .frame g :: rest ∧ g.port = n.val ∧ g.ftype = 1 ∧
        g.slots = [] ∧ g.count = 1) ∧
    (x.st = .activate → goes done .active ∧ ∃ u, exec done s = .next u ∧ port u n = { x with st := .active } ∧ u.sent = s.sent) ∧
    (x.st = .fecAlign → dataLanes x.rxIdle rx = true → dataLanes x.txIdle tx = true → ∃ u g rest, exec done s = .next u ∧ u.sent = .frame g :: rest ∧ g.port = n.val ∧
      g.ftype = 2 ∧ g.slots = [{ vc := 0, flit := .body (ownRecord u n) }]) ∧
    (inAttempt x = true → fails (.trainStateLimit n) 1 ∧ fails (.trainAttemptLimit n) 2) ∧
    (x.beacon = true → x.st = .detect → goes (.beaconEnd n) .laneLock) ∧
    (x.st = .down ∨ (x.st = .detect ∧ x.present = true) ∨ inAttempt x = true →
      goes (.retrain n) .laneLock ∧ ∃ u, exec (.retrain n) s = .next u ∧ (port u n).attempts = 0) ∧
    (x.st = .active → ∃ u, exec (.retrain n) s = .next u ∧ (port u n).st = (if x.present then .laneLock else .detect) ∧ (port u n).lostCause = 6 ∧
      (port u n).attempts = 0) ∧
    (x.closing = true → ∃ u, exec (.linkCloseDone n) s = .next u ∧ (port u n).closing = false ∧ (domSt s (24 + n / 7) ≠ .on → (port u n).st = .disabled) ∧
      (portWanted s n = true → (port u n).st = (if x.role = 1 ∧ s.cell.located = false then .waitLoc else if x.present then .laneLock else .detect))) ∧
    (x.present = false → ∃ u, exec (.presenceGained n) s = .next u ∧ (port u n).present = true ∧ (port u n).epoch = (x.epoch + 1) % 256 ∧
      (port u n).attempts = 0 ∧ (port u n).fwd = [] ∧ (port u n).st = (if x.st = .disabled ∨ x.st = .waitLoc then x.st else .laneLock)) ∧
    (x.present = true → ∃ u, exec (.presenceLost n) s = .next u ∧ (port u n).present = false ∧
      (x.st = .active → (port u n).st = .detect ∧ (port u n).lostCause = 1) ∧ (inAttempt x = true → (port u n).st = .detect ∧ (port u n).reason = 5) ∧
      (x.st ≠ .active → inAttempt x = false → (port u n).st = x.st ∧ (port u n).beacon = false)) ∧
    (x.st = .active →
      (lane.val = x.rxIdle → ∃ u, exec (.laneRetire n lane) s = .next u ∧ (port u n).rxSpare = false ∧ (port u n).st = .active) ∧
      (lane.val ≠ x.rxIdle → x.rxSpare = true → x.swapReq = none → x.rxSwap = none → getB s (aLnkCtrl n) 2 = true → 1 ≤ x.minor →
        ∃ u g rest, exec (.laneRetire n lane) s = .next u ∧ (port u n).swapReq = some lane.val ∧ u.sent = .frame g :: rest ∧ g.swapReq = true ∧
          g.lane = lane.val ∧ (port u n).st = .active) ∧
      (lane.val ≠ x.rxIdle → x.rxSpare = false → ∃ u, exec (.laneRetire n lane) s = .next u ∧ (port u n).lostCause = 3 ∧
        (port u n).st = (if x.present then .laneLock else .detect)))

/-! ### The cell -/

/-- Coordinates are assigned to a package that has none, refused where they are not valid and kept where they are the same; a query answers them, and an unknown command
is INVALID; MEMBER goes to every direct neighbour, and one that arrives is kept with its time; a slot is lost where its evidence is 2 ms old; the manager forms the first map once
it is due; a higher map is adopted and acknowledged; an acknowledgement is counted; an uplink that is down is replaced. A record that waits at family control is answered with
DONE before it is taken: `base` is the state then (R333, R393, R394, R396 to R400, R408, R411). -/
def Obligations.Cell : Prop :=
  ∀ (flags tier cell slot cmd : Byte) (rest rec : List Byte) (n : Port) (k : CellSlot) (s : State),
    let zero := rest.any (fun b => b != 0) = false
    let base (from_ : Nat → Bool) : State := match recWaiting from_ (recOf rec) s with | some q => answer 1134 q 0x01 [] 0 0 s | none => s
    let reply (u : State) (cmd result : Nat) : Prop := Msg.mgmt 0x7F (BitVec.ofNat 8 0x7F :: (leBytes 4 u.fuses.pen ++ ([cmd, result,
      u.cell.tier, u.cell.cell, u.cell.slot.getD 0xFF, (ownRank u).getD 0xFF, (managerSlot u).getD 0xFF, cellState u].map (BitVec.ofNat 8)))) ∈ u.sent
    (mgmtReady s = true → slot.toNat ≤ 17 → flags.toNat ≤ 1 → zero → s.cell.located = false →
      ∃ u, exec (.locationAssign flags tier cell ⟨slot, rest⟩) s = .next u ∧ u.cell.located = true ∧ u.cell.tier = tier.toNat ∧ u.cell.cell = cell.toNat ∧
        u.cell.slot = some slot.toNat ∧ reply u 1 0) ∧
    (mgmtReady s = true → 17 < slot.toNat ∨ 1 < flags.toNat ∨ ¬ zero →
      ∃ u, exec (.locationAssign flags tier cell ⟨slot, rest⟩) s = .next u ∧ reply u 1 3 ∧ ({ u with sent := s.sent } : State) = s) ∧
    (mgmtReady s = true → slot.toNat ≤ 17 → flags.toNat ≤ 1 → zero → s.cell.located = true → s.cell.tier = tier.toNat → s.cell.cell = cell.toNat →
      s.cell.slot = some slot.toNat → ∃ u, exec (.locationAssign flags tier cell ⟨slot, rest⟩) s = .next u ∧ reply u 1 1 ∧ ({ u with sent := s.sent } : State) = s) ∧
    (mgmtReady s = true → (∃ u, exec (.locationQuery ⟨2, rest⟩) s = .next u ∧ reply u 2 (if rest.any (fun b => b != 0) then 3 else 0) ∧
        ({ u with sent := s.sent } : State) = s) ∧
      (cmd ≠ 2 → cmd.toNat ∉ vdmNamed → ∃ u, exec (.locationQuery ⟨cmd, rest⟩) s = .next u ∧ reply u cmd.toNat 3 ∧ ({ u with sent := s.sent } : State) = s)) ∧
    (recordsOn s = true → ∃ u, exec .memberSend s = .next u ∧
      (∀ m, m < 28 → ∀ j, portSlot s m = some j → Msg.cellRec j (memberRec s) ∈ u.sent ∧ (j, memberRec s) ∈ u.cell.outq) ∧
      ({ u with sent := s.sent, cell := s.cell } : State) = s ∧ ({ u.cell with outq := s.cell.outq } : CellSt) = s.cell) ∧
    (∀ j,
      let b := base (fun m => decide (m = n.val));
      b.cell.located = true → portSlot b n = some j → j ≤ 17 → leAt (recOf rec) 0 1 = 1 → leAt (recOf rec) 1 1 = j →
      ∃ u, exec (.member n rec) s = .next u ∧ (knowOf u j).body = recOf rec ∧ (knowOf u j).recv = some b.tick ∧ (knowOf u j).evid = b.tick ∧
        (bitOf (leAt (recOf rec) 3 1) 1 = true → (knowOf u j).lost = false)) ∧
    (recordsOn s = true → s.cell.slot ≠ some k.val →
      (lostDue s k = true → ∃ u, exec (.slotLost k) s = .next u ∧ (knowOf u k).lost = true ∧ (knowOf u k).recv = (knowOf s k).recv) ∧
      (lostDue s k = false → exec (.slotLost k) s = .next s)) ∧
    (formDue s = false → exec .mapFormation s = .next s) ∧
    (s.cell.map = none → isManager s = true → formDue s = true → ∃ u m, exec .mapFormation s = .next u ∧ u.cell.map = some m ∧ m.term = 1 ∧ m.gen = 1 ∧ m.full = false ∧
      s.cell.slot = some m.mgr ∧ (∀ r, r < 16 → m.slots.getD r 31 = (((heardSlots s).filter (slotFit s))[r]?).getD 31)) ∧
    (let b := base (fun _ => true);
      b.cell.located = true → leAt (recOf rec) 0 1 = 2 → (mapOf (recOf rec)).mgr ≤ 17 →
      (mapHigher b (mapOf (recOf rec)) = true → ∃ u m, exec (.rankMap rec) s = .next u ∧ u.cell.map = some m ∧ m.term = leAt (recOf rec) 2 2 ∧
        m.gen = leAt (recOf rec) 4 2 ∧ m.slots = (mapOf (recOf rec)).slots ∧ m.mgr = leAt (recOf rec) 1 1 ∧ ∃ b, Msg.cellRec m.mgr b ∈ u.sent ∧ leAt b 0 1 = 3) ∧
      (mapHigher b (mapOf (recOf rec)) = false → mapHeld b (mapOf (recOf rec)) = true → ∃ u a, exec (.rankMap rec) s = .next u ∧
        u.sent = .cellRec (leAt (recOf rec) 1 1) a :: b.sent ∧ u.cell = { b.cell with outq := b.cell.outq ++ [(leAt (recOf rec) 1 1, a)] } ∧ leAt a 0 1 = 3 ∧
        ({ u with sent := b.sent, cell := b.cell } : State) = b) ∧
      (mapHigher b (mapOf (recOf rec)) = false → mapHeld b (mapOf (recOf rec)) = false → exec (.rankMap rec) s = .next b)) ∧
    (∀ m,
      let b := base (fun _ => true);
      b.cell.map = some m → isManager b = true → leAt (recOf rec) 0 1 = 3 → leAt (recOf rec) 2 2 = m.term → leAt (recOf rec) 4 2 = m.gen →
      leAt (recOf rec) 1 1 ∉ b.cell.acks →
      exec (.mapAck rec) s = .next (cellStep { b with cell := { b.cell with acks := leAt (recOf rec) 1 1 :: b.cell.acks } })) ∧
    (∀ m, inMaint s = false → n.val ∈ s.cell.carry → (port s n).role = 2 → portUp s n = false →
      allPorts.find? (fun m => portUp s m && decide ((port s m).role = 3) && !s.cell.carry.contains m) = some m →
      ∃ u, exec (.uplinkSwap n) s = .next u ∧ u.cell.carry = s.cell.carry.map (fun j => if j = n.val then m else j) ∧ mgmtOnly u n = true ∧
        mgmtOnly u m = false ∧ getB u aGlbCellStatus 51 = true)

/-! ### Collectives and digests -/

/-- A collective that a tile posted and that passes its checks is queued under the next number and holds the partition's dispatch; one that fails a check ends
with its code and sets the engine's event (R422 to R426, R429, R450). -/
def Obligations.CollectivePosts : Prop :=
  ∀ (t : Tile) (way : Transit) (p : Nat) (x : Post) (s : State),
    let a := pkgAddr t x.off
    let b := memBytes s a 64
    let y := collPart s p
    let c : Coll := { collOf b t with seq := y.nextSeq }
    PostGoes s t x → x.kind = .coll → way.hdr = .ok → ownerOf s t = some p → p < 64 → x.off + 64 ≤ workBytes s p → anyBad s a 64 = false →
    (part s p).st = .running → collQueued s < 256 → y.queue.length < 4 →
    let queued (i : Instr) (op : Nat) : Prop := (memByte s a).toNat = op →
      (collFails s p b (collOf b t) = none → anyBad s (pkgAddr t (leAt b 8 8)) (4 * leAt b 2 2) = false →
        (op = 5 → anyBad s (pkgAddr t (collOf b t).countOff) (8 * leAt b 2 2) = false) → y.fence = false →
        ∃ u, exec i s = .next u ∧ (collPart u p).queue = y.queue ++ [collGroup s p b c] ∧ (collPart u p).held = true ∧
          (collPart u p).nextSeq = (y.nextSeq + 1) % 65536 ∧ (collPart u p).run = y.run ∧ u.posts.length + 1 = s.posts.length ∧
          (∀ z, memByte u z = memByte s z)) ∧
      (∀ e, collFails s p b (collOf b t) = some e → ∃ u, exec i s = .next u ∧ (collPart u p).queue = y.queue ∧ (collPart u p).lastSeq = y.nextSeq ∧
        getB u aCollStatus 40 = true ∧ u.posts.length + 1 = s.posts.length)
    queued (.allReduce ⟨t, way⟩) 1 ∧ queued (.reduceScatter ⟨t, way⟩) 2 ∧ queued (.allGather ⟨t, way⟩) 3 ∧ queued (.allToAll ⟨t, way⟩) 4 ∧
    queued (.allToAllv ⟨t, way⟩) 5 ∧ queued (.broadcast ⟨t, way⟩) 6 ∧ queued (.barrier ⟨t, way⟩) 7 ∧ queued (.gatherDemand ⟨t, way⟩) 8

/-- Closing the fence starts the queued collective, whose READY for every other member has a transaction entry or waits for one; a READY is taken, and the last one
ends a BARRIER with DONE; data of a member is written to the destination; DONE of the root ends a BROADCAST; ABORT and the timer end the collective with their
codes; a record for a collective that does not run waits; a packet whose tag the partition does not admit is refused and changes no collective (R57, R419, R427,
R429 to R434, R437, R444 to R446). -/
def Obligations.CollectiveRounds : Prop :=
  ∀ (p : Part) (r : ReadyRec) (d : CollData) (k : Sender) (ctag : BitVec 32) (code : Byte) (s : State),
    let y := collPart s p
    let idle : Prop := ∀ e, e < 4 → (solvOf s e).cmds = []
    let served (v : Sender) : Prop := v.way = {} ∧ bitOf (part s p).prec.peerMask v.tag.toNat = true ∧ (∀ b, unitGate 1132 b s = none) ∧ (part s p).st = .running ∧ idle
    let told (u : State) (v : Sender) (c : Byte) : Prop := ∃ q : Packet, Msg.packet q [] ∈ u.sent ∧ q.opcode = 0x10 ∧ q.txid = v.txid ∧ q.dstStn = v.stn ∧ q.code = c
    let refused (i : Instr) (v : Sender) : Prop :=
      v.way = {} → unitState s 1132 ≠ .failed → bitOf (part s p).prec.peerMask v.tag.toNat = false → idle →
        ∃ u, exec i s = .next u ∧ told u v 0x22 ∧ u.coll = s.coll ∧ u.mem = s.mem
    let ended (u : State) (c : Coll) (code detail : Nat) : Prop :=
      (collPart u p).run = none ∧ (collPart u p).fence = false ∧ (collPart u p).held = false ∧ (collPart u p).lastSeq = c.seq ∧
        (c.cpl + 64 ≤ workBytes s p → c.cpl % 64 = 0 →
          memBytes u (pkgAddr c.tile c.cpl) 8 = leBytes 8 (code + 2 ^ 8 * detail + 2 ^ 32 * c.seq + 2 ^ 63))
    let peer (c : Coll) (i : Nat) : Prop := i < nOf c ∧ i ≠ c.me ∧ bitOf (part s p).prec.peerMask (c.members.getD i {}).part = true
    (refused (.ready p r) r.via ∧ refused (.cdata p d) d.via ∧ refused (.cctlDone p k ctag) k ∧ refused (.abort p k ctag code) k) ∧
    (∀ c, idle → y.held = true → y.fence = false → y.run = none → y.queue = [c] → fenceReady s p = true → c.op = 7 → c.ready = [] → c.reads = [] →
      pendFor s p c.ctag = [] → (∀ m ∈ c.members, otherCell s m = false) → (∃ i, i < nOf c ∧ i ≠ c.me) →
      ∃ u, exec (.fenceClose p) s = .next u ∧ (collPart u p).run = some { c with fence := some s.tick, lastReady := s.tick } ∧ (collPart u p).queue = [] ∧
        (collPart u p).fence = true ∧ (∀ i, i < nOf c → i ≠ c.me →
          (∃ z ∈ u.coll.outq, z.part = p.val ∧ z.member = i ∧ z.q.oparg = readyArg (readyOf s p c i)) ∨
          ∃ z e, entryOf u 1132 z = some e ∧ e.use = .coll p i c.seq ∧ e.req.oparg = readyArg (readyOf s p c i))) ∧
    (∀ c, served r.via → collRunning s p r.ctag.toNat = some c → c.op = 7 → c.reads = [] → peer c r.index.toNat → r.hash.toNat = c.hash → r.op.toNat = c.op →
      r.rfmt.toNat = c.rfmt → r.vlen.toNat = c.vlen → r.root.toNat = c.root → r.t.toNat = tileCount s p → r.invar = invarOf s p →
      (∀ e ∈ c.ready, e.1 ≠ r.index.toNat) →
      let got : Coll := { c with ready := c.ready ++ [(r.index.toNat, r.count.toNat)], lastReady := if 0 < tickDiff s.tick c.lastReady then s.tick else c.lastReady }
      (allReady got = false → ∃ u, exec (.ready p r) s = .next u ∧ (collPart u p).run = some got ∧ told u r.via 0x01) ∧
      (allReady got = true → y.queue = [] → ∃ u, exec (.ready p r) s = .next u ∧ ended u c 1 0)) ∧
    (served r.via → collRunning s p r.ctag.toNat = none → s.coll.pend.length < 1024 → ∃ u, exec (.ready p r) s = .next u ∧
      u.coll.pend = s.coll.pend ++ [(p.val, .ready r s.tick)] ∧ told u r.via 0x01) ∧
    (∀ c, served d.via → collRunning s p d.ctag.toNat = some c → c.op = 3 ∨ c.op = 4 ∨ c.op = 6 → c.reads = [] → c.early = [] → c.phase = d.phase →
      c.ready.any (fun e => decide (e.1 = d.sender)) = true → (phasePeers c).all (fun i => c.sentTo.contains i) = true →
      (∃ i ∈ phaseSenders c, tabGet 0 i c.dones < donesNeeded c) →
      ∃ u, exec (.cdata p d) s = .next u ∧ told u d.via 0x01 ∧ u.mem = (vecWrite p c.dst (dstLen c) d.offset d.data (badPieces d.offset d) s).mem) ∧
    (∀ c, served d.via → collRunning s p d.ctag.toNat = some c → c.ready.any (fun e => decide (e.1 = d.sender)) = false →
      ∃ u, exec (.cdata p d) s = .next u ∧ getB u aCollStatus 42 = true ∧ (collPart u p).run = some c ∧ u.mem = s.mem) ∧
    (∀ c, served k → collRunning s p ctag.toNat = some c → c.op = 6 → c.me ≠ c.root → k.index = c.root → c.phase = 1 → c.early = [] → c.reads = [] →
      c.ready.any (fun e => decide (e.1 = k.index)) = true → y.queue = [] → (∀ z ∈ s.coll.outq, z.part ≠ p.val ∨ z.seq ≠ c.seq) →
      ∃ u, exec (.cctlDone p k ctag) s = .next u ∧ ended u c (if c.poison then 2 else 1) 0) ∧
    (∀ c, served k → collRunning s p ctag.toNat = some c → y.queue = [] → code ≠ 0x01 → code ≠ 0x02 →
      ∃ u, exec (.abort p k ctag code) s = .next u ∧ ended u c code.toNat 6 ∧ getB u aCollStatus 40 = true) ∧
    (served k → collRunning s p ctag.toNat = none → s.coll.pend.length < 1024 → ∃ u, exec (.abort p k ctag code) s = .next u ∧
      u.coll.pend = s.coll.pend ++ [(p.val, .abort k.index ctag.toNat code)]) ∧
    (∀ c, idle → y.run = some c → c.fence.isSome = true → y.queue = [] → ∃ u, exec (.collTimeout p) s = .next u ∧ ended u c 0x41 0 ∧
      getB u aCollStatus 40 = true ∧ getB u aCollStatus 41 = true)

/-- A digest command that passes its checks is queued; the oldest ends with its record: over regions of working memory without poison DONE, with the SHA3-256
digest of its preimage; the step view advances, and past its largest value faults the partition with cause 3; a write of IMG_STEP sets the step views of a
partition that does not run (R474, R475, R479 to R484). -/
def Obligations.DigestsAndSteps : Prop :=
  ∀ (t : Tile) (way : Transit) (p : Part) (v : Word) (s : State),
    (∀ x, PostGoes s t x → x.kind = .dig → way.hdr = .ok → ownerOf s t = some p.val → x.off + 64 ≤ workBytes s p → anyBad s (pkgAddr t x.off) 64 = false → s.dig.length < 64 →
      s.dig.countP (fun c => decide (c.part = p.val)) < 4 →
      let c : DigCmd := { part := p, tile := t, step := x.step, blk := memBytes s (pkgAddr t x.off) 64, seq := (part s p).digSeq }
      digFails s c = none → ∃ u, exec (.digest ⟨t, way⟩) s = .next u ∧ u.dig = s.dig ++ [c] ∧ (part u p).digSeq = ((part s p).digSeq + 1) % 65536 ∧
        u.posts.length + 1 = s.posts.length ∧ (∀ a, memByte u a = memByte s a)) ∧
    (∀ c rest, s.dig = c :: rest → (∀ r ∈ regionList s c, r.kind ≠ 2) → digUse c = false → digSave c = false →
      anyBad s (pkgAddr c.tile (leAt c.blk 8 8)) (32 * digRegions c) = false → digCpl c + 256 ≤ workBytes s c.part → digCpl c % 64 = 0 →
      let rs := regionList s c
      let m := digCounts c
      let w := digGroup c.part (rs.take m.1) s
      let i := digGroup c.part ((rs.drop m.1).take m.2.1) w.1
      let o := digGroup c.part (rs.drop (m.1 + m.2.1)) i.1
      let y := pkgAddr c.tile (digCpl c)
      w.2.2 = 0x01 → i.2.2 = 0x01 → o.2.2 = 0x01 → ∃ u, exec .digestDone s = .next u ∧ u.dig = rest ∧
        memBytes u y 8 = leBytes 8 (1 + 2 ^ 32 * c.seq + 2 ^ 63) ∧
        memBytes u (y + 32) 32 = slice (sha3 (preimage s c (sha3 w.2.1) (sha3 i.2.1) (sha3 o.2.1))) 0 32 ∧
        (∀ a, a < y ∨ y + 256 ≤ a → memByte u a = memByte s a)) ∧
    ((tile s t).step ≠ BitVec.allOnes 64 → exec (.stepAdv t) s = .next (modTile t (fun x => { x with step := x.step + 1 }) s)) ∧
    (∀ q, (tile s t).step = BitVec.allOnes 64 → ownerOf s t = some q → (part s q).st = .running →
      ∃ u, exec (.stepAdv t) s = .next u ∧ (part u q).st = .faulted ∧ (part u q).cause = 3) ∧
    ((part s p).st = .stopped ∨ (part s p).st = .faulted → ∃ u, exec (.imgStepWrite p v) s = .next u ∧ (∀ x ∈ (part s p).prec.tiles, (tile u x).step = v) ∧
      (∀ x, x ∉ (part s p).prec.tiles → tile u x = tile s x) ∧ ({ u with tiles := s.tiles } : State) = s) ∧
    ((part s p).st ≠ .stopped → (part s p).st ≠ .faulted → ∃ u, exec (.imgStepWrite p v) s = .next u ∧ getB u (aImgAudit p) 18 = true ∧
      (∀ x, tile u x = tile s x))

/-! ### Power, heat and sleep -/

/-- A control period gives each RUNNING partition its estimate, budget and bucket and moves its operating point and the issue duty by at most one; a sample gives
P_m and a factor from 0.5 to 1; a calibration window keeps the coefficients within half and twice their fused values and changes no register but PWR_STATUS; the
lowest priority is suspended, the highest resumed; caps and OP_MAX are held in their ranges; at a boundary the manager lowers the givers' caps (R491, R500 to R514,
R519 to R523). -/
def Obligations.PowerManagement : Prop :=
  ∀ (acts : List Activity) (frames : Nat) (rails : Rails) (v : Word) (p : Part) (rec : List Byte) (s : State),
    let base : State := match recWaiting (fun _ => true) (recOf rec) s with | some q => answer 1134 q 0x01 [] 0 0 s | none => s
    (16 ≤ s.boot.step → s.boot.ended = true → 1 ≤ s.pwr.duty → s.pwr.duty ≤ 16 → ∃ u, exec (.controlPeriod acts frames) s = .next u ∧
      1 ≤ u.pwr.duty ∧ u.pwr.duty ≤ 16 ∧ u.pwr.duty ≤ s.pwr.duty + 1 ∧ s.pwr.duty ≤ u.pwr.duty + 1 ∧
      u.pwr.est = (if getB s aPwrStatus 4 then 11 * s.pwr.aux / 10 else pkgEst s frames) ∧ (∀ q, part u q = part s q) ∧ (∀ a, memByte u a = memByte s a) ∧
      ((part s p).st = .running →
        let x := pwrPart s p
        let y := pwrPart u p
        let k := y.budget * getF s aPwrCtrl 0 16
        y.est = partEst s acts p ∧ y.budget = budgetOf (modPwr (fun w => { w with est := u.pwr.est }) s) p ∧
          y.bucket = min k ((if x.fresh then k else x.bucket) + 2 * y.budget - 2 * y.est) ∧ y.fresh = false ∧ y.op ≤ x.op + 1 ∧ x.op ≤ y.op + 1)) ∧
    (∃ u, exec (.avsSample rails) s = .next u ∧ u.pwr.pm = u.pwr.core.sum + u.pwr.aux ∧ u.pwr.core.length = 4 ∧ 32768 ≤ u.pwr.corr ∧ u.pwr.corr ≤ 65536 ∧
      u.pwr.aux = rails.aux.getD s.pwr.aux ∧ (∀ d, d < 4 → u.pwr.core.getD d 0 = (rails.core.getD d none).getD (s.pwr.core.getD d 0)) ∧ u.regs = s.regs) ∧
    (∃ u, exec .calibrationWindow s = .next u ∧ u.pwr.windows.length = s.pwr.windows.length + 1 ∧ u.pwr.window = {} ∧
      (∀ d i, d < 4 → i < 15 →
        let f := (fusedCoef s d).getD i 0
        let x := (coefOf u d).getD i 0
        (0 ≤ f → f / 2 ≤ x ∧ x ≤ 2 * f) ∧ (f < 0 → 2 * f ≤ x ∧ x ≤ f / 2)) ∧
      (∀ i, i < 6 →
        let f := s.fuses.pkgCoef.getD i 0
        let x := (pkgCoefOf u).getD i 0
        (0 ≤ f → f / 2 ≤ x ∧ x ≤ 2 * f) ∧ (f < 0 → 2 * f ≤ x ∧ x ≤ f / 2)) ∧ (∀ o, o ≠ aPwrStatus → reg u o = reg s o)) ∧
    ((part s p).st = .running → 105 * effCap s < 100 * s.pwr.pm →
      (∀ q, q < 64 → (part s q).st = .running → (part s p).prec.priority < (part s q).prec.priority ∨ ((part s p).prec.priority = (part s q).prec.priority ∧ q ≤ p.val)) →
      ∃ u, exec .powerSuspend s = .next u ∧ (part u p).st = .suspended ∧ (part u p).suspPower = true ∧ getB u aPwrStatus 18 = true ∧
        (∀ q, q ≠ p.val → (part u q).st = (part s q).st)) ∧
    ((part s p).st = .suspended → (part s p).suspPower = true → (part s p).stopping = false → 100 * (s.pwr.pm + meanEst s p) < 95 * effCap s → s.pins.halt = false →
      (∀ q, q < 64 → (part s q).st = .suspended → (part s q).suspPower = true →
        (part s q).prec.priority < (part s p).prec.priority ∨ ((part s p).prec.priority = (part s q).prec.priority ∧ p.val ≤ q)) →
      ∃ u, exec .powerResume s = .next u ∧ (part u p).st = .running ∧ (part u p).suspPower = false ∧ (∀ q, q ≠ p.val → part u q = part s q) ∧
        ({ u with parts := s.parts } : State) = s) ∧
    (∃ u, exec (.pwrCapWrite v) s = .next u ∧ getF u aPwrCap 0 13 = max 1500 (min 5600 (wfld v 0 13)) ∧ u.pwr.shiftCap = (let w := min (getF u aPwrCap 0 13) s.pwr.limit; if s.cell.map.isSome then min s.pwr.shiftCap w else w) ∧
      (∀ o, o ≠ aPwrCap → reg u o = reg s o) ∧ ({ u with regs := s.regs, pwr := s.pwr } : State) = s) ∧
    (∃ u, exec (.opMaxWrite p v) s = .next u ∧ getF u (aPwrPart p) 4 4 = min (partCeiling s) (wfld v 4 4) ∧
      (partCeiling s < wfld v 4 4 → getB u aPwrStatus 19 = true) ∧ (∀ o, o ≠ aPwrPart p → o ≠ aPwrStatus → reg u o = reg s o)) ∧
    (isManager (waitStep s) = false ∨ s.cell.map = none → exec .budgetShift s = .next (waitStep s)) ∧
    (isManager (waitStep s) = true → s.cell.map ≠ none → s.cell.bases = [] → s.cell.rebase = false → getB s aPwrCtrl 24 = true → ∃ u, exec .budgetShift s = .next u ∧
      ∀ x ∈ capPairs (waitStep s), s.cell.slot ≠ some x.1 → ∃ b, Msg.cellRec x.1 b ∈ u.sent ∧ leAt b 0 1 = 8 ∧
        leAt b 6 2 = ((slotPower (waitStep s) x.1).2.1 - x.2.2) % 65536) ∧
    (∀ m, base.cell.map = some m → leAt (recOf rec) 0 1 = 8 → leAt (recOf rec) 2 2 = m.term → ∃ u, exec (.capSet rec) s = .next u ∧
      u.pwr.shiftCap = min (capHigh base (base.cell.slot.getD 31) (capW base)) (max (capLow (capW base)) (leAt (recOf rec) 6 2)) ∧
      ({ u with pwr := { u.pwr with shiftCap := base.pwr.shiftCap } } : State) = base)

/-- Temperature, coolant and halt: from 105 °C a thermal cap applies; at 115 °C, or when the coolant falls, everything stops and is lost, with its cause; a
clear that is due begins the exit from Dark; HALT_N suspends every RUNNING partition, and its end resumes those that nothing else holds (R515 to R518, R624 to
R626). -/
def Obligations.Thermal : Prop :=
  ∀ (temps : Temps) (s : State),
    let h := (temps.quads.take 16 ++ temps.mems.take 4).foldl max 0
    let stopped (u : State) (cause : Nat) : Prop :=
      getB u aPwrTherm 0 = true ∧ getF u aPwrTherm 3 2 = cause ∧ reg u aImgActive = 0 ∧ u.mem = [] ∧ u.ecc = [] ∧ u.posts = [] ∧ u.dig = [] ∧ u.bst.dev = [] ∧
        (∀ p, p < 64 → (part u p).st = .empty)
    (105 ≤ h → h < 115 → ∃ u, exec (.thermalRead temps) s = .next u ∧ getB u aPwrStatus 5 = true ∧
      u.pwr.thermCap = some (98 * min (s.pwr.thermCap.getD (1000 * capW s)) s.pwr.pm / 100) ∧ u.pwr.quads = temps.quads.take 16 ∧
      u.pwr.mems = temps.mems.take 4) ∧
    (h < 105 → s.pwr.thermCap = none → ∃ u, exec (.thermalRead temps) s = .next u ∧ u.pwr.thermCap = none ∧ u.pwr.quads = temps.quads.take 16 ∧
      u.regs = s.regs ∧ u.pins.trip = (if h < 100 then false else s.pins.trip)) ∧
    (115 ≤ h → getB s aPwrTherm 0 = false ∨ getF s aPwrTherm 3 2 ≠ 2 → ∃ u, exec (.thermalRead temps) s = .next u ∧ stopped u 2 ∧ u.pins.trip = true) ∧
    (s.pins.coolant = true → ∃ u, exec .coolantFall s = .next u ∧ stopped u 1 ∧ u.pins.coolant = false) ∧
    (s.pins.coolant = false → ∃ u, exec .coolantRise s = .next u ∧ u.pins.coolant = true ∧ u.pwr.coolantTick = s.tick ∧ u.regs = s.regs) ∧
    (thermClearable s = true → s.pwr.paused = false → s.boot.now.outcome ≠ 3 → s.pwr.sleep = .dark → ∃ u, exec .thermStopClear s = .next u ∧
      getB u aPwrTherm 0 = false ∧ getF u aPwrTherm 3 2 = 0 ∧ u.pwr.sleep = .exiting 3) ∧
    (thermClearable s = true → s.pwr.paused = true → ∃ u, exec .thermStopClear s = .next u ∧ getB u aPwrTherm 0 = false ∧ u.boot.step = 5 ∧
      u.pwr.paused = false) ∧
    (thermClearable s = false → exec .thermStopClear s = .next s) ∧
    (s.pins.halt = false → ∃ u, exec .haltAssert s = .next u ∧ u.pins.halt = true ∧ getB u aGlbPins 16 = true ∧
      ∀ p, p < 64 → (if (part s p).st = .running then (part u p).st = .suspended ∧ (part u p).suspHalt = true else (part u p).st = (part s p).st)) ∧
    (s.pins.halt = true → ∃ u, exec .haltDeassert s = .next u ∧ u.pins.halt = false ∧
      ∀ p, p < 64 → (part s p).suspHalt = true →
        (part u p).suspHalt = (if (part s p).suspPower = false ∧ ((part s p).st ≠ .suspended ∨ (part s p).stopping = true) then true else false) ∧
        (part u p).st = (if (part s p).st = .suspended ∧ (part s p).suspPower = false ∧ (part s p).stopping = false then .running else (part s p).st))

/-- Package states: a request enters IDLE, or a deeper state where nothing lives and no rank map holds; quiet enters the deepest state allowed; an entry that has
drained is complete, and a wake cause begins the exit of the state that the package is in; the agreement of a cell is prepared, voted, committed or aborted
(R524 to R531). -/
def Obligations.Sleep : Prop :=
  ∀ (req : BitVec 2) (rec : List Byte) (s : State),
    let r := recOf rec
    let exit : SleepSt := match s.pwr.sleep with | .active => .active | .exiting k => .exiting k | .idle => .exiting 1 | .pewter => .exiting 2 | .dark => .exiting 3 | .entering k => .exiting k
    let b : State := match recWaiting (fun _ => true) r s with | some q => answer 1134 q 0x01 [] 0 0 s | none => s
    let clear (u : State) (b : State) : Prop := u.pwr.votes = none ∧ u.pwr.prepared = none ∧ (b.pwr.wakeHeld = false → u.pwr.sleep = b.pwr.sleep)
    (awake s = true → s.boot.ended = true →
      (req = 1 → ∃ u, exec (.sleepReq req) s = .next u ∧ u.pwr.sleep = .idle) ∧
      (2 ≤ req.toNat → noPartLive s = true → s.cell.map = none → ∃ u, exec (.sleepReq req) s = .next u ∧ u.pwr.sleep = .entering req.toNat) ∧
      (2 ≤ req.toNat → noPartLive s = false ∨ s.cell.map ≠ none → ∃ u, exec (.sleepReq req) s = .next u ∧ u.pwr = s.pwr ∧ getB u aPwrStatus 21 = true)) ∧
    (∀ k, s.pwr.sleep = .entering k → s.pwr.wakeHeld = false → (∀ n, n < 30 → domSt s n = .draining → domOutstanding s n = false) → banksUp s = [] →
      ∃ u, exec .sleepEntryDone s = .next u ∧ u.pwr.sleep = (if k = 3 then .dark else .pewter) ∧
        (k = 3 → u.mem = [] ∧ reg u aImgActive = 0 ∧ ∀ p, p < 64 → (part u p).st = .empty)) ∧
    (∀ k n, s.pwr.sleep = .entering k → n < 30 → domSt s n = .draining → domOutstanding s n = true → exec .sleepEntryDone s = .next s) ∧
    (getB s aPwrTherm 0 = false → s.pwr.prepared = none →
      (∃ u, exec .resume s = .next u ∧ u.pwr.sleep = exit ∧ getB u aPwrWakeCause 0 = true) ∧
      (reg s aPwrWakeTime ≠ 0 → ∃ u, exec .timerWake s = .next u ∧ u.pwr.sleep = exit ∧ getB u aPwrWakeCause 5 = true)) ∧
    (reg s aPwrWakeTime = 0 → exec .timerWake s = .next s) ∧
    (∀ k, s.pwr.sleep = .exiting k → (∀ n, n < 30 → domSt s n = .ramping → (tabGet {} n s.doms).slow = false) →
      ∃ u, exec .wakeDone s = .next u ∧ u.pwr.sleep = .active ∧ getB u aPwrStatus 20 = true) ∧
    (pkgQuiet s = true → awake s = true → s.boot.ended = true →
      (s.cell.map = none → s.pwr.sleep = .active → ∃ u, exec .quietTimeout s = .next u ∧
        u.pwr.sleep = (match deepest s with | 0 => .active | 1 => .idle | k => .entering k)) ∧
      (s.cell.map ≠ none → isManager s = false → s.pwr.votes = none → ∃ u, exec .quietTimeout s = .next u ∧ u.pwr.quiet = true ∧
        u.pwr.sleep = (if deepest s = 0 then s.pwr.sleep else .idle))) ∧
    (b.cell.located = true → leAt r 0 1 = 4 → leAt r 1 1 ≤ 17 → isManager b = false →
      let yes : Bool := awake b && decide (2 ≤ leAt r 6 2 ∧ leAt r 6 2 ≤ readyNow b) && decide (b.cell.map.map (·.term) = some (leAt r 2 2))
      ∃ u, exec (.sleepPrepare rec) s = .next u ∧
        Msg.cellRec (leAt r 1 1) (sleepRec 5 (b.cell.slot.getD 31) (leAt r 2 2) (leAt r 4 2) (b2n yes)) ∈ u.sent ∧
        u.pwr.prepared = (if yes then some (leAt r 6 2) else b.pwr.prepared) ∧ (yes = true → u.pwr.agr = leAt r 4 2 ∧ u.pwr.agrMgr = leAt r 1 1)) ∧
    (∀ l, b.pwr.votes = some l → leAt r 0 1 = 5 → inAgreement b r = true → leAt r 1 1 ∈ b.pwr.asked →
      (leAt r 6 2 ≠ 1 → ∃ u, exec (.sleepVote rec) s = .next u ∧ clear u b) ∧
      (leAt r 6 2 = 1 → leAt r 1 1 ∉ l →
        ((∀ k ∈ b.pwr.asked, k = leAt r 1 1 ∨ k ∈ l) → 2 ≤ b.pwr.target → ∃ u, exec (.sleepVote rec) s = .next u ∧ u.pwr.votes = none ∧ u.pwr.prepared = none ∧
          u.pwr.sleep = .entering (if b.pwr.target = 2 then 2 else 3)) ∧
        ((∃ k ∈ b.pwr.asked, k ≠ leAt r 1 1 ∧ k ∉ l) → ∃ u, exec (.sleepVote rec) s = .next u ∧ u.pwr.votes = some (leAt r 1 1 :: l) ∧
          ({ u with pwr := b.pwr } : State) = b))) ∧
    (leAt r 0 1 = 6 → inAgreement b r = true → b.pwr.votes = none → 2 ≤ b.pwr.target → ∃ u, exec (.sleepCommit rec) s = .next u ∧ u.pwr.prepared = none ∧
      u.pwr.sleep = .entering (if b.pwr.target = 2 then 2 else 3)) ∧
    (leAt r 0 1 = 7 → inAgreement b r = true → ∃ u, exec (.sleepAbort rec) s = .next u ∧ clear u b) ∧
    (s.pwr.votes ≠ none → ∃ u, exec .sleepVoteLimit s = .next u ∧ clear u s) ∧
    (s.pwr.prepared ≠ none → s.pwr.votes = none → ∃ u, exec .sleepDecisionLimit s = .next u ∧ clear u s ∧ getB u aPwrStatus 21 = true)

/-! ### Clocks, resets and the start -/

/-- A clock that stops sets its bit and does what R535 says of it; the time base exchanges records, and a response gives the offset that the catch-up or the slew
takes; a reset begins its start from BOOT_01 or BOOT_02 with its cause; a unit reset empties its tiles and faults their partitions, a unit that has FAILED is not
reset, and one that resets already merges the request; at its end who waits is answered; the watchdog warns and expires. A tick with no command counts one where no
catch-up withholds it; an edge of the PLL moves the accumulators of a tile and nothing else of it (R34, R496, R498, R535, R536, R538, R539, R546 to R552). -/
def Obligations.ClocksAndResets : Prop :=
  ∀ (bit : Fin 45) (rec : List Byte) (unit : BitVec 32) (src : Station) (txid : BitVec 16) (v : Word) (s : State),
    let b := bit.val
    let mcmd : Instr := .mcmdReset unit { stn := src } txid
    let r := recOf rec
    let base : State := match recWaiting (fun _ => true) r s with | some q => answer 1134 q 0x01 [] 0 0 s | none => s
    let told (x : State) (k : Nat) (t : List Byte) : State := { x with sent := .cellRec k t :: x.sent, cell := { x.cell with outq := x.cell.outq ++ [(k, t)] } }
    let lost (u : State) : Prop := u.mem = [] ∧ u.tiles = [] ∧ u.doms = [] ∧ (∀ p, (part u p).st = .empty) ∧ u.fuses = s.fuses ∧ u.bst.dev = s.bst.dev ∧
      u.pins.prsnt = false ∧ u.boot.ended = false
    let warmed (u : State) (cause : Nat) : Prop := lost u ∧ u.boot.step = 2 ∧ u.boot.cold = false ∧ u.boot.now.cause = cause ∧ getF u aClkResetCause 0 4 = cause ∧
      getF u aClkResetCause 16 16 = min 0xFFFF (getF s aClkResetCause 16 16 + 1) ∧ u.tick = s.tick ∧ u.keys = s.keys
    let colded (u : State) (cause : Nat) : Prop := lost u ∧ u.boot.step = 1 ∧ u.boot.cold = true ∧ u.boot.now.cause = cause ∧ getF u aClkResetCause 0 4 = cause ∧
      u.tick = 0 ∧ u.keys = []
    (s.pins.powered = true → ∃ u, exec (.clockStopped bit) s = .next u ∧ getB u aClkStopped b = true ∧
      (b < 4 → (∀ n, 272 * b ≤ n → n < 272 * b + 272 → unitState u n = .failed) ∧
        ∀ p, p < 64 → (part s p).st ≠ .empty → (∃ t ∈ (part s p).prec.tiles, dieOf t = b) →
          (part u p).st = .faulted ∧ (part u p).cause = 4) ∧
      (b = 4 ∨ b = 11 ∨ b = 12 → warmed u 7) ∧ (5 ≤ b → b < 9 → domSt u (15 + b) = .failed) ∧ (b = 9 → domSt u 28 = .failed) ∧
      (b = 10 → getB u aGlbHostStatus 0 = false) ∧ (13 ≤ b → b < 17 → domSt u (11 + b) = .failed) ∧
      (17 ≤ b → portUp s (b - 17) = true → (port u (b - 17)).lostCause = 3 ∧ (port u (b - 17)).st = if (port s (b - 17)).present then .laneLock else .detect)) ∧
    (s.pins.powered = true → s.clk.half = 0 → s.clk.held = false → (idleTick s).tick = (s.tick + 1) % 2 ^ 64) ∧
    (∀ (x : TileSt) (f pll duty : Nat), x.phaseAcc < pll → f ≤ pll → let y := edgeAt f pll duty x
      y.phaseAcc = (x.phaseAcc + f) % pll ∧ (x.phaseAcc + f < pll ∨ 16 ≤ duty → y.dutyAcc = x.dutyAcc) ∧
      (pll ≤ x.phaseAcc + f → duty < 16 → x.dutyAcc < 16 → y.dutyAcc = (x.dutyAcc + duty) % 16) ∧
      ({ y with phaseAcc := x.phaseAcc, dutyAcc := x.dutyAcc } : TileSt) = x) ∧
    (followsTick s = true → recordsOn s = true → ∃ t k, exec .timeExchange s = .next (told s k t) ∧
      some k = s.cell.map.map (·.mgr) ∧ leAt t 0 1 = 9 ∧ leAt t 8 8 = s.tick % 2 ^ 64) ∧
    (isManager base = true → leAt r 0 1 = 9 → leAt r 1 1 ≤ 17 → ∃ t, exec (.timeReq rec) s = .next (told base (leAt r 1 1) t) ∧
      leAt t 0 1 = 10 ∧ leAt t 8 8 = leAt r 8 8 ∧ leAt t 16 8 = base.tick % 2 ^ 64 ∧ leAt t 24 8 = base.tick % 2 ^ 64) ∧
    (∀ m, base.cell.map = some m → followsTick base = true → leAt r 0 1 = 10 → leAt r 1 1 = m.mgr → leAt r 2 2 = m.term → base.clk.half = 0 →
      let off := (tickDiff (leAt r 16 8) (leAt r 8 8) + tickDiff (leAt r 24 8) base.tick) / 2
      ∃ u, exec (.timeRsp rec) s = .next u ∧ u.clk.offsets = (off :: base.clk.offsets).take 3 ∧
        (base.clk.waiting = true → noneLive base = true → u.clk.waiting = false ∧
          (if 0 < off then u.tick = (base.tick + off.toNat) % 2 ^ 64 else u.tick = base.tick ∧ u.clk.half = (-off).toNat)) ∧
        (base.clk.waiting = false ∨ noneLive base = false → u.clk.slew = off ∧ u.tick = base.tick ∧ u.clk.waiting = base.clk.waiting)) ∧
    (followsTick s = true → s.clk.half = 0 → s.clk.slew ≠ 0 → exec .tickSlew s = .next (if 0 < s.clk.slew
      then { s with tick := (s.tick + 1) % 2 ^ 64, clk := { s.clk with slew := s.clk.slew - 1 } } else { s with clk := { s.clk with slew := s.clk.slew + 1, held := true } })) ∧
    (s.pins.powered = true → inReset s = false → (∃ u, exec .warm s = .next u ∧ warmed u 2) ∧ (∃ u, exec .cold s = .next u ∧ colded u 1) ∧
      (unit.toNat / 2 ^ 28 = 3 → unitHere s unit.toNat = true → ∃ u, exec (.clkUnitReset unit) s = .next u ∧ warmed u 2)) ∧
    (s.pins.powered = true → inReset s = true → exec .warm s = .next s ∧ (s.boot.cold = true → exec .cold s = .next s)) ∧
    (s.pins.powered = true → unit.toNat / 2 ^ 28 < 3 → unitExists s unit.toNat = true → unitFailed s unit.toNat = true ∨ (s.boot.cold = false ∧ s.boot.ended = false) →
      exec (.clkUnitReset unit) s = .next s) ∧
    (s.pins.powered = true → unit.toNat / 2 ^ 28 < 3 → unitExists s unit.toNat = true → unitFailed s unit.toNat = false → s.boot.cold = true ∨ s.boot.ended = true →
      ((∀ x ∈ s.resets, unitContains x unit.toNat = false) → ∃ u, exec (.clkUnitReset unit) s = .next u ∧ u.resets = unit.toNat :: s.resets ∧
        u.resetReqs = s.resetReqs ++ [(unit.toNat, none)] ∧
        (∀ t ∈ unitTiles unit.toNat, (tile u t).mxq = [] ∧ (tile u t).stq = [] ∧ (tile u t).acc = [] ∧ core u t = {}) ∧
        ∀ p, p < 64 → (part s p).st = .running ∨ (part s p).st = .suspended → (∃ t ∈ (part s p).prec.tiles, t ∈ unitTiles unit.toNat) →
          (part u p).st = .faulted ∧ (part u p).cause = 5) ∧
      (∀ x, s.resets.find? (fun x => unitContains x unit.toNat) = some x →
        exec (.clkUnitReset unit) s = .next { s with resetReqs := s.resetReqs ++ [(x, none)] })) ∧
    (∀ s1, let q : Packet := { vc := 0, srcStn := BitVec.ofNat 11 src.val, dstStn := 1134, dstUnit := unit, txid := txid }
      s.pins.powered = true → openEntry (stamped s 0x22 q) [] s = some s1 → s.boot.cold = true ∨ s.boot.ended = true →
      (unit.toNat / 2 ^ 28 = 3 → unitHere s unit.toNat = true → inReset s = false → ∃ u, exec mcmd s = .next u ∧ warmed u 6) ∧
      (unit.toNat / 2 ^ 28 < 3 → unitExists s unit.toNat = true → unitFailed s unit.toNat = false → (∀ x ∈ s.resets, unitContains x unit.toNat = false) →
        ∃ u, exec mcmd s = .next u ∧ u.resets = unit.toNat :: s.resets ∧
          u.resetReqs = s.resetReqs ++ [(unit.toNat, some (src.val, txid.toNat))])) ∧
    (unit.toNat ∈ s.resets → ∃ u, exec (.unitResetDone unit) s = .next u ∧ (∀ x, x ∈ u.resets ↔ x ∈ s.resets ∧ x ≠ unit.toNat) ∧
      u.resetReqs = s.resetReqs.filter (fun e => e.1 ≠ unit.toNat) ∧ ∀ n x e, (unit.toNat, some (n, x)) ∈ s.resetReqs → entryOf s n x = some e →
        ∃ q : Packet, Msg.packet q [] ∈ u.sent ∧ q.code = 0x01 ∧ q.txid = e.req.txid ∧ q.dstStn = e.req.srcStn ∧ q.srcStn = 1134) ∧
    exec .kick s = .next (if s.kick.isSome then { s with kick := some s.tick } else s) ∧
    (s.pins.powered = true → ∃ u, exec (.clkWdogWrite v) s = .next u ∧ getB u aClkWdog 0 = v.getLsbD 0 ∧ getF u aClkWdog 8 8 = max 1 (wfld v 8 8) ∧
      getB u aClkWdog 2 = (getB s aClkWdog 2 && !v.getLsbD 2) ∧ u.kick = (if v.getLsbD 1 = true ∧ s.kick.isSome = true then some s.tick else s.kick) ∧
      (∀ o, o ≠ aClkWdog → reg u o = reg s o) ∧ ({ u with regs := s.regs, kick := s.kick } : State) = s) ∧
    (wdogRuns s = true → (∃ u, exec .wdogWarn s = .next u ∧ getB u aClkWdog 2 = true ∧ (∀ o, o ≠ aClkWdog → reg u o = reg s o)) ∧
      ∃ u, exec .wdogExpire s = .next u ∧ warmed u 5)

/-- The start: a step whose instances all pass records 1 with its end and goes on; a step that fails records its failure, and a third failure of a mandatory one
is the safe state; BOOT_16 hands over and starts the watchdog; release begins a cold start; the loss of the auxiliary supply or of the reference clock leaves what
is not lost; a supply that fails fails its domains (R552 to R558, R617 to R620). What a step finds is the command's operand (log entry 20). -/
def Obligations.Start : Prop :=
  ∀ (rep : BootReport) (sa : BitVec 3) (d : Die) (s : State),
    let k := s.boot.step
    let ent (u : State) : StepEnt := tabGet {} k u.boot.now.steps
    let ns : List Nat := [4 * d.val, 4 * d.val + 1, 4 * d.val + 2, 4 * d.val + 3, 16 + d.val, 20 + d.val]
    let held : Prop := k = 4 ∧ (s.pins.coolant = false ∨ getB s aPwrTherm 0 = true)
    let off (u : State) : Prop := u.pins.powered = false ∧ u.fuses = s.fuses ∧ u.flash = s.flash ∧ u.mem = [] ∧ u.tiles = [] ∧ u.parts = [] ∧ u.regs = [] ∧
      u.err = {} ∧ u.bst.dev = [] ∧ u.tick = 0
    (bootRuns s = true → rep.pass = true → rep.mask.toNat &&& bootInstances k = 0 → rampFailures k s &&& bootInstances k = 0 → bootAlts s k = 0 → bootSkips s k = 0 → k ≠ 15 →
        (k = 8 → crowdedQuads rep s = 0) →
      ∃ u, exec (.bootStepDone rep) s = .next u ∧ (ent u).result = 1 ∧ (ent u).mask = 0 ∧ (ent u).fails = 0 ∧ (ent u).alt = 0 ∧ (ent u).stop = s.tick ∧
        (k ≠ 16 → ¬ held → u.boot.step = k + 1 ∧ (tabGet {} (k + 1) u.boot.now.steps).start = s.tick) ∧ (held → u.pwr.paused = true ∧ u.boot.step = 5) ∧
        (k = 16 → u.boot.ended = true ∧ u.kick = some s.tick ∧ (u.boot.now.outcome = 1 ∨ u.boot.now.outcome = 2))) ∧
    (bootRuns s = true → bootInstances k &&& (bootInstances k - bootSkips s k) ≠ 0 → ∃ u, exec .bootStepLimit s = .next u ∧
      (ent u).result = (if bootAlts s k ≠ 0 then 5 else 2) ∧ (ent u).fails = min 255 ((prevEnt s k).fails + 1) ∧ (ent u).stop = s.tick ∧
      (bootMandatory k = true → 2 ≤ (prevEnt s k).fails → u.boot.now.outcome = 3 ∧ u.doms = [] ∧ u.mem = [] ∧ u.pins.prsnt = false ∧
        (∀ p, p < 64 → (part u p).st = .empty)) ∧
      (bootMandatory k = false ∨ (prevEnt s k).fails < 2 → k ≠ 16 → ¬ held → u.boot.step = k + 1)) ∧
    (s.pins.powered = false → ∃ u, exec (.powerOnRelease sa) s = .next u ∧ u.pins.powered = true ∧ u.boot.step = 1 ∧ u.boot.cold = true ∧ u.boot.now.cause = 0 ∧
      u.mgt.sa = sa.toNat ∧ u.fuses = s.fuses ∧ u.mem = [] ∧ u.tiles = [] ∧ u.parts = [] ∧ u.bst.dev = [] ∧ u.tick = 0) ∧
    (s.pins.powered = true → exec (.powerOnRelease sa) s = .next s) ∧
    (s.pins.powered = true → (∃ u, exec .auxFail s = .next u ∧ off u) ∧ ∃ u, exec .refclkLoss s = .next u ∧ off u) ∧
    ((∃ n ∈ ns, domPowered s n = true) → ∃ u, exec (.coreRailFail d) s = .next u ∧ ∀ n ∈ ns, domSt u n = .failed) ∧
    ((∀ n ∈ ns, domPowered s n = false) → exec (.coreRailFail d) s = .next s) ∧
    (domPowered s 28 = true → ∃ u, exec .vddqFail s = .next u ∧ domSt u 28 = .failed ∧ u.bst.chans = [] ∧ getB u aPwrStatus 22 = true)

/-! ### The host port and the management path -/

/-- An admitted BAR2 access of one piece of the scratchpad reads its bytes, or writes them; a refused one ends with its code; an access that waits is served again,
or ends at its limit with DEFER, and its entry is then free; a vector is raised, and sent where it is unmasked; the LTR value and its enable give PWR_LTR; the link comes up with a new epoch,
and a link that goes down, or PERST_N, returns the port to reset; PME_Turn_Off and the D-states are kept (R561 to R575, R627). -/
def Obligations.HostPort : Prop :=
  ∀ (off len : Nat) (data : List Byte) (way : Transit) (ue : Bool) (txid : BitVec 16) (t : Tile) (vec : BitVec 5) (vn : BitVec 11) (lv : BitVec 16) (s : State),
    let piece (n : Nat) : Prop := hostLive s = true ∧ 0 < n ∧ off + n ≤ 2 ^ 35 ∧ off % 512 + n ≤ 512
    let refused (u : State) (code : Byte) : Prop := getB u aGlbHostStatus 17 = true ∧ getF u aGlbHostStatus 24 8 = code.toNat ∧ (∀ a, memByte u a = memByte s a)
    let gone (u : State) : Prop := getB u aGlbHostStatus 0 = false ∧ reg u aPwrLtr = regReset aPwrLtr ∧ u.host.accs = s.host.accs ∧ u.host.msixEnable = false ∧
      u.host.unmasked = [] ∧ u.host.d3hot = false ∧ u.host.ltrEnable = false ∧ u.host.pme = false ∧
      (s.img.flash = false → s.img.phase = .verify → u.img.phase = .rejected ∧ u.img.reason = 0x14)
    let w : State := countCorrected way (wakeCause 1 s)
    let taken : State := hostTake txid.toNat s
    let after : State := hostPump taken
    let deferred : Prop := ∃ e, entryOf s 1133 txid.toNat = some e ∧ e.deferred = true
    (way.hdr = .ok →
      (piece len → readBlocked w = false → spAdmit w false off len = none → unitGate (tileStation w (off / sliceBytes)) 1 w = none →
        ∃ u, exec (.bar2Read off ⟨len, way, ue⟩) s = .next u ∧ Msg.bar2 off (memBytes s off len) (ue || anyBad s off len) ∈ u.sent ∧ (∀ a, memByte u a = memByte s a) ∧
          ((ue || anyBad s off len) = true → getB u aGlbHostStatus 18 = true)) ∧
      (∀ c, piece len → readBlocked w = false → spAdmit w false off len = some c →
        ∃ u, exec (.bar2Read off ⟨len, way, ue⟩) s = .next u ∧ refused u c ∧ Msg.bar2Abort off ∈ u.sent) ∧
      (piece data.length → spAdmit w true off data.length = none → unitGate (tileStation w (off / sliceBytes)) 1 w = none → writePoisons w off data.length = false →
        ∃ u, exec (.bar2Write off data ⟨false, way⟩) s = .next u ∧ memBytes u off data.length = data ∧
          (∀ a, a < off ∨ off + data.length ≤ a → memByte u a = memByte s a)) ∧
      (∀ c, piece data.length → spAdmit w true off data.length = some c → ∃ u, exec (.bar2Write off data ⟨false, way⟩) s = .next u ∧ refused u c)) ∧
    (way.hdr ≠ .ok → piece len → ∃ u x e a, exec (.bar2Read off ⟨len, way, ue⟩) s = .next u ∧ entryOf u 1133 x = some e ∧ e.deferred = false ∧
      tabFind x u.host.accs = some a ∧ a.bar2 = true ∧ a.write = false ∧ a.off = off ∧ a.len = len ∧ (∀ z, memByte u z = memByte s z)) ∧
    (entryOf taken 1133 txid.toNat = none ∧ tabFind txid.toNat taken.host.accs = none ∧ ({ taken with host := s.host, ni := s.ni } : State) = s) ∧
    (∀ a, tabFind txid.toNat s.host.accs = some a → a.bar2 = false → deferred →
      (bar0Gate s a.off = none → a.write = true → exec (.hostDeferRetry txid) s = .next (writeReg a.off (BitVec.ofNat 64 (leVal a.data)) after)) ∧
      (bar0Gate s a.off = none → a.write = false → a.epoch = linkEpoch s →
        exec (.hostDeferRetry txid) s = .next { after with sent := .reg a.off (readReg after a.off) :: after.sent }) ∧
      (bar0Gate s a.off = some 0x10 → exec (.hostDeferRetry txid) s = .next s)) ∧
    (∀ a, tabFind txid.toNat s.host.accs = some a → a.write = false → a.epoch = linkEpoch s → deferred → s.host.wait = [] →
      ∃ u, exec (.hostRetryLimit txid) s = .next u ∧ tabFind txid.toNat u.host.accs = none ∧ entryOf u 1133 txid.toNat = none ∧ getF u aGlbHostStatus 24 8 = 0x10 ∧
        (if a.bar2 then Msg.bar2Abort a.off else Msg.reg a.off (BitVec.allOnes 64)) ∈ u.sent ∧ getB u aGlbHostStatus (if a.bar2 then 17 else 16) = true) ∧
    (∀ p, ownerOf s t = some p → vec.toNat < 31 → 32 * p + vec.toNat ∉ s.host.vecPend →
      (s.host.msixEnable = true → s.host.msixMask = false → 32 * p + vec.toNat ∈ s.host.unmasked →
        exec (.hostIrq t vec) s = .next { s with sent := .msix (32 * p + vec.toNat) :: s.sent }) ∧
      (s.host.msixEnable = false ∨ s.host.msixMask = true ∨ 32 * p + vec.toNat ∉ s.host.unmasked →
        exec (.hostIrq t vec) s = .next { s with host := { s.host with vecPend := (32 * p + vec.toNat) :: s.host.vecPend } })) ∧
    (∃ u, exec (.msixUnmask vn) s = .next u ∧ u.host.msixEnable = true ∧ u.host.msixMask = false ∧ vn.toNat ∈ u.host.unmasked ∧ vn.toNat ∉ u.host.vecPend ∧
      u.sent = (if vn.toNat ∈ s.host.vecPend then .msix vn.toNat :: s.sent else s.sent)) ∧
    (∃ u, exec (.ltrWrite lv) s = .next u ∧ getF u aPwrLtr 0 13 = lv.toNat % 2 ^ 13 ∧ u.host.ltrValue = lv.toNat % 2 ^ 13 ∧
      getB u aPwrLtr 15 = (s.host.ltrEnable && decide (lv.toNat % 1024 ≠ 0)) ∧ (∀ o, o ≠ aPwrLtr → reg u o = reg s o)) ∧
    (s.host.ltrEnable = false → ∃ u, exec .ltrEnable s = .next u ∧ u.host.ltrEnable = true ∧ u.sent = .ltr :: s.sent ∧
      getB u aPwrLtr 15 = decide (s.host.ltrValue % 1024 ≠ 0) ∧ (∀ o, o ≠ aPwrLtr → reg u o = reg s o)) ∧
    (hostTrains s = true → linkUp s = false → ∃ u, exec .dlUp s = .next u ∧ linkUp u = true ∧ linkEpoch u = (linkEpoch s + 1) % 256 ∧
      u.host.pme = false ∧ (∀ o, o ≠ aGlbHostStatus → reg u o = reg s o)) ∧
    (linkUp s = true → ∃ u, exec .dlDown s = .next u ∧ gone u ∧ (s.host.pme = false → getB u aGlbHostStatus 19 = true)) ∧
    (∃ u, exec .perstAssert s = .next u ∧ gone u ∧ u.pins.perst = true) ∧
    exec .perstDeassert s = .next { s with pins := { s.pins with perst := false } } ∧
    exec .d3hot s = .next { s with host := { s.host with d3hot := true } } ∧ exec .d0 s = .next { s with host := { s.host with d3hot := false } } ∧
    (linkUp s = true → exec .pmeTurnOff s = .next { s with host := { s.host with pme := true } })

/-- The management controller takes its addresses, answers the MCTP control commands and obeys the vendor commands, the secured ones only inside a secured session
of its path; a wake request that a crossing merges with the one before it is noted (R49, R514, R528, R543, R552, R576 to R579, R584, R587, R588). The codes of the messages are the model's presumption (log entry 22). -/
def Obligations.ManagementController : Prop :=
  ∀ (a b : BitVec 7) (eid kind slot which : Byte) (w : BitVec 16) (off id : BitVec 32) (v : Word) (key : List Byte) (s : State),
    let tells (m : Msg) : Host.Outcome State Fault Refusal := .next { s with sent := m :: s.sent }
    let ctl (l : List Byte) : Msg := .mgmt 0 l
    let ven (cmd res : Byte) (rest : List Byte) : Msg := .mgmt 0x7F (0x7F :: (leBytes 4 s.fuses.pen ++ ([cmd, res] ++ rest ++ List.replicate (6 - rest.length) 0)))
    (busUp s = true → s.mgt.addr = 0 → exec (.entdaa a) s = .next { s with mgt := { s.mgt with addr := a.toNat } } ∧
      (b.toNat = 0x58 + s.mgt.sa % 8 → exec (.setdasa b a) s = .next { s with mgt := { s.mgt with addr := a.toNat } }) ∧
      (b.toNat ≠ 0x58 + s.mgt.sa % 8 → exec (.setdasa b a) s = .next s)) ∧
    (s.mgt.addr ≠ 0 → exec (.entdaa a) s = .next s ∧ exec (.setdasa b a) s = .next s) ∧
    (mctpUp s = true →
      (eid ≠ 0 → eid ≠ 0xFF → exec (.setEndpointId eid) s = .next { s with mgt := { s.mgt with eid := eid.toNat }, sent := ctl [1, 0, eid] :: s.sent }) ∧
      (eid = 0 ∨ eid = 0xFF → exec (.setEndpointId eid) s = tells (ctl [1, 2])) ∧ exec .getEndpointId s = tells (ctl [2, 0, BitVec.ofNat 8 s.mgt.eid]) ∧
      exec .getMctpVersionSupport s = tells (ctl ([4, 0] ++ Config.mctpVersions)) ∧ exec .getMessageTypeSupport s = tells (ctl [5, 0, 5, 0, 1, 5, 6, 0x7F]) ∧
      exec .getVendorDefinedMsgSupport s = tells (ctl ([6, 0] ++ leBytes 4 s.fuses.pen))) ∧
    (vdmUp s = true →
      (1 < kind.toNat → exec (.reset kind) s = tells (ven 0x10 3 [])) ∧
      (kind.toNat ≤ 1 → inReset s = false → ∃ u, exec (.reset kind) s = .next u ∧ ven 0x10 0 [] ∈ u.sent ∧ u.boot.cold = decide (kind = 1) ∧ u.boot.ended = false ∧
        u.boot.step = (if kind = 1 then 1 else 2) ∧ u.boot.now.cause = (if kind = 1 then 3 else 4) ∧ u.mem = [] ∧ u.fuses = s.fuses) ∧
      exec .wdogKick s = .next { s with kick := (if s.kick.isSome then some s.tick else none), sent := ven 0x11 0 [] :: s.sent } ∧
      (1500 ≤ w.toNat ∧ w.toNat ≤ 5600 → ∃ u, exec (.setBoardLimit w) s = .next u ∧ u.pwr = { s.pwr with limit := w.toNat } ∧ ven 0x12 0 [] ∈ u.sent ∧ u.regs = s.regs) ∧
      (w.toNat < 1500 ∨ 5600 < w.toNat → exec (.setBoardLimit w) s = tells (ven 0x12 3 [])) ∧
      (∀ d, mergedAt s = some d → ∃ u, exec .wake s = .next u ∧ ven 0x13 0 [] ∈ u.sent ∧ getB u aClkStatus 16 = true ∧ u.pwr = s.pwr) ∧
      (mergedAt s = none → ∃ u, exec .wake s = .next u ∧ ven 0x13 0 [] ∈ u.sent ∧ (getB s aPwrTherm 0 = false → s.pwr.prepared = none →
        (s.pwr.sleep = .dark → u.pwr.sleep = .exiting 3 ∧ getB u aPwrWakeCause 4 = true) ∧
        (s.pwr.sleep = .pewter → u.pwr.sleep = .exiting 2 ∧ getB u aPwrWakeCause 4 = true) ∧ (s.pwr.sleep = .active → u.pwr = s.pwr ∧ getB u aPwrWakeCause 4 = true ∧ ∀ o, o ≠ aPwrWakeCause → reg u o = reg s o))) ∧
      (regReadable off.toNat = true → exec (.regRead off) s = tells (ven 0x14 0 ([0, 0, 0, 0, 0, 0] ++ leBytes 8 (readReg s off.toNat).toNat))) ∧
      (regReadable off.toNat = false → exec (.regRead off) s = tells (ven 0x14 3 [])) ∧
      (regWritable off.toNat = true → exec (.regWrite off v) s = .next (writeReg off.toNat v { s with sent := ven 0x15 0 [] :: s.sent })) ∧
      (regWritable off.toNat = false → exec (.regWrite off v) s = tells (ven 0x15 3 [])) ∧
      (∀ secured, inSession secured s = false → exec (.fabricKey secured id key) s = tells (ven 0x20 4 []) ∧ exec (.keyInstall secured slot key) s = tells (ven 0x21 4 []) ∧
        exec (.ownerFuse secured slot key) s = tells (ven 0x22 4 []) ∧ exec (.svnAdvance secured which) s = tells (ven 0x23 4 [])) ∧
      (inSession true s = true →
        exec (.fabricKey true id key) s = (if key.length = 32 then
          .next { s with sec := { s.sec with fabric := some (id.toNat, key) }, sent := ven 0x20 0 [] :: s.sent } else tells (ven 0x20 3 [])) ∧
        (64 < slot.toNat ∨ key.length ≠ 64 → exec (.keyInstall true slot key) s = tells (ven 0x21 3 [])) ∧
        (slot.toNat ≤ 64 → key.length = 64 → slotBusy s slot.toNat = true → exec (.keyInstall true slot key) s = tells (ven 0x21 5 [])) ∧
        (slot.toNat ≤ 64 → key.length = 64 → slotBusy s slot.toNat = false → ∃ u, exec (.keyInstall true slot key) s = .next u ∧ tabFind slot.toNat u.keys = some key ∧
          (∀ j, j ≠ slot.toNat → tabFind j u.keys = tabFind j s.keys) ∧ slot.toNat ∈ u.sec.installed ∧ u.sent = ven 0x21 0 [] :: s.sent) ∧
        (7 < slot.toNat ∨ key.length ≠ 32 → exec (.ownerFuse true slot key) s = tells (ven 0x22 3 [])) ∧
        (slot.toNat ≤ 7 → key.length = 32 → (tabFind (16 + slot.toNat) s.fuses.slots).isSome = true → exec (.ownerFuse true slot key) s = tells (ven 0x22 5 [])) ∧
        (slot.toNat ≤ 7 → key.length = 32 → tabFind (16 + slot.toNat) s.fuses.slots = none → ∃ u, exec (.ownerFuse true slot key) s = .next u ∧
          tabFind (16 + slot.toNat) u.fuses.slots = some key ∧ (∀ j, j ≠ 16 + slot.toNat → tabFind j u.fuses.slots = tabFind j s.fuses.slots) ∧
          u.sent = ven 0x22 0 [] :: s.sent ∧ u.flash = s.flash) ∧
        (which = 0 → ∃ u, exec (.svnAdvance true which) s = .next u ∧ u.fuses.secMin = s.fuses.secMin ∧
          u.fuses.fwMin = max s.fuses.fwMin (imgSecVersion (tabGet [] s.boot.now.fwSlot s.flash.fw)) ∧ u.sent = ven 0x23 0 [] :: s.sent) ∧
        (which = 1 → reg s aImgActive ≠ 0 → ∃ u, exec (.svnAdvance true which) s = .next u ∧ u.fuses.fwMin = s.fuses.fwMin ∧
          u.fuses.secMin = max s.fuses.secMin s.sec.imgVersion ∧ u.sent = ven 0x23 0 [] :: s.sent) ∧
        (which = 1 → reg s aImgActive = 0 → exec (.svnAdvance true which) s = tells (ven 0x23 5 [])) ∧
        (1 < which.toNat → exec (.svnAdvance true which) s = tells (ven 0x23 3 []))))

/-- PLDM: identifiers, versions, types and commands; sensors, the effecter and events; an update is received into the place not in use, verified and activated, and
an activation is refused where nothing was verified (R514, R580 to R583). The codes of the messages are the model's presumption (log entry 22). -/
def Obligations.Pldm : Prop :=
  ∀ (x : Byte) (handle : BitVec 32) (id : Nat) (w c : BitVec 16) (block : List Byte) (s : State),
    let tells (m : Msg) : Host.Outcome State Fault Refusal := .next { s with sent := m :: s.sent }
    let p (ty cmd cc : Byte) (data : List Byte) : Msg := .mgmt 1 ([ty, cmd, cc] ++ data)
    let h := max 1 handle.toNat
    let evs (l : List PldmEvent) : MgtSt := { s.mgt with events := l }
    vdmUp s = true →
    (exec .getTid s = tells (p 0 2 0 [BitVec.ofNat 8 s.mgt.tid])) ∧
    (x ≠ 0 → x ≠ 0xFF → exec (.setTid x) s = .next { s with mgt := { s.mgt with tid := x.toNat }, sent := p 0 1 0 [] :: s.sent }) ∧
    (x = 0 ∨ x = 0xFF → exec (.setTid x) s = tells (p 0 1 2 [])) ∧
    exec (.getPldmVersion x) s = tells (if x = 0 then p 0 3 0 [1, 1, Config.pldmUpdate 0] else if x = 2 then p 0 3 0 [1, 2, Config.pldmUpdate 2]
      else if x = 5 then p 0 3 0 [1, 1, Config.pldmUpdate 5] else p 0 3 2 []) ∧
    exec .getPldmTypes s = tells (p 0 4 0 [0x25, 0, 0, 0, 0, 0, 0, 0]) ∧
    exec (.getPldmCommands x) s = tells (match pldmCommands x.toNat with | some l => p 0 5 0 l | none => p 0 5 2 []) ∧
    exec (.getPdr handle) s = tells (if 33 < h then p 2 0x51 2 [] else p 2 0x51 0 (leBytes 4 (if h = 33 then 0 else h + 1) ++ Config.pdr h)) ∧
    exec (.getSensorReading id) s = tells (if id = 0 ∨ 27 < id then p 2 0x11 2 [] else p 2 0x11 0 (leBytes 4 (
      if id = 1 then s.pwr.pm / 1000 else if id < 6 then s.pwr.core.getD (id - 2) 0 / 1000 else if id = 6 then s.pwr.aux / 1000
      else if id = 7 then hottest s else if id < 24 then s.pwr.quads.getD (id - 8) 0 else s.pwr.mems.getD (id - 24) 0))) ∧
    exec (.getStateSensorReadings id) s = tells (if 28 ≤ id ∧ id ≤ 32 then p 2 0x21 0 (leBytes 8 (stateSensor s id)) else p 2 0x21 2 []) ∧
    (id = 1 → 1500 ≤ w.toNat → w.toNat ≤ 5600 → ∃ u, exec (.setNumericEffecterValue id w) s = .next u ∧ u.pwr = { s.pwr with limit := w.toNat } ∧
      p 2 0x31 0 [] ∈ u.sent ∧ u.regs = s.regs) ∧
    (id ≠ 1 ∨ w.toNat < 1500 ∨ 5600 < w.toNat → exec (.setNumericEffecterValue id w) s = tells (p 2 0x31 2 [])) ∧
    exec (.getNumericEffecterValue id) s = tells (if id = 1 then p 2 0x32 0 (leBytes 2 s.pwr.limit) else p 2 0x32 2 []) ∧
    exec (.setEventReceiver x) s = .next { s with mgt := { s.mgt with receiver := x.toNat }, sent := p 2 4 0 [] :: s.sent } ∧
    exec (.platformEventAck id) s = .next { s with mgt := evs (s.mgt.events.filter fun e => e.sensor ≠ id) } ∧
    (∀ e, s.mgt.events.find? (fun e => e.sensor = id) = some e →
      (4 ≤ e.sends → exec (.pldmEventRetry id) s = .next { s with mgt := evs (s.mgt.events.filter fun e => e.sensor ≠ id) }) ∧
      (e.sends < 4 → exec (.pldmEventRetry id) s = .next { s with
        mgt := evs (s.mgt.events.map fun e => if e.sensor = id then { e with sends := e.sends + 1 } else e)
        sent := eventMsg s id :: s.sent })) ∧
    (1 ≤ c.toNat → c.toNat ≤ 3 → block ≠ [] → block.length ≤ 1024 →
      ((∀ n, s.mgt.update ≠ some (c.toNat, n)) → ∃ u, exec (.requestFirmwareData c block) s = .next u ∧ compBytes c.toNat u = block ∧
        u.mgt.update = some (c.toNat, block.length) ∧ u.mgt.verified = none) ∧
      (∀ n, s.mgt.update = some (c.toNat, n + 1) → ∃ u, exec (.requestFirmwareData c block) s = .next u ∧
        compBytes c.toNat u = (compBytes c.toNat s ++ block).take (compSize c.toNat) ∧ u.mgt.update = some (c.toNat, n + 1 + block.length))) ∧
    (∀ k n, s.mgt.update = some (k, n) → let bad := decide (compSize k < n) || compFails k (compBytes k s) s
      exec .firmwareVerify s = .next { s with mgt := { s.mgt with update := none, verified := if bad then none else some k }, sent := p 5 0x17 (if bad then 1 else 0) [] :: s.sent }) ∧
    (s.mgt.verified = none → exec .activateFirmware s = tells (p 5 0x1A 1 [])) ∧
    (∀ k, s.mgt.verified = some k → ∃ u, exec .activateFirmware s = .next u ∧ u.mgt.verified = none ∧ u.sent = p 5 0x1A 0 [] :: s.sent ∧
      (k = 1 → u.flash = { s.flash with fwNext := freeFw s }) ∧ (k = 2 → u.flash = { s.flash with imgNext := some (freeImg s) }) ∧
      (k = 3 → u.flash = { s.flash with boardNext := some s.flash.staged }) ∧ u.boot = s.boot)

/-- SPDM: each request of a path is answered, with versions, capabilities, the algorithms offered, certificates and signed measurements; a path holds two sessions,
and a request outside the session it names is an error (R589, R590). The codes are the model's presumption (log entry 22), signatures and certificates opaque. -/
def Obligations.Spdm : Prop :=
  ∀ (path : SpdmPath) (slot index : Byte) (algs nonce data : List Byte) (sid : Nat) (s : State),
    let msg (l : List Byte) : Msg := match path with | .mctp => .mgmt 5 l | .doe => .doe l
    let tells (l : List Byte) : Host.Outcome State Fault Refusal := .next { s with sent := msg l :: s.sent }
    let here (x : Session) : Bool := x.doe == decide (path = .doe)
    let named (o : Bool) : Prop := ∃ x ∈ s.sec.sessions, here x = true ∧ x.sid = sid ∧ x.open_ = o
    let sessions (l : List Session) (code : Byte) : Host.Outcome State Fault Refusal := .next { s with sec := { s.sec with sessions := l }, sent := msg [code] :: s.sent }
    let each (f : Session → Session) : List Session := s.sec.sessions.map fun x => if here x && decide (x.sid = sid) then f x else x
    let signed (k : Nat) (m : List Byte) : Host.Outcome State Fault Refusal := tells (m ++ Config.sign k s.fuses.secret m)
    spdmUp path s = true →
    exec (.getVersion path) s = tells [0x04, 4, 0x10, 0x11, 0x12, 0x13] ∧ exec (.getCapabilities path) s = tells [0x61, 0xD6, 0x62, 0, 0] ∧
    (∃ u, exec (.negotiateAlgorithms path algs) s = .next u ∧ tabGet [] (pathNum path) u.sec.algs = spdmAlgs.filter (fun a => algs.contains a) ∧
      u.sent = msg (0x63 :: spdmAlgs.filter fun a => algs.contains a) :: s.sent) ∧
    exec (.getDigests path) s = tells ([0x01, 3] ++ sha3 (chainOf 0 s) ++ sha3 (chainOf 1 s)) ∧
    (1 < slot.toNat → exec (.getCertificate path slot) s = tells [0x7F, 1] ∧ exec (.challenge path slot nonce) s = tells [0x7F, 1]) ∧
    (slot.toNat ≤ 1 → exec (.getCertificate path slot) s = tells ([0x02, slot] ++ chainOf slot.toNat s) ∧
      exec (.challenge path slot nonce) s = signed slot.toNat ([0x03, slot] ++ sha3 (chainOf slot.toNat s) ++ nonce)) ∧
    (1 ≤ index.toNat → index.toNat ≤ 6 → exec (.getMeasurements path index nonce) s = signed 0 ([0x60, 6, index] ++ measurement s index.toNat ++ nonce)) ∧
    (2 ≤ (s.sec.sessions.filter here).length → exec (.keyExchange path slot data) s = tells [0x7F, 3]) ∧
    ((s.sec.sessions.filter here).length < 2 → slot.toNat ≤ 1 → ∃ u body, exec (.keyExchange path slot data) s = .next u ∧
      u.sec.sessions = s.sec.sessions ++ [{ doe := decide (path = .doe), sid := s.sec.nextSid }] ∧ u.sec.nextSid = s.sec.nextSid + 1 ∧
      u.sent = msg ([0x64, slot] ++ leBytes 2 s.sec.nextSid ++ body) :: s.sent) ∧
    (named false → exec (.finish path sid) s = sessions (each fun x => { x with open_ := true }) 0x65) ∧
    (named true → exec (.heartbeat path sid) s = sessions s.sec.sessions 0x68 ∧ exec (.keyUpdate path sid) s = sessions (each fun x => { x with updates := x.updates + 1 }) 0x69 ∧
      exec (.endSession path sid) s = sessions (s.sec.sessions.filter fun x => !(here x && decide (x.sid = sid))) 0x6C) ∧
    (¬ named true → exec (.heartbeat path sid) s = tells [0x7F, 2] ∧ exec (.keyUpdate path sid) s = tells [0x7F, 2] ∧ exec (.endSession path sid) s = tells [0x7F, 2]) ∧
    (¬ named false → exec (.finish path sid) s = tells [0x7F, 2])
end

