-- ==== Sys2Proof/Laws/Tab.lean ====
section
/-!
SUPPORT. Laws/Tab.lean: reading a table after writing it, and the canonical form of tables.
-/
namespace Sys2Proof.Machine

variable {α : Type}

theorem tabFind_put_self (k : Nat) (a : α) (t : Tab α) : tabFind k (tabPut k a t) = some a := by
  induction t with
  | nil => simp [tabPut, tabFind]
  | cons e r ih =>
    obtain ⟨j, b⟩ := e
    simp only [tabPut]
    split
    · simp [tabFind]
    · split
      · simp [tabFind]
      · rename_i h; simp [tabFind, Ne.symm h, ih]

theorem tabFind_put_other {j k : Nat} (h : j ≠ k) (a : α) (t : Tab α) : tabFind j (tabPut k a t) = tabFind j t := by
  induction t with
  | nil => simp [tabPut, tabFind, Ne.symm h]
  | cons e r ih =>
    obtain ⟨i, b⟩ := e
    simp only [tabPut]
    split
    · simp [tabFind, Ne.symm h]
    · split
      · rename_i hk; subst hk; simp [tabFind, Ne.symm h]
      · simp [tabFind, ih]

theorem tabFind_del_self (k : Nat) (t : Tab α) : tabFind k (tabDel k t) = none := by
  induction t with
  | nil => rfl
  | cons e r ih =>
    obtain ⟨i, b⟩ := e
    by_cases h : i = k
    · simpa [tabDel, h] using ih
    · simpa [tabDel, h, tabFind] using ih

theorem tabFind_del_other {j k : Nat} (h : j ≠ k) (t : Tab α) : tabFind j (tabDel k t) = tabFind j t := by
  induction t with
  | nil => rfl
  | cons e r ih =>
    obtain ⟨i, b⟩ := e
    by_cases hi : i = k
    · subst hi; simpa [tabDel, tabFind, Ne.symm h] using ih
    · by_cases hj : i = j
      · simp [tabDel, hi, tabFind, hj, h]
      · simpa [tabDel, hi, tabFind, hj] using ih

@[simp] theorem tabGet_set_self [DecidableEq α] (d : α) (k : Nat) (a : α) (t : Tab α) : tabGet d k (tabSet d k a t) = a := by
  unfold tabGet tabSet
  split
  · rename_i h; simp [tabFind_del_self, h]
  · simp [tabFind_put_self]

theorem tabGet_set_other [DecidableEq α] {j k : Nat} (h : j ≠ k) (d d' a : α) (t : Tab α) :
    tabGet d' j (tabSet d k a t) = tabGet d' j t := by
  unfold tabGet tabSet
  split
  · rw [tabFind_del_other h]
  · rw [tabFind_put_other h]

theorem tabGet_set [DecidableEq α] (d : α) (j k : Nat) (a : α) (t : Tab α) :
    tabGet d j (tabSet d k a t) = if j = k then a else tabGet d j t := by
  by_cases h : j = k
  · subst h; simp
  · simp [h, tabGet_set_other h]

/-! ### The canonical form -/

theorem tabAbove_mono {b c : Nat} (h : c ≤ b) (t : Tab α) (ht : tabAbove b t = true) : tabAbove c t = true := by
  cases t with
  | nil => rfl
  | cons e r => simp_all [tabAbove]; omega

theorem tabAbove_put {b k : Nat} (hb : b < k) (a : α) (t : Tab α) (h : tabAbove b t = true) : tabAbove b (tabPut k a t) = true := by
  induction t generalizing b with
  | nil => simp [tabPut, tabAbove, hb]
  | cons e r ih =>
    obtain ⟨j, c⟩ := e
    simp only [tabAbove, Bool.and_eq_true, decide_eq_true_eq] at h
    simp only [tabPut]
    split
    · simp [tabAbove, *]
    · split
      · simp_all [tabAbove]
      · have : j < k := by omega
        simp [tabAbove, h.1, ih this h.2]

theorem tabRising_put (k : Nat) (a : α) (t : Tab α) (h : tabRising t = true) : tabRising (tabPut k a t) = true := by
  cases t with
  | nil => rfl
  | cons e r =>
    obtain ⟨j, c⟩ := e
    simp only [tabRising] at h
    simp only [tabPut]
    split
    · simp [tabRising, tabAbove, *]
    · split
      · simp_all [tabRising]
      · exact tabAbove_put (by omega) a r h

theorem tabAbove_filter {b : Nat} (p : Nat × α → Bool) (t : Tab α) (h : tabAbove b t = true) : tabAbove b (t.filter p) = true := by
  induction t generalizing b with
  | nil => rfl
  | cons e r ih =>
    obtain ⟨j, c⟩ := e
    simp only [tabAbove, Bool.and_eq_true, decide_eq_true_eq] at h
    by_cases hp : p (j, c) = true
    · simp [hp, tabAbove, h.1, ih h.2]
    · simp only [List.filter, hp]
      exact ih (tabAbove_mono (by omega) r h.2)

theorem tabRising_filter (p : Nat × α → Bool) (t : Tab α) (h : tabRising t = true) : tabRising (t.filter p) = true := by
  cases t with
  | nil => rfl
  | cons e r =>
    obtain ⟨j, c⟩ := e
    simp only [tabRising] at h
    by_cases hp : p (j, c) = true
    · simpa [hp, tabRising] using tabAbove_filter p r h
    · have := tabAbove_filter p r h
      simp only [List.filter, hp]
      cases hr : r.filter p with
      | nil => rfl
      | cons e' r' => obtain ⟨i, c'⟩ := e'; rw [hr] at this; simp_all [tabAbove, tabRising]

theorem mem_tabPut {k : Nat} {a : α} {t : Tab α} {e : Nat × α} (h : e ∈ tabPut k a t) : e = (k, a) ∨ e ∈ t := by
  induction t with
  | nil => simpa [tabPut] using h
  | cons f r ih =>
    obtain ⟨j, b⟩ := f
    simp only [tabPut] at h
    split at h
    · simpa using h
    · split at h
      · simp at h; rcases h with h | h <;> simp [h]
      · simp at h; rcases h with h | h
        · simp [h]
        · rcases ih h with h | h <;> simp [h]

/-- The canonical form is kept by removing entries. -/
theorem tabCanon_filter [DecidableEq α] {d : Nat → α} (p : Nat × α → Bool) {t : Tab α} (h : tabCanon d t = true) :
    tabCanon d (t.filter p) = true := by
  simp only [tabCanon, Bool.and_eq_true, List.all_eq_true] at h ⊢
  exact ⟨tabRising_filter p t h.1, fun e he => h.2 e (List.mem_filter.1 he).1⟩

/-- The canonical form is kept by writing an entry. -/
theorem tabCanon_set [DecidableEq α] {d : α} (k : Nat) (a : α) {t : Tab α} (h : tabCanon (fun _ => d) t = true) :
    tabCanon (fun _ => d) (tabSet d k a t) = true := by
  unfold tabSet
  split
  · exact tabCanon_filter _ h
  · rename_i ha
    simp only [tabCanon, Bool.and_eq_true, List.all_eq_true] at h ⊢
    refine ⟨tabRising_put k a t h.1, fun e he => ?_⟩
    rcases mem_tabPut he with rfl | he
    · simpa using ha
    · exact h.2 e he

end Sys2Proof.Machine
end

