-- ==== Sys2Proof/Laws/State.lean ====
section
/-!
SUPPORT. Laws/State.lean: what each update of the state leaves as it was, field by field, and what the reads of the state find after an update.
-/
namespace Sys2Proof.Machine

/-! ### Fields after an update -/

@[simp] theorem setReg_fields (off : Nat) (v : Word) (s : State) :
    (setReg off v s).regs = (tabSet (regReset off) off v s.regs) ∧
    (setReg off v s).pending = s.pending ∧ (setReg off v s).fuses = s.fuses ∧ (setReg off v s).mem = s.mem ∧ (setReg off v s).ecc = s.ecc ∧
    (setReg off v s).tiles = s.tiles ∧ (setReg off v s).bst = s.bst ∧ (setReg off v s).img = s.img ∧ (setReg off v s).parts = s.parts ∧
    (setReg off v s).posts = s.posts ∧ (setReg off v s).solder = s.solder ∧ (setReg off v s).spares = s.spares ∧
    (setReg off v s).failedQuads = s.failedQuads ∧ (setReg off v s).err = s.err ∧ (setReg off v s).host = s.host ∧ (setReg off v s).ni = s.ni ∧
    (setReg off v s).doms = s.doms ∧ (setReg off v s).resets = s.resets ∧ (setReg off v s).resetAt = s.resetAt ∧
    (setReg off v s).resetReqs = s.resetReqs ∧ (setReg off v s).heldWakes = s.heldWakes ∧ (setReg off v s).failedStns = s.failedStns ∧
    (setReg off v s).cell = s.cell ∧ (setReg off v s).ports = s.ports ∧ (setReg off v s).clk = s.clk ∧ (setReg off v s).plls = s.plls ∧
    (setReg off v s).boot = s.boot ∧ (setReg off v s).flash = s.flash ∧ (setReg off v s).board = s.board ∧ (setReg off v s).kick = s.kick ∧
    (setReg off v s).mgt = s.mgt ∧ (setReg off v s).sec = s.sec ∧ (setReg off v s).pins = s.pins ∧ (setReg off v s).pwr = s.pwr ∧
    (setReg off v s).coll = s.coll ∧ (setReg off v s).solv = s.solv ∧ (setReg off v s).dig = s.dig ∧ (setReg off v s).keys = s.keys ∧
    (setReg off v s).tick = s.tick ∧ (setReg off v s).sent = s.sent ∧ (setReg off v s).freeCount = s.freeCount := by
  refine ⟨rfl, rfl, rfl, rfl, rfl, rfl, rfl, rfl, rfl, rfl, rfl, rfl, rfl, rfl, rfl, rfl, rfl, rfl, rfl, rfl, rfl, rfl, rfl, rfl, rfl, rfl, rfl, rfl, rfl, rfl, rfl, rfl, rfl, rfl, rfl, rfl, rfl, rfl, rfl, rfl, rfl⟩

@[simp] theorem clearRegs_fields (lo hi : Nat) (s : State) :
    (clearRegs lo hi s).regs = (s.regs.filter fun e => e.1 < lo || hi ≤ e.1) ∧
    (clearRegs lo hi s).pending = s.pending ∧ (clearRegs lo hi s).fuses = s.fuses ∧ (clearRegs lo hi s).mem = s.mem ∧
    (clearRegs lo hi s).ecc = s.ecc ∧ (clearRegs lo hi s).tiles = s.tiles ∧ (clearRegs lo hi s).bst = s.bst ∧ (clearRegs lo hi s).img = s.img ∧
    (clearRegs lo hi s).parts = s.parts ∧ (clearRegs lo hi s).posts = s.posts ∧ (clearRegs lo hi s).solder = s.solder ∧
    (clearRegs lo hi s).spares = s.spares ∧ (clearRegs lo hi s).failedQuads = s.failedQuads ∧ (clearRegs lo hi s).err = s.err ∧
    (clearRegs lo hi s).host = s.host ∧ (clearRegs lo hi s).ni = s.ni ∧ (clearRegs lo hi s).doms = s.doms ∧ (clearRegs lo hi s).resets = s.resets ∧
    (clearRegs lo hi s).resetAt = s.resetAt ∧ (clearRegs lo hi s).resetReqs = s.resetReqs ∧ (clearRegs lo hi s).heldWakes = s.heldWakes ∧
    (clearRegs lo hi s).failedStns = s.failedStns ∧ (clearRegs lo hi s).cell = s.cell ∧ (clearRegs lo hi s).ports = s.ports ∧
    (clearRegs lo hi s).clk = s.clk ∧ (clearRegs lo hi s).plls = s.plls ∧ (clearRegs lo hi s).boot = s.boot ∧ (clearRegs lo hi s).flash = s.flash ∧
    (clearRegs lo hi s).board = s.board ∧ (clearRegs lo hi s).kick = s.kick ∧ (clearRegs lo hi s).mgt = s.mgt ∧ (clearRegs lo hi s).sec = s.sec ∧
    (clearRegs lo hi s).pins = s.pins ∧ (clearRegs lo hi s).pwr = s.pwr ∧ (clearRegs lo hi s).coll = s.coll ∧ (clearRegs lo hi s).solv = s.solv ∧
    (clearRegs lo hi s).dig = s.dig ∧ (clearRegs lo hi s).keys = s.keys ∧ (clearRegs lo hi s).tick = s.tick ∧ (clearRegs lo hi s).sent = s.sent ∧
    (clearRegs lo hi s).freeCount = s.freeCount := by
  refine ⟨rfl, rfl, rfl, rfl, rfl, rfl, rfl, rfl, rfl, rfl, rfl, rfl, rfl, rfl, rfl, rfl, rfl, rfl, rfl, rfl, rfl, rfl, rfl, rfl, rfl, rfl, rfl, rfl, rfl, rfl, rfl, rfl, rfl, rfl, rfl, rfl, rfl, rfl, rfl, rfl, rfl⟩

@[simp] theorem modTile_fields (t : Nat) (f : TileSt → TileSt) (s : State) :
    (modTile t f s).tiles = (tabSet {} t (f (tile s t)) s.tiles) ∧
    (modTile t f s).pending = s.pending ∧ (modTile t f s).regs = s.regs ∧ (modTile t f s).fuses = s.fuses ∧ (modTile t f s).mem = s.mem ∧
    (modTile t f s).ecc = s.ecc ∧ (modTile t f s).bst = s.bst ∧ (modTile t f s).img = s.img ∧ (modTile t f s).parts = s.parts ∧
    (modTile t f s).posts = s.posts ∧ (modTile t f s).solder = s.solder ∧ (modTile t f s).spares = s.spares ∧
    (modTile t f s).failedQuads = s.failedQuads ∧ (modTile t f s).err = s.err ∧ (modTile t f s).host = s.host ∧ (modTile t f s).ni = s.ni ∧
    (modTile t f s).doms = s.doms ∧ (modTile t f s).resets = s.resets ∧ (modTile t f s).resetAt = s.resetAt ∧
    (modTile t f s).resetReqs = s.resetReqs ∧ (modTile t f s).heldWakes = s.heldWakes ∧ (modTile t f s).failedStns = s.failedStns ∧
    (modTile t f s).cell = s.cell ∧ (modTile t f s).ports = s.ports ∧ (modTile t f s).clk = s.clk ∧ (modTile t f s).plls = s.plls ∧
    (modTile t f s).boot = s.boot ∧ (modTile t f s).flash = s.flash ∧ (modTile t f s).board = s.board ∧ (modTile t f s).kick = s.kick ∧
    (modTile t f s).mgt = s.mgt ∧ (modTile t f s).sec = s.sec ∧ (modTile t f s).pins = s.pins ∧ (modTile t f s).pwr = s.pwr ∧
    (modTile t f s).coll = s.coll ∧ (modTile t f s).solv = s.solv ∧ (modTile t f s).dig = s.dig ∧ (modTile t f s).keys = s.keys ∧
    (modTile t f s).tick = s.tick ∧ (modTile t f s).sent = s.sent ∧ (modTile t f s).freeCount = s.freeCount := by
  refine ⟨rfl, rfl, rfl, rfl, rfl, rfl, rfl, rfl, rfl, rfl, rfl, rfl, rfl, rfl, rfl, rfl, rfl, rfl, rfl, rfl, rfl, rfl, rfl, rfl, rfl, rfl, rfl, rfl, rfl, rfl, rfl, rfl, rfl, rfl, rfl, rfl, rfl, rfl, rfl, rfl, rfl⟩

@[simp] theorem modPart_fields (p : Nat) (f : PartSt → PartSt) (s : State) :
    (modPart p f s).parts = (tabSet {} p (f (part s p)) s.parts) ∧
    (modPart p f s).pending = s.pending ∧ (modPart p f s).regs = s.regs ∧ (modPart p f s).fuses = s.fuses ∧ (modPart p f s).mem = s.mem ∧
    (modPart p f s).ecc = s.ecc ∧ (modPart p f s).tiles = s.tiles ∧ (modPart p f s).bst = s.bst ∧ (modPart p f s).img = s.img ∧
    (modPart p f s).posts = s.posts ∧ (modPart p f s).solder = s.solder ∧ (modPart p f s).spares = s.spares ∧
    (modPart p f s).failedQuads = s.failedQuads ∧ (modPart p f s).err = s.err ∧ (modPart p f s).host = s.host ∧ (modPart p f s).ni = s.ni ∧
    (modPart p f s).doms = s.doms ∧ (modPart p f s).resets = s.resets ∧ (modPart p f s).resetAt = s.resetAt ∧
    (modPart p f s).resetReqs = s.resetReqs ∧ (modPart p f s).heldWakes = s.heldWakes ∧ (modPart p f s).failedStns = s.failedStns ∧
    (modPart p f s).cell = s.cell ∧ (modPart p f s).ports = s.ports ∧ (modPart p f s).clk = s.clk ∧ (modPart p f s).plls = s.plls ∧
    (modPart p f s).boot = s.boot ∧ (modPart p f s).flash = s.flash ∧ (modPart p f s).board = s.board ∧ (modPart p f s).kick = s.kick ∧
    (modPart p f s).mgt = s.mgt ∧ (modPart p f s).sec = s.sec ∧ (modPart p f s).pins = s.pins ∧ (modPart p f s).pwr = s.pwr ∧
    (modPart p f s).coll = s.coll ∧ (modPart p f s).solv = s.solv ∧ (modPart p f s).dig = s.dig ∧ (modPart p f s).keys = s.keys ∧
    (modPart p f s).tick = s.tick ∧ (modPart p f s).sent = s.sent ∧ (modPart p f s).freeCount = s.freeCount := by
  refine ⟨rfl, rfl, rfl, rfl, rfl, rfl, rfl, rfl, rfl, rfl, rfl, rfl, rfl, rfl, rfl, rfl, rfl, rfl, rfl, rfl, rfl, rfl, rfl, rfl, rfl, rfl, rfl, rfl, rfl, rfl, rfl, rfl, rfl, rfl, rfl, rfl, rfl, rfl, rfl, rfl, rfl⟩

@[simp] theorem tickFree_fields (s : State) :
    (tickFree s).freeCount = (s.freeCount + 1) ∧
    (tickFree s).pending = s.pending ∧ (tickFree s).regs = s.regs ∧ (tickFree s).fuses = s.fuses ∧ (tickFree s).mem = s.mem ∧
    (tickFree s).ecc = s.ecc ∧ (tickFree s).tiles = s.tiles ∧ (tickFree s).bst = s.bst ∧ (tickFree s).img = s.img ∧ (tickFree s).parts = s.parts ∧
    (tickFree s).posts = s.posts ∧ (tickFree s).solder = s.solder ∧ (tickFree s).spares = s.spares ∧ (tickFree s).failedQuads = s.failedQuads ∧
    (tickFree s).err = s.err ∧ (tickFree s).host = s.host ∧ (tickFree s).ni = s.ni ∧ (tickFree s).doms = s.doms ∧ (tickFree s).resets = s.resets ∧
    (tickFree s).resetAt = s.resetAt ∧ (tickFree s).resetReqs = s.resetReqs ∧ (tickFree s).heldWakes = s.heldWakes ∧
    (tickFree s).failedStns = s.failedStns ∧ (tickFree s).cell = s.cell ∧ (tickFree s).ports = s.ports ∧ (tickFree s).clk = s.clk ∧
    (tickFree s).plls = s.plls ∧ (tickFree s).boot = s.boot ∧ (tickFree s).flash = s.flash ∧ (tickFree s).board = s.board ∧
    (tickFree s).kick = s.kick ∧ (tickFree s).mgt = s.mgt ∧ (tickFree s).sec = s.sec ∧ (tickFree s).pins = s.pins ∧ (tickFree s).pwr = s.pwr ∧
    (tickFree s).coll = s.coll ∧ (tickFree s).solv = s.solv ∧ (tickFree s).dig = s.dig ∧ (tickFree s).keys = s.keys ∧ (tickFree s).tick = s.tick ∧
    (tickFree s).sent = s.sent := by
  refine ⟨rfl, rfl, rfl, rfl, rfl, rfl, rfl, rfl, rfl, rfl, rfl, rfl, rfl, rfl, rfl, rfl, rfl, rfl, rfl, rfl, rfl, rfl, rfl, rfl, rfl, rfl, rfl, rfl, rfl, rfl, rfl, rfl, rfl, rfl, rfl, rfl, rfl, rfl, rfl, rfl, rfl⟩

@[simp] theorem setByte_fields (a : Nat) (b : Byte) (s : State) :
    (setByte a b s).mem = (tabSet 0 a b s.mem) ∧
    (setByte a b s).pending = s.pending ∧ (setByte a b s).regs = s.regs ∧ (setByte a b s).fuses = s.fuses ∧ (setByte a b s).ecc = s.ecc ∧
    (setByte a b s).tiles = s.tiles ∧ (setByte a b s).bst = s.bst ∧ (setByte a b s).img = s.img ∧ (setByte a b s).parts = s.parts ∧
    (setByte a b s).posts = s.posts ∧ (setByte a b s).solder = s.solder ∧ (setByte a b s).spares = s.spares ∧
    (setByte a b s).failedQuads = s.failedQuads ∧ (setByte a b s).err = s.err ∧ (setByte a b s).host = s.host ∧ (setByte a b s).ni = s.ni ∧
    (setByte a b s).doms = s.doms ∧ (setByte a b s).resets = s.resets ∧ (setByte a b s).resetAt = s.resetAt ∧
    (setByte a b s).resetReqs = s.resetReqs ∧ (setByte a b s).heldWakes = s.heldWakes ∧ (setByte a b s).failedStns = s.failedStns ∧
    (setByte a b s).cell = s.cell ∧ (setByte a b s).ports = s.ports ∧ (setByte a b s).clk = s.clk ∧ (setByte a b s).plls = s.plls ∧
    (setByte a b s).boot = s.boot ∧ (setByte a b s).flash = s.flash ∧ (setByte a b s).board = s.board ∧ (setByte a b s).kick = s.kick ∧
    (setByte a b s).mgt = s.mgt ∧ (setByte a b s).sec = s.sec ∧ (setByte a b s).pins = s.pins ∧ (setByte a b s).pwr = s.pwr ∧
    (setByte a b s).coll = s.coll ∧ (setByte a b s).solv = s.solv ∧ (setByte a b s).dig = s.dig ∧ (setByte a b s).keys = s.keys ∧
    (setByte a b s).tick = s.tick ∧ (setByte a b s).sent = s.sent ∧ (setByte a b s).freeCount = s.freeCount := by
  refine ⟨rfl, rfl, rfl, rfl, rfl, rfl, rfl, rfl, rfl, rfl, rfl, rfl, rfl, rfl, rfl, rfl, rfl, rfl, rfl, rfl, rfl, rfl, rfl, rfl, rfl, rfl, rfl, rfl, rfl, rfl, rfl, rfl, rfl, rfl, rfl, rfl, rfl, rfl, rfl, rfl, rfl⟩

@[simp] theorem cleanWord_fields (w : Nat) (s : State) :
    (cleanWord w s).ecc = (tabDel w s.ecc) ∧
    (cleanWord w s).pending = s.pending ∧ (cleanWord w s).regs = s.regs ∧ (cleanWord w s).fuses = s.fuses ∧ (cleanWord w s).mem = s.mem ∧
    (cleanWord w s).tiles = s.tiles ∧ (cleanWord w s).bst = s.bst ∧ (cleanWord w s).img = s.img ∧ (cleanWord w s).parts = s.parts ∧
    (cleanWord w s).posts = s.posts ∧ (cleanWord w s).solder = s.solder ∧ (cleanWord w s).spares = s.spares ∧
    (cleanWord w s).failedQuads = s.failedQuads ∧ (cleanWord w s).err = s.err ∧ (cleanWord w s).host = s.host ∧ (cleanWord w s).ni = s.ni ∧
    (cleanWord w s).doms = s.doms ∧ (cleanWord w s).resets = s.resets ∧ (cleanWord w s).resetAt = s.resetAt ∧
    (cleanWord w s).resetReqs = s.resetReqs ∧ (cleanWord w s).heldWakes = s.heldWakes ∧ (cleanWord w s).failedStns = s.failedStns ∧
    (cleanWord w s).cell = s.cell ∧ (cleanWord w s).ports = s.ports ∧ (cleanWord w s).clk = s.clk ∧ (cleanWord w s).plls = s.plls ∧
    (cleanWord w s).boot = s.boot ∧ (cleanWord w s).flash = s.flash ∧ (cleanWord w s).board = s.board ∧ (cleanWord w s).kick = s.kick ∧
    (cleanWord w s).mgt = s.mgt ∧ (cleanWord w s).sec = s.sec ∧ (cleanWord w s).pins = s.pins ∧ (cleanWord w s).pwr = s.pwr ∧
    (cleanWord w s).coll = s.coll ∧ (cleanWord w s).solv = s.solv ∧ (cleanWord w s).dig = s.dig ∧ (cleanWord w s).keys = s.keys ∧
    (cleanWord w s).tick = s.tick ∧ (cleanWord w s).sent = s.sent ∧ (cleanWord w s).freeCount = s.freeCount := by
  refine ⟨rfl, rfl, rfl, rfl, rfl, rfl, rfl, rfl, rfl, rfl, rfl, rfl, rfl, rfl, rfl, rfl, rfl, rfl, rfl, rfl, rfl, rfl, rfl, rfl, rfl, rfl, rfl, rfl, rfl, rfl, rfl, rfl, rfl, rfl, rfl, rfl, rfl, rfl, rfl, rfl, rfl⟩

@[simp] theorem markWord_fields (w : Nat) (s : State) :
    (markWord w s).ecc = (tabPut w .marked s.ecc) ∧
    (markWord w s).pending = s.pending ∧ (markWord w s).regs = s.regs ∧ (markWord w s).fuses = s.fuses ∧ (markWord w s).mem = s.mem ∧
    (markWord w s).tiles = s.tiles ∧ (markWord w s).bst = s.bst ∧ (markWord w s).img = s.img ∧ (markWord w s).parts = s.parts ∧
    (markWord w s).posts = s.posts ∧ (markWord w s).solder = s.solder ∧ (markWord w s).spares = s.spares ∧
    (markWord w s).failedQuads = s.failedQuads ∧ (markWord w s).err = s.err ∧ (markWord w s).host = s.host ∧ (markWord w s).ni = s.ni ∧
    (markWord w s).doms = s.doms ∧ (markWord w s).resets = s.resets ∧ (markWord w s).resetAt = s.resetAt ∧ (markWord w s).resetReqs = s.resetReqs ∧
    (markWord w s).heldWakes = s.heldWakes ∧ (markWord w s).failedStns = s.failedStns ∧ (markWord w s).cell = s.cell ∧
    (markWord w s).ports = s.ports ∧ (markWord w s).clk = s.clk ∧ (markWord w s).plls = s.plls ∧ (markWord w s).boot = s.boot ∧
    (markWord w s).flash = s.flash ∧ (markWord w s).board = s.board ∧ (markWord w s).kick = s.kick ∧ (markWord w s).mgt = s.mgt ∧
    (markWord w s).sec = s.sec ∧ (markWord w s).pins = s.pins ∧ (markWord w s).pwr = s.pwr ∧ (markWord w s).coll = s.coll ∧
    (markWord w s).solv = s.solv ∧ (markWord w s).dig = s.dig ∧ (markWord w s).keys = s.keys ∧ (markWord w s).tick = s.tick ∧
    (markWord w s).sent = s.sent ∧ (markWord w s).freeCount = s.freeCount := by
  refine ⟨rfl, rfl, rfl, rfl, rfl, rfl, rfl, rfl, rfl, rfl, rfl, rfl, rfl, rfl, rfl, rfl, rfl, rfl, rfl, rfl, rfl, rfl, rfl, rfl, rfl, rfl, rfl, rfl, rfl, rfl, rfl, rfl, rfl, rfl, rfl, rfl, rfl, rfl, rfl, rfl, rfl⟩

@[simp] theorem modBst_fields (f : BstSt → BstSt) (s : State) :
    (modBst f s).bst = (f s.bst) ∧
    (modBst f s).pending = s.pending ∧ (modBst f s).regs = s.regs ∧ (modBst f s).fuses = s.fuses ∧ (modBst f s).mem = s.mem ∧
    (modBst f s).ecc = s.ecc ∧ (modBst f s).tiles = s.tiles ∧ (modBst f s).img = s.img ∧ (modBst f s).parts = s.parts ∧
    (modBst f s).posts = s.posts ∧ (modBst f s).solder = s.solder ∧ (modBst f s).spares = s.spares ∧ (modBst f s).failedQuads = s.failedQuads ∧
    (modBst f s).err = s.err ∧ (modBst f s).host = s.host ∧ (modBst f s).ni = s.ni ∧ (modBst f s).doms = s.doms ∧ (modBst f s).resets = s.resets ∧
    (modBst f s).resetAt = s.resetAt ∧ (modBst f s).resetReqs = s.resetReqs ∧ (modBst f s).heldWakes = s.heldWakes ∧
    (modBst f s).failedStns = s.failedStns ∧ (modBst f s).cell = s.cell ∧ (modBst f s).ports = s.ports ∧ (modBst f s).clk = s.clk ∧
    (modBst f s).plls = s.plls ∧ (modBst f s).boot = s.boot ∧ (modBst f s).flash = s.flash ∧ (modBst f s).board = s.board ∧
    (modBst f s).kick = s.kick ∧ (modBst f s).mgt = s.mgt ∧ (modBst f s).sec = s.sec ∧ (modBst f s).pins = s.pins ∧ (modBst f s).pwr = s.pwr ∧
    (modBst f s).coll = s.coll ∧ (modBst f s).solv = s.solv ∧ (modBst f s).dig = s.dig ∧ (modBst f s).keys = s.keys ∧ (modBst f s).tick = s.tick ∧
    (modBst f s).sent = s.sent ∧ (modBst f s).freeCount = s.freeCount := by
  refine ⟨rfl, rfl, rfl, rfl, rfl, rfl, rfl, rfl, rfl, rfl, rfl, rfl, rfl, rfl, rfl, rfl, rfl, rfl, rfl, rfl, rfl, rfl, rfl, rfl, rfl, rfl, rfl, rfl, rfl, rfl, rfl, rfl, rfl, rfl, rfl, rfl, rfl, rfl, rfl, rfl, rfl⟩

@[simp] theorem modImg_fields (f : ImgSt → ImgSt) (s : State) :
    (modImg f s).img = (f s.img) ∧
    (modImg f s).pending = s.pending ∧ (modImg f s).regs = s.regs ∧ (modImg f s).fuses = s.fuses ∧ (modImg f s).mem = s.mem ∧
    (modImg f s).ecc = s.ecc ∧ (modImg f s).tiles = s.tiles ∧ (modImg f s).bst = s.bst ∧ (modImg f s).parts = s.parts ∧
    (modImg f s).posts = s.posts ∧ (modImg f s).solder = s.solder ∧ (modImg f s).spares = s.spares ∧ (modImg f s).failedQuads = s.failedQuads ∧
    (modImg f s).err = s.err ∧ (modImg f s).host = s.host ∧ (modImg f s).ni = s.ni ∧ (modImg f s).doms = s.doms ∧ (modImg f s).resets = s.resets ∧
    (modImg f s).resetAt = s.resetAt ∧ (modImg f s).resetReqs = s.resetReqs ∧ (modImg f s).heldWakes = s.heldWakes ∧
    (modImg f s).failedStns = s.failedStns ∧ (modImg f s).cell = s.cell ∧ (modImg f s).ports = s.ports ∧ (modImg f s).clk = s.clk ∧
    (modImg f s).plls = s.plls ∧ (modImg f s).boot = s.boot ∧ (modImg f s).flash = s.flash ∧ (modImg f s).board = s.board ∧
    (modImg f s).kick = s.kick ∧ (modImg f s).mgt = s.mgt ∧ (modImg f s).sec = s.sec ∧ (modImg f s).pins = s.pins ∧ (modImg f s).pwr = s.pwr ∧
    (modImg f s).coll = s.coll ∧ (modImg f s).solv = s.solv ∧ (modImg f s).dig = s.dig ∧ (modImg f s).keys = s.keys ∧ (modImg f s).tick = s.tick ∧
    (modImg f s).sent = s.sent ∧ (modImg f s).freeCount = s.freeCount := by
  refine ⟨rfl, rfl, rfl, rfl, rfl, rfl, rfl, rfl, rfl, rfl, rfl, rfl, rfl, rfl, rfl, rfl, rfl, rfl, rfl, rfl, rfl, rfl, rfl, rfl, rfl, rfl, rfl, rfl, rfl, rfl, rfl, rfl, rfl, rfl, rfl, rfl, rfl, rfl, rfl, rfl, rfl⟩

@[simp] theorem modHost_fields (f : HostSt → HostSt) (s : State) :
    (modHost f s).host = (f s.host) ∧
    (modHost f s).pending = s.pending ∧ (modHost f s).regs = s.regs ∧ (modHost f s).fuses = s.fuses ∧ (modHost f s).mem = s.mem ∧
    (modHost f s).ecc = s.ecc ∧ (modHost f s).tiles = s.tiles ∧ (modHost f s).bst = s.bst ∧ (modHost f s).img = s.img ∧
    (modHost f s).parts = s.parts ∧ (modHost f s).posts = s.posts ∧ (modHost f s).solder = s.solder ∧ (modHost f s).spares = s.spares ∧
    (modHost f s).failedQuads = s.failedQuads ∧ (modHost f s).err = s.err ∧ (modHost f s).ni = s.ni ∧ (modHost f s).doms = s.doms ∧
    (modHost f s).resets = s.resets ∧ (modHost f s).resetAt = s.resetAt ∧ (modHost f s).resetReqs = s.resetReqs ∧
    (modHost f s).heldWakes = s.heldWakes ∧ (modHost f s).failedStns = s.failedStns ∧ (modHost f s).cell = s.cell ∧ (modHost f s).ports = s.ports ∧
    (modHost f s).clk = s.clk ∧ (modHost f s).plls = s.plls ∧ (modHost f s).boot = s.boot ∧ (modHost f s).flash = s.flash ∧
    (modHost f s).board = s.board ∧ (modHost f s).kick = s.kick ∧ (modHost f s).mgt = s.mgt ∧ (modHost f s).sec = s.sec ∧
    (modHost f s).pins = s.pins ∧ (modHost f s).pwr = s.pwr ∧ (modHost f s).coll = s.coll ∧ (modHost f s).solv = s.solv ∧ (modHost f s).dig = s.dig ∧
    (modHost f s).keys = s.keys ∧ (modHost f s).tick = s.tick ∧ (modHost f s).sent = s.sent ∧ (modHost f s).freeCount = s.freeCount := by
  refine ⟨rfl, rfl, rfl, rfl, rfl, rfl, rfl, rfl, rfl, rfl, rfl, rfl, rfl, rfl, rfl, rfl, rfl, rfl, rfl, rfl, rfl, rfl, rfl, rfl, rfl, rfl, rfl, rfl, rfl, rfl, rfl, rfl, rfl, rfl, rfl, rfl, rfl, rfl, rfl, rfl, rfl⟩

@[simp] theorem modCell_fields (f : CellSt → CellSt) (s : State) :
    (modCell f s).cell = (f s.cell) ∧
    (modCell f s).pending = s.pending ∧ (modCell f s).regs = s.regs ∧ (modCell f s).fuses = s.fuses ∧ (modCell f s).mem = s.mem ∧
    (modCell f s).ecc = s.ecc ∧ (modCell f s).tiles = s.tiles ∧ (modCell f s).bst = s.bst ∧ (modCell f s).img = s.img ∧
    (modCell f s).parts = s.parts ∧ (modCell f s).posts = s.posts ∧ (modCell f s).solder = s.solder ∧ (modCell f s).spares = s.spares ∧
    (modCell f s).failedQuads = s.failedQuads ∧ (modCell f s).err = s.err ∧ (modCell f s).host = s.host ∧ (modCell f s).ni = s.ni ∧
    (modCell f s).doms = s.doms ∧ (modCell f s).resets = s.resets ∧ (modCell f s).resetAt = s.resetAt ∧ (modCell f s).resetReqs = s.resetReqs ∧
    (modCell f s).heldWakes = s.heldWakes ∧ (modCell f s).failedStns = s.failedStns ∧ (modCell f s).ports = s.ports ∧ (modCell f s).clk = s.clk ∧
    (modCell f s).plls = s.plls ∧ (modCell f s).boot = s.boot ∧ (modCell f s).flash = s.flash ∧ (modCell f s).board = s.board ∧
    (modCell f s).kick = s.kick ∧ (modCell f s).mgt = s.mgt ∧ (modCell f s).sec = s.sec ∧ (modCell f s).pins = s.pins ∧ (modCell f s).pwr = s.pwr ∧
    (modCell f s).coll = s.coll ∧ (modCell f s).solv = s.solv ∧ (modCell f s).dig = s.dig ∧ (modCell f s).keys = s.keys ∧
    (modCell f s).tick = s.tick ∧ (modCell f s).sent = s.sent ∧ (modCell f s).freeCount = s.freeCount := by
  refine ⟨rfl, rfl, rfl, rfl, rfl, rfl, rfl, rfl, rfl, rfl, rfl, rfl, rfl, rfl, rfl, rfl, rfl, rfl, rfl, rfl, rfl, rfl, rfl, rfl, rfl, rfl, rfl, rfl, rfl, rfl, rfl, rfl, rfl, rfl, rfl, rfl, rfl, rfl, rfl, rfl, rfl⟩

@[simp] theorem modMgt_fields (f : MgtSt → MgtSt) (s : State) :
    (modMgt f s).mgt = (f s.mgt) ∧
    (modMgt f s).pending = s.pending ∧ (modMgt f s).regs = s.regs ∧ (modMgt f s).fuses = s.fuses ∧ (modMgt f s).mem = s.mem ∧
    (modMgt f s).ecc = s.ecc ∧ (modMgt f s).tiles = s.tiles ∧ (modMgt f s).bst = s.bst ∧ (modMgt f s).img = s.img ∧ (modMgt f s).parts = s.parts ∧
    (modMgt f s).posts = s.posts ∧ (modMgt f s).solder = s.solder ∧ (modMgt f s).spares = s.spares ∧ (modMgt f s).failedQuads = s.failedQuads ∧
    (modMgt f s).err = s.err ∧ (modMgt f s).host = s.host ∧ (modMgt f s).ni = s.ni ∧ (modMgt f s).doms = s.doms ∧ (modMgt f s).resets = s.resets ∧
    (modMgt f s).resetAt = s.resetAt ∧ (modMgt f s).resetReqs = s.resetReqs ∧ (modMgt f s).heldWakes = s.heldWakes ∧
    (modMgt f s).failedStns = s.failedStns ∧ (modMgt f s).cell = s.cell ∧ (modMgt f s).ports = s.ports ∧ (modMgt f s).clk = s.clk ∧
    (modMgt f s).plls = s.plls ∧ (modMgt f s).boot = s.boot ∧ (modMgt f s).flash = s.flash ∧ (modMgt f s).board = s.board ∧
    (modMgt f s).kick = s.kick ∧ (modMgt f s).sec = s.sec ∧ (modMgt f s).pins = s.pins ∧ (modMgt f s).pwr = s.pwr ∧ (modMgt f s).coll = s.coll ∧
    (modMgt f s).solv = s.solv ∧ (modMgt f s).dig = s.dig ∧ (modMgt f s).keys = s.keys ∧ (modMgt f s).tick = s.tick ∧ (modMgt f s).sent = s.sent ∧
    (modMgt f s).freeCount = s.freeCount := by
  refine ⟨rfl, rfl, rfl, rfl, rfl, rfl, rfl, rfl, rfl, rfl, rfl, rfl, rfl, rfl, rfl, rfl, rfl, rfl, rfl, rfl, rfl, rfl, rfl, rfl, rfl, rfl, rfl, rfl, rfl, rfl, rfl, rfl, rfl, rfl, rfl, rfl, rfl, rfl, rfl, rfl, rfl⟩

@[simp] theorem modPwr_fields (f : PwrSt → PwrSt) (s : State) :
    (modPwr f s).pwr = (f s.pwr) ∧
    (modPwr f s).pending = s.pending ∧ (modPwr f s).regs = s.regs ∧ (modPwr f s).fuses = s.fuses ∧ (modPwr f s).mem = s.mem ∧
    (modPwr f s).ecc = s.ecc ∧ (modPwr f s).tiles = s.tiles ∧ (modPwr f s).bst = s.bst ∧ (modPwr f s).img = s.img ∧ (modPwr f s).parts = s.parts ∧
    (modPwr f s).posts = s.posts ∧ (modPwr f s).solder = s.solder ∧ (modPwr f s).spares = s.spares ∧ (modPwr f s).failedQuads = s.failedQuads ∧
    (modPwr f s).err = s.err ∧ (modPwr f s).host = s.host ∧ (modPwr f s).ni = s.ni ∧ (modPwr f s).doms = s.doms ∧ (modPwr f s).resets = s.resets ∧
    (modPwr f s).resetAt = s.resetAt ∧ (modPwr f s).resetReqs = s.resetReqs ∧ (modPwr f s).heldWakes = s.heldWakes ∧
    (modPwr f s).failedStns = s.failedStns ∧ (modPwr f s).cell = s.cell ∧ (modPwr f s).ports = s.ports ∧ (modPwr f s).clk = s.clk ∧
    (modPwr f s).plls = s.plls ∧ (modPwr f s).boot = s.boot ∧ (modPwr f s).flash = s.flash ∧ (modPwr f s).board = s.board ∧
    (modPwr f s).kick = s.kick ∧ (modPwr f s).mgt = s.mgt ∧ (modPwr f s).sec = s.sec ∧ (modPwr f s).pins = s.pins ∧ (modPwr f s).coll = s.coll ∧
    (modPwr f s).solv = s.solv ∧ (modPwr f s).dig = s.dig ∧ (modPwr f s).keys = s.keys ∧ (modPwr f s).tick = s.tick ∧ (modPwr f s).sent = s.sent ∧
    (modPwr f s).freeCount = s.freeCount := by
  refine ⟨rfl, rfl, rfl, rfl, rfl, rfl, rfl, rfl, rfl, rfl, rfl, rfl, rfl, rfl, rfl, rfl, rfl, rfl, rfl, rfl, rfl, rfl, rfl, rfl, rfl, rfl, rfl, rfl, rfl, rfl, rfl, rfl, rfl, rfl, rfl, rfl, rfl, rfl, rfl, rfl, rfl⟩

@[simp] theorem modDom_fields (n : Nat) (f : DomSt → DomSt) (s : State) :
    (modDom n f s).doms = (tabSet {} n (f (tabGet {} n s.doms)) s.doms) ∧
    (modDom n f s).pending = s.pending ∧ (modDom n f s).regs = s.regs ∧ (modDom n f s).fuses = s.fuses ∧ (modDom n f s).mem = s.mem ∧
    (modDom n f s).ecc = s.ecc ∧ (modDom n f s).tiles = s.tiles ∧ (modDom n f s).bst = s.bst ∧ (modDom n f s).img = s.img ∧
    (modDom n f s).parts = s.parts ∧ (modDom n f s).posts = s.posts ∧ (modDom n f s).solder = s.solder ∧ (modDom n f s).spares = s.spares ∧
    (modDom n f s).failedQuads = s.failedQuads ∧ (modDom n f s).err = s.err ∧ (modDom n f s).host = s.host ∧ (modDom n f s).ni = s.ni ∧
    (modDom n f s).resets = s.resets ∧ (modDom n f s).resetAt = s.resetAt ∧ (modDom n f s).resetReqs = s.resetReqs ∧
    (modDom n f s).heldWakes = s.heldWakes ∧ (modDom n f s).failedStns = s.failedStns ∧ (modDom n f s).cell = s.cell ∧
    (modDom n f s).ports = s.ports ∧ (modDom n f s).clk = s.clk ∧ (modDom n f s).plls = s.plls ∧ (modDom n f s).boot = s.boot ∧
    (modDom n f s).flash = s.flash ∧ (modDom n f s).board = s.board ∧ (modDom n f s).kick = s.kick ∧ (modDom n f s).mgt = s.mgt ∧
    (modDom n f s).sec = s.sec ∧ (modDom n f s).pins = s.pins ∧ (modDom n f s).pwr = s.pwr ∧ (modDom n f s).coll = s.coll ∧
    (modDom n f s).solv = s.solv ∧ (modDom n f s).dig = s.dig ∧ (modDom n f s).keys = s.keys ∧ (modDom n f s).tick = s.tick ∧
    (modDom n f s).sent = s.sent ∧ (modDom n f s).freeCount = s.freeCount := by
  refine ⟨rfl, rfl, rfl, rfl, rfl, rfl, rfl, rfl, rfl, rfl, rfl, rfl, rfl, rfl, rfl, rfl, rfl, rfl, rfl, rfl, rfl, rfl, rfl, rfl, rfl, rfl, rfl, rfl, rfl, rfl, rfl, rfl, rfl, rfl, rfl, rfl, rfl, rfl, rfl, rfl, rfl⟩

@[simp] theorem modNi_fields (n : Nat) (f : NiSt → NiSt) (s : State) :
    (modNi n f s).ni = (tabSet {} n (f (niOf s n)) s.ni) ∧
    (modNi n f s).pending = s.pending ∧ (modNi n f s).regs = s.regs ∧ (modNi n f s).fuses = s.fuses ∧ (modNi n f s).mem = s.mem ∧
    (modNi n f s).ecc = s.ecc ∧ (modNi n f s).tiles = s.tiles ∧ (modNi n f s).bst = s.bst ∧ (modNi n f s).img = s.img ∧
    (modNi n f s).parts = s.parts ∧ (modNi n f s).posts = s.posts ∧ (modNi n f s).solder = s.solder ∧ (modNi n f s).spares = s.spares ∧
    (modNi n f s).failedQuads = s.failedQuads ∧ (modNi n f s).err = s.err ∧ (modNi n f s).host = s.host ∧ (modNi n f s).doms = s.doms ∧
    (modNi n f s).resets = s.resets ∧ (modNi n f s).resetAt = s.resetAt ∧ (modNi n f s).resetReqs = s.resetReqs ∧
    (modNi n f s).heldWakes = s.heldWakes ∧ (modNi n f s).failedStns = s.failedStns ∧ (modNi n f s).cell = s.cell ∧ (modNi n f s).ports = s.ports ∧
    (modNi n f s).clk = s.clk ∧ (modNi n f s).plls = s.plls ∧ (modNi n f s).boot = s.boot ∧ (modNi n f s).flash = s.flash ∧
    (modNi n f s).board = s.board ∧ (modNi n f s).kick = s.kick ∧ (modNi n f s).mgt = s.mgt ∧ (modNi n f s).sec = s.sec ∧
    (modNi n f s).pins = s.pins ∧ (modNi n f s).pwr = s.pwr ∧ (modNi n f s).coll = s.coll ∧ (modNi n f s).solv = s.solv ∧ (modNi n f s).dig = s.dig ∧
    (modNi n f s).keys = s.keys ∧ (modNi n f s).tick = s.tick ∧ (modNi n f s).sent = s.sent ∧ (modNi n f s).freeCount = s.freeCount := by
  refine ⟨rfl, rfl, rfl, rfl, rfl, rfl, rfl, rfl, rfl, rfl, rfl, rfl, rfl, rfl, rfl, rfl, rfl, rfl, rfl, rfl, rfl, rfl, rfl, rfl, rfl, rfl, rfl, rfl, rfl, rfl, rfl, rfl, rfl, rfl, rfl, rfl, rfl, rfl, rfl, rfl, rfl⟩

@[simp] theorem modPort_fields (n : Nat) (f : PortSt → PortSt) (s : State) :
    (modPort n f s).ports = (tabSet {} n (f (port s n)) s.ports) ∧
    (modPort n f s).pending = s.pending ∧ (modPort n f s).regs = s.regs ∧ (modPort n f s).fuses = s.fuses ∧ (modPort n f s).mem = s.mem ∧
    (modPort n f s).ecc = s.ecc ∧ (modPort n f s).tiles = s.tiles ∧ (modPort n f s).bst = s.bst ∧ (modPort n f s).img = s.img ∧
    (modPort n f s).parts = s.parts ∧ (modPort n f s).posts = s.posts ∧ (modPort n f s).solder = s.solder ∧ (modPort n f s).spares = s.spares ∧
    (modPort n f s).failedQuads = s.failedQuads ∧ (modPort n f s).err = s.err ∧ (modPort n f s).host = s.host ∧ (modPort n f s).ni = s.ni ∧
    (modPort n f s).doms = s.doms ∧ (modPort n f s).resets = s.resets ∧ (modPort n f s).resetAt = s.resetAt ∧
    (modPort n f s).resetReqs = s.resetReqs ∧ (modPort n f s).heldWakes = s.heldWakes ∧ (modPort n f s).failedStns = s.failedStns ∧
    (modPort n f s).cell = s.cell ∧ (modPort n f s).clk = s.clk ∧ (modPort n f s).plls = s.plls ∧ (modPort n f s).boot = s.boot ∧
    (modPort n f s).flash = s.flash ∧ (modPort n f s).board = s.board ∧ (modPort n f s).kick = s.kick ∧ (modPort n f s).mgt = s.mgt ∧
    (modPort n f s).sec = s.sec ∧ (modPort n f s).pins = s.pins ∧ (modPort n f s).pwr = s.pwr ∧ (modPort n f s).coll = s.coll ∧
    (modPort n f s).solv = s.solv ∧ (modPort n f s).dig = s.dig ∧ (modPort n f s).keys = s.keys ∧ (modPort n f s).tick = s.tick ∧
    (modPort n f s).sent = s.sent ∧ (modPort n f s).freeCount = s.freeCount := by
  refine ⟨rfl, rfl, rfl, rfl, rfl, rfl, rfl, rfl, rfl, rfl, rfl, rfl, rfl, rfl, rfl, rfl, rfl, rfl, rfl, rfl, rfl, rfl, rfl, rfl, rfl, rfl, rfl, rfl, rfl, rfl, rfl, rfl, rfl, rfl, rfl, rfl, rfl, rfl, rfl, rfl, rfl⟩

@[simp] theorem modSolv_fields (d : Nat) (f : SolvSt → SolvSt) (s : State) :
    (modSolv d f s).solv = (tabSet {} d (f (solvOf s d)) s.solv) ∧
    (modSolv d f s).pending = s.pending ∧ (modSolv d f s).regs = s.regs ∧ (modSolv d f s).fuses = s.fuses ∧ (modSolv d f s).mem = s.mem ∧
    (modSolv d f s).ecc = s.ecc ∧ (modSolv d f s).tiles = s.tiles ∧ (modSolv d f s).bst = s.bst ∧ (modSolv d f s).img = s.img ∧
    (modSolv d f s).parts = s.parts ∧ (modSolv d f s).posts = s.posts ∧ (modSolv d f s).solder = s.solder ∧ (modSolv d f s).spares = s.spares ∧
    (modSolv d f s).failedQuads = s.failedQuads ∧ (modSolv d f s).err = s.err ∧ (modSolv d f s).host = s.host ∧ (modSolv d f s).ni = s.ni ∧
    (modSolv d f s).doms = s.doms ∧ (modSolv d f s).resets = s.resets ∧ (modSolv d f s).resetAt = s.resetAt ∧
    (modSolv d f s).resetReqs = s.resetReqs ∧ (modSolv d f s).heldWakes = s.heldWakes ∧ (modSolv d f s).failedStns = s.failedStns ∧
    (modSolv d f s).cell = s.cell ∧ (modSolv d f s).ports = s.ports ∧ (modSolv d f s).clk = s.clk ∧ (modSolv d f s).plls = s.plls ∧
    (modSolv d f s).boot = s.boot ∧ (modSolv d f s).flash = s.flash ∧ (modSolv d f s).board = s.board ∧ (modSolv d f s).kick = s.kick ∧
    (modSolv d f s).mgt = s.mgt ∧ (modSolv d f s).sec = s.sec ∧ (modSolv d f s).pins = s.pins ∧ (modSolv d f s).pwr = s.pwr ∧
    (modSolv d f s).coll = s.coll ∧ (modSolv d f s).dig = s.dig ∧ (modSolv d f s).keys = s.keys ∧ (modSolv d f s).tick = s.tick ∧
    (modSolv d f s).sent = s.sent ∧ (modSolv d f s).freeCount = s.freeCount := by
  refine ⟨rfl, rfl, rfl, rfl, rfl, rfl, rfl, rfl, rfl, rfl, rfl, rfl, rfl, rfl, rfl, rfl, rfl, rfl, rfl, rfl, rfl, rfl, rfl, rfl, rfl, rfl, rfl, rfl, rfl, rfl, rfl, rfl, rfl, rfl, rfl, rfl, rfl, rfl, rfl, rfl, rfl⟩

@[simp] theorem mgmtReply_fields (k : Nat) (b : List Byte) (s : State) :
    (mgmtReply k b s).sent = (.mgmt k b :: s.sent) ∧
    (mgmtReply k b s).pending = s.pending ∧ (mgmtReply k b s).regs = s.regs ∧ (mgmtReply k b s).fuses = s.fuses ∧ (mgmtReply k b s).mem = s.mem ∧
    (mgmtReply k b s).ecc = s.ecc ∧ (mgmtReply k b s).tiles = s.tiles ∧ (mgmtReply k b s).bst = s.bst ∧ (mgmtReply k b s).img = s.img ∧
    (mgmtReply k b s).parts = s.parts ∧ (mgmtReply k b s).posts = s.posts ∧ (mgmtReply k b s).solder = s.solder ∧
    (mgmtReply k b s).spares = s.spares ∧ (mgmtReply k b s).failedQuads = s.failedQuads ∧ (mgmtReply k b s).err = s.err ∧
    (mgmtReply k b s).host = s.host ∧ (mgmtReply k b s).ni = s.ni ∧ (mgmtReply k b s).doms = s.doms ∧ (mgmtReply k b s).resets = s.resets ∧
    (mgmtReply k b s).resetAt = s.resetAt ∧ (mgmtReply k b s).resetReqs = s.resetReqs ∧ (mgmtReply k b s).heldWakes = s.heldWakes ∧
    (mgmtReply k b s).failedStns = s.failedStns ∧ (mgmtReply k b s).cell = s.cell ∧ (mgmtReply k b s).ports = s.ports ∧
    (mgmtReply k b s).clk = s.clk ∧ (mgmtReply k b s).plls = s.plls ∧ (mgmtReply k b s).boot = s.boot ∧ (mgmtReply k b s).flash = s.flash ∧
    (mgmtReply k b s).board = s.board ∧ (mgmtReply k b s).kick = s.kick ∧ (mgmtReply k b s).mgt = s.mgt ∧ (mgmtReply k b s).sec = s.sec ∧
    (mgmtReply k b s).pins = s.pins ∧ (mgmtReply k b s).pwr = s.pwr ∧ (mgmtReply k b s).coll = s.coll ∧ (mgmtReply k b s).solv = s.solv ∧
    (mgmtReply k b s).dig = s.dig ∧ (mgmtReply k b s).keys = s.keys ∧ (mgmtReply k b s).tick = s.tick ∧
    (mgmtReply k b s).freeCount = s.freeCount := by
  refine ⟨rfl, rfl, rfl, rfl, rfl, rfl, rfl, rfl, rfl, rfl, rfl, rfl, rfl, rfl, rfl, rfl, rfl, rfl, rfl, rfl, rfl, rfl, rfl, rfl, rfl, rfl, rfl, rfl, rfl, rfl, rfl, rfl, rfl, rfl, rfl, rfl, rfl, rfl, rfl, rfl, rfl⟩

@[simp] theorem clearAllOp_fields (s : State) :
    (clearAllOp s).err = ({ log := [], head := (s.err.head + s.err.log.length) % 256 }) ∧
    (clearAllOp s).pending = s.pending ∧ (clearAllOp s).regs = s.regs ∧ (clearAllOp s).fuses = s.fuses ∧ (clearAllOp s).mem = s.mem ∧
    (clearAllOp s).ecc = s.ecc ∧ (clearAllOp s).tiles = s.tiles ∧ (clearAllOp s).bst = s.bst ∧ (clearAllOp s).img = s.img ∧
    (clearAllOp s).parts = s.parts ∧ (clearAllOp s).posts = s.posts ∧ (clearAllOp s).solder = s.solder ∧ (clearAllOp s).spares = s.spares ∧
    (clearAllOp s).failedQuads = s.failedQuads ∧ (clearAllOp s).host = s.host ∧ (clearAllOp s).ni = s.ni ∧ (clearAllOp s).doms = s.doms ∧
    (clearAllOp s).resets = s.resets ∧ (clearAllOp s).resetAt = s.resetAt ∧ (clearAllOp s).resetReqs = s.resetReqs ∧
    (clearAllOp s).heldWakes = s.heldWakes ∧ (clearAllOp s).failedStns = s.failedStns ∧ (clearAllOp s).cell = s.cell ∧
    (clearAllOp s).ports = s.ports ∧ (clearAllOp s).clk = s.clk ∧ (clearAllOp s).plls = s.plls ∧ (clearAllOp s).boot = s.boot ∧
    (clearAllOp s).flash = s.flash ∧ (clearAllOp s).board = s.board ∧ (clearAllOp s).kick = s.kick ∧ (clearAllOp s).mgt = s.mgt ∧
    (clearAllOp s).sec = s.sec ∧ (clearAllOp s).pins = s.pins ∧ (clearAllOp s).pwr = s.pwr ∧ (clearAllOp s).coll = s.coll ∧
    (clearAllOp s).solv = s.solv ∧ (clearAllOp s).dig = s.dig ∧ (clearAllOp s).keys = s.keys ∧ (clearAllOp s).tick = s.tick ∧
    (clearAllOp s).sent = s.sent ∧ (clearAllOp s).freeCount = s.freeCount := by
  refine ⟨rfl, rfl, rfl, rfl, rfl, rfl, rfl, rfl, rfl, rfl, rfl, rfl, rfl, rfl, rfl, rfl, rfl, rfl, rfl, rfl, rfl, rfl, rfl, rfl, rfl, rfl, rfl, rfl, rfl, rfl, rfl, rfl, rfl, rfl, rfl, rfl, rfl, rfl, rfl, rfl, rfl⟩

/-! ### Reads after an update -/

@[simp] theorem reg_frame (o : Nat) (s : State) :
    (∀ (t : Nat) (f : TileSt → TileSt), reg (modTile t f s) o = reg s o) ∧
    (∀ (p : Nat) (f : PartSt → PartSt), reg (modPart p f s) o = reg s o) ∧
    (reg (tickFree s) o = reg s o) ∧
    (∀ (a : Nat) (b : Byte), reg (setByte a b s) o = reg s o) ∧
    (∀ (w : Nat), reg (cleanWord w s) o = reg s o) ∧
    (∀ (w : Nat), reg (markWord w s) o = reg s o) ∧
    (∀ (f : BstSt → BstSt), reg (modBst f s) o = reg s o) ∧
    (∀ (f : ImgSt → ImgSt), reg (modImg f s) o = reg s o) ∧
    (∀ (f : HostSt → HostSt), reg (modHost f s) o = reg s o) ∧
    (∀ (f : CellSt → CellSt), reg (modCell f s) o = reg s o) ∧
    (∀ (f : MgtSt → MgtSt), reg (modMgt f s) o = reg s o) ∧
    (∀ (f : PwrSt → PwrSt), reg (modPwr f s) o = reg s o) ∧
    (∀ (n : Nat) (f : DomSt → DomSt), reg (modDom n f s) o = reg s o) ∧
    (∀ (n : Nat) (f : NiSt → NiSt), reg (modNi n f s) o = reg s o) ∧
    (∀ (n : Nat) (f : PortSt → PortSt), reg (modPort n f s) o = reg s o) ∧
    (∀ (d : Nat) (f : SolvSt → SolvSt), reg (modSolv d f s) o = reg s o) ∧
    (∀ (k : Nat) (b : List Byte), reg (mgmtReply k b s) o = reg s o) ∧
    (reg (clearAllOp s) o = reg s o) := by
  refine ⟨by intros; rfl, by intros; rfl, rfl, by intros; rfl, by intros; rfl, by intros; rfl, by intros; rfl, by intros; rfl, by intros; rfl, by intros; rfl, by intros; rfl, by intros; rfl, by intros; rfl, by intros; rfl, by intros; rfl, by intros; rfl, by intros; rfl, rfl⟩

@[simp] theorem tile_frame (u : Nat) (s : State) :
    (∀ (off : Nat) (v : Word), tile (setReg off v s) u = tile s u) ∧
    (∀ (lo hi : Nat), tile (clearRegs lo hi s) u = tile s u) ∧
    (∀ (p : Nat) (f : PartSt → PartSt), tile (modPart p f s) u = tile s u) ∧
    (tile (tickFree s) u = tile s u) ∧
    (∀ (a : Nat) (b : Byte), tile (setByte a b s) u = tile s u) ∧
    (∀ (w : Nat), tile (cleanWord w s) u = tile s u) ∧
    (∀ (w : Nat), tile (markWord w s) u = tile s u) ∧
    (∀ (f : BstSt → BstSt), tile (modBst f s) u = tile s u) ∧
    (∀ (f : ImgSt → ImgSt), tile (modImg f s) u = tile s u) ∧
    (∀ (f : HostSt → HostSt), tile (modHost f s) u = tile s u) ∧
    (∀ (f : CellSt → CellSt), tile (modCell f s) u = tile s u) ∧
    (∀ (f : MgtSt → MgtSt), tile (modMgt f s) u = tile s u) ∧
    (∀ (f : PwrSt → PwrSt), tile (modPwr f s) u = tile s u) ∧
    (∀ (n : Nat) (f : DomSt → DomSt), tile (modDom n f s) u = tile s u) ∧
    (∀ (n : Nat) (f : NiSt → NiSt), tile (modNi n f s) u = tile s u) ∧
    (∀ (n : Nat) (f : PortSt → PortSt), tile (modPort n f s) u = tile s u) ∧
    (∀ (d : Nat) (f : SolvSt → SolvSt), tile (modSolv d f s) u = tile s u) ∧
    (∀ (k : Nat) (b : List Byte), tile (mgmtReply k b s) u = tile s u) ∧
    (tile (clearAllOp s) u = tile s u) := by
  refine ⟨by intros; rfl, by intros; rfl, by intros; rfl, rfl, by intros; rfl, by intros; rfl, by intros; rfl, by intros; rfl, by intros; rfl, by intros; rfl, by intros; rfl, by intros; rfl, by intros; rfl, by intros; rfl, by intros; rfl, by intros; rfl, by intros; rfl, by intros; rfl, rfl⟩

@[simp] theorem core_frame (u : Nat) (s : State) :
    (∀ (off : Nat) (v : Word), core (setReg off v s) u = core s u) ∧
    (∀ (lo hi : Nat), core (clearRegs lo hi s) u = core s u) ∧
    (∀ (p : Nat) (f : PartSt → PartSt), core (modPart p f s) u = core s u) ∧
    (core (tickFree s) u = core s u) ∧
    (∀ (a : Nat) (b : Byte), core (setByte a b s) u = core s u) ∧
    (∀ (w : Nat), core (cleanWord w s) u = core s u) ∧
    (∀ (w : Nat), core (markWord w s) u = core s u) ∧
    (∀ (f : BstSt → BstSt), core (modBst f s) u = core s u) ∧
    (∀ (f : ImgSt → ImgSt), core (modImg f s) u = core s u) ∧
    (∀ (f : HostSt → HostSt), core (modHost f s) u = core s u) ∧
    (∀ (f : CellSt → CellSt), core (modCell f s) u = core s u) ∧
    (∀ (f : MgtSt → MgtSt), core (modMgt f s) u = core s u) ∧
    (∀ (f : PwrSt → PwrSt), core (modPwr f s) u = core s u) ∧
    (∀ (n : Nat) (f : DomSt → DomSt), core (modDom n f s) u = core s u) ∧
    (∀ (n : Nat) (f : NiSt → NiSt), core (modNi n f s) u = core s u) ∧
    (∀ (n : Nat) (f : PortSt → PortSt), core (modPort n f s) u = core s u) ∧
    (∀ (d : Nat) (f : SolvSt → SolvSt), core (modSolv d f s) u = core s u) ∧
    (∀ (k : Nat) (b : List Byte), core (mgmtReply k b s) u = core s u) ∧
    (core (clearAllOp s) u = core s u) := by
  refine ⟨by intros; rfl, by intros; rfl, by intros; rfl, rfl, by intros; rfl, by intros; rfl, by intros; rfl, by intros; rfl, by intros; rfl, by intros; rfl, by intros; rfl, by intros; rfl, by intros; rfl, by intros; rfl, by intros; rfl, by intros; rfl, by intros; rfl, by intros; rfl, rfl⟩

@[simp] theorem part_frame (q : Nat) (s : State) :
    (∀ (off : Nat) (v : Word), part (setReg off v s) q = part s q) ∧
    (∀ (lo hi : Nat), part (clearRegs lo hi s) q = part s q) ∧
    (∀ (t : Nat) (f : TileSt → TileSt), part (modTile t f s) q = part s q) ∧
    (part (tickFree s) q = part s q) ∧
    (∀ (a : Nat) (b : Byte), part (setByte a b s) q = part s q) ∧
    (∀ (w : Nat), part (cleanWord w s) q = part s q) ∧
    (∀ (w : Nat), part (markWord w s) q = part s q) ∧
    (∀ (f : BstSt → BstSt), part (modBst f s) q = part s q) ∧
    (∀ (f : ImgSt → ImgSt), part (modImg f s) q = part s q) ∧
    (∀ (f : HostSt → HostSt), part (modHost f s) q = part s q) ∧
    (∀ (f : CellSt → CellSt), part (modCell f s) q = part s q) ∧
    (∀ (f : MgtSt → MgtSt), part (modMgt f s) q = part s q) ∧
    (∀ (f : PwrSt → PwrSt), part (modPwr f s) q = part s q) ∧
    (∀ (n : Nat) (f : DomSt → DomSt), part (modDom n f s) q = part s q) ∧
    (∀ (n : Nat) (f : NiSt → NiSt), part (modNi n f s) q = part s q) ∧
    (∀ (n : Nat) (f : PortSt → PortSt), part (modPort n f s) q = part s q) ∧
    (∀ (d : Nat) (f : SolvSt → SolvSt), part (modSolv d f s) q = part s q) ∧
    (∀ (k : Nat) (b : List Byte), part (mgmtReply k b s) q = part s q) ∧
    (part (clearAllOp s) q = part s q) := by
  refine ⟨by intros; rfl, by intros; rfl, by intros; rfl, rfl, by intros; rfl, by intros; rfl, by intros; rfl, by intros; rfl, by intros; rfl, by intros; rfl, by intros; rfl, by intros; rfl, by intros; rfl, by intros; rfl, by intros; rfl, by intros; rfl, by intros; rfl, by intros; rfl, rfl⟩

@[simp] theorem ownerOf_frame (u : Nat) (s : State) :
    (∀ (off : Nat) (v : Word), ownerOf (setReg off v s) u = ownerOf s u) ∧
    (∀ (lo hi : Nat), ownerOf (clearRegs lo hi s) u = ownerOf s u) ∧
    (∀ (t : Nat) (f : TileSt → TileSt), ownerOf (modTile t f s) u = ownerOf s u) ∧
    (ownerOf (tickFree s) u = ownerOf s u) ∧
    (∀ (a : Nat) (b : Byte), ownerOf (setByte a b s) u = ownerOf s u) ∧
    (∀ (w : Nat), ownerOf (cleanWord w s) u = ownerOf s u) ∧
    (∀ (w : Nat), ownerOf (markWord w s) u = ownerOf s u) ∧
    (∀ (f : BstSt → BstSt), ownerOf (modBst f s) u = ownerOf s u) ∧
    (∀ (f : ImgSt → ImgSt), ownerOf (modImg f s) u = ownerOf s u) ∧
    (∀ (f : HostSt → HostSt), ownerOf (modHost f s) u = ownerOf s u) ∧
    (∀ (f : CellSt → CellSt), ownerOf (modCell f s) u = ownerOf s u) ∧
    (∀ (f : MgtSt → MgtSt), ownerOf (modMgt f s) u = ownerOf s u) ∧
    (∀ (f : PwrSt → PwrSt), ownerOf (modPwr f s) u = ownerOf s u) ∧
    (∀ (n : Nat) (f : DomSt → DomSt), ownerOf (modDom n f s) u = ownerOf s u) ∧
    (∀ (n : Nat) (f : NiSt → NiSt), ownerOf (modNi n f s) u = ownerOf s u) ∧
    (∀ (n : Nat) (f : PortSt → PortSt), ownerOf (modPort n f s) u = ownerOf s u) ∧
    (∀ (d : Nat) (f : SolvSt → SolvSt), ownerOf (modSolv d f s) u = ownerOf s u) ∧
    (∀ (k : Nat) (b : List Byte), ownerOf (mgmtReply k b s) u = ownerOf s u) ∧
    (ownerOf (clearAllOp s) u = ownerOf s u) := by
  refine ⟨by intros; rfl, by intros; rfl, by intros; rfl, rfl, by intros; rfl, by intros; rfl, by intros; rfl, by intros; rfl, by intros; rfl, by intros; rfl, by intros; rfl, by intros; rfl, by intros; rfl, by intros; rfl, by intros; rfl, by intros; rfl, by intros; rfl, by intros; rfl, rfl⟩

@[simp] theorem memByte_frame (a0 : Nat) (s : State) :
    (∀ (off : Nat) (v : Word), memByte (setReg off v s) a0 = memByte s a0) ∧
    (∀ (lo hi : Nat), memByte (clearRegs lo hi s) a0 = memByte s a0) ∧
    (∀ (t : Nat) (f : TileSt → TileSt), memByte (modTile t f s) a0 = memByte s a0) ∧
    (∀ (p : Nat) (f : PartSt → PartSt), memByte (modPart p f s) a0 = memByte s a0) ∧
    (memByte (tickFree s) a0 = memByte s a0) ∧
    (∀ (w : Nat), memByte (cleanWord w s) a0 = memByte s a0) ∧
    (∀ (w : Nat), memByte (markWord w s) a0 = memByte s a0) ∧
    (∀ (f : BstSt → BstSt), memByte (modBst f s) a0 = memByte s a0) ∧
    (∀ (f : ImgSt → ImgSt), memByte (modImg f s) a0 = memByte s a0) ∧
    (∀ (f : HostSt → HostSt), memByte (modHost f s) a0 = memByte s a0) ∧
    (∀ (f : CellSt → CellSt), memByte (modCell f s) a0 = memByte s a0) ∧
    (∀ (f : MgtSt → MgtSt), memByte (modMgt f s) a0 = memByte s a0) ∧
    (∀ (f : PwrSt → PwrSt), memByte (modPwr f s) a0 = memByte s a0) ∧
    (∀ (n : Nat) (f : DomSt → DomSt), memByte (modDom n f s) a0 = memByte s a0) ∧
    (∀ (n : Nat) (f : NiSt → NiSt), memByte (modNi n f s) a0 = memByte s a0) ∧
    (∀ (n : Nat) (f : PortSt → PortSt), memByte (modPort n f s) a0 = memByte s a0) ∧
    (∀ (d : Nat) (f : SolvSt → SolvSt), memByte (modSolv d f s) a0 = memByte s a0) ∧
    (∀ (k : Nat) (b : List Byte), memByte (mgmtReply k b s) a0 = memByte s a0) ∧
    (memByte (clearAllOp s) a0 = memByte s a0) := by
  refine ⟨by intros; rfl, by intros; rfl, by intros; rfl, by intros; rfl, rfl, by intros; rfl, by intros; rfl, by intros; rfl, by intros; rfl, by intros; rfl, by intros; rfl, by intros; rfl, by intros; rfl, by intros; rfl, by intros; rfl, by intros; rfl, by intros; rfl, by intros; rfl, rfl⟩

@[simp] theorem eccOf_frame (w0 : Nat) (s : State) :
    (∀ (off : Nat) (v : Word), eccOf (setReg off v s) w0 = eccOf s w0) ∧
    (∀ (lo hi : Nat), eccOf (clearRegs lo hi s) w0 = eccOf s w0) ∧
    (∀ (t : Nat) (f : TileSt → TileSt), eccOf (modTile t f s) w0 = eccOf s w0) ∧
    (∀ (p : Nat) (f : PartSt → PartSt), eccOf (modPart p f s) w0 = eccOf s w0) ∧
    (eccOf (tickFree s) w0 = eccOf s w0) ∧
    (∀ (a : Nat) (b : Byte), eccOf (setByte a b s) w0 = eccOf s w0) ∧
    (∀ (f : BstSt → BstSt), eccOf (modBst f s) w0 = eccOf s w0) ∧
    (∀ (f : ImgSt → ImgSt), eccOf (modImg f s) w0 = eccOf s w0) ∧
    (∀ (f : HostSt → HostSt), eccOf (modHost f s) w0 = eccOf s w0) ∧
    (∀ (f : CellSt → CellSt), eccOf (modCell f s) w0 = eccOf s w0) ∧
    (∀ (f : MgtSt → MgtSt), eccOf (modMgt f s) w0 = eccOf s w0) ∧
    (∀ (f : PwrSt → PwrSt), eccOf (modPwr f s) w0 = eccOf s w0) ∧
    (∀ (n : Nat) (f : DomSt → DomSt), eccOf (modDom n f s) w0 = eccOf s w0) ∧
    (∀ (n : Nat) (f : NiSt → NiSt), eccOf (modNi n f s) w0 = eccOf s w0) ∧
    (∀ (n : Nat) (f : PortSt → PortSt), eccOf (modPort n f s) w0 = eccOf s w0) ∧
    (∀ (d : Nat) (f : SolvSt → SolvSt), eccOf (modSolv d f s) w0 = eccOf s w0) ∧
    (∀ (k : Nat) (b : List Byte), eccOf (mgmtReply k b s) w0 = eccOf s w0) ∧
    (eccOf (clearAllOp s) w0 = eccOf s w0) := by
  refine ⟨by intros; rfl, by intros; rfl, by intros; rfl, by intros; rfl, rfl, by intros; rfl, by intros; rfl, by intros; rfl, by intros; rfl, by intros; rfl, by intros; rfl, by intros; rfl, by intros; rfl, by intros; rfl, by intros; rfl, by intros; rfl, by intros; rfl, rfl⟩

@[simp] theorem niOf_frame (k0 : Nat) (s : State) :
    (∀ (off : Nat) (v : Word), niOf (setReg off v s) k0 = niOf s k0) ∧
    (∀ (lo hi : Nat), niOf (clearRegs lo hi s) k0 = niOf s k0) ∧
    (∀ (t : Nat) (f : TileSt → TileSt), niOf (modTile t f s) k0 = niOf s k0) ∧
    (∀ (p : Nat) (f : PartSt → PartSt), niOf (modPart p f s) k0 = niOf s k0) ∧
    (niOf (tickFree s) k0 = niOf s k0) ∧
    (∀ (a : Nat) (b : Byte), niOf (setByte a b s) k0 = niOf s k0) ∧
    (∀ (w : Nat), niOf (cleanWord w s) k0 = niOf s k0) ∧
    (∀ (w : Nat), niOf (markWord w s) k0 = niOf s k0) ∧
    (∀ (f : BstSt → BstSt), niOf (modBst f s) k0 = niOf s k0) ∧
    (∀ (f : ImgSt → ImgSt), niOf (modImg f s) k0 = niOf s k0) ∧
    (∀ (f : HostSt → HostSt), niOf (modHost f s) k0 = niOf s k0) ∧
    (∀ (f : CellSt → CellSt), niOf (modCell f s) k0 = niOf s k0) ∧
    (∀ (f : MgtSt → MgtSt), niOf (modMgt f s) k0 = niOf s k0) ∧
    (∀ (f : PwrSt → PwrSt), niOf (modPwr f s) k0 = niOf s k0) ∧
    (∀ (n : Nat) (f : DomSt → DomSt), niOf (modDom n f s) k0 = niOf s k0) ∧
    (∀ (n : Nat) (f : PortSt → PortSt), niOf (modPort n f s) k0 = niOf s k0) ∧
    (∀ (d : Nat) (f : SolvSt → SolvSt), niOf (modSolv d f s) k0 = niOf s k0) ∧
    (∀ (k : Nat) (b : List Byte), niOf (mgmtReply k b s) k0 = niOf s k0) ∧
    (niOf (clearAllOp s) k0 = niOf s k0) := by
  refine ⟨by intros; rfl, by intros; rfl, by intros; rfl, by intros; rfl, rfl, by intros; rfl, by intros; rfl, by intros; rfl, by intros; rfl, by intros; rfl, by intros; rfl, by intros; rfl, by intros; rfl, by intros; rfl, by intros; rfl, by intros; rfl, by intros; rfl, by intros; rfl, rfl⟩

@[simp] theorem domSt_frame (k0 : Nat) (s : State) :
    (∀ (off : Nat) (v : Word), domSt (setReg off v s) k0 = domSt s k0) ∧
    (∀ (lo hi : Nat), domSt (clearRegs lo hi s) k0 = domSt s k0) ∧
    (∀ (t : Nat) (f : TileSt → TileSt), domSt (modTile t f s) k0 = domSt s k0) ∧
    (∀ (p : Nat) (f : PartSt → PartSt), domSt (modPart p f s) k0 = domSt s k0) ∧
    (domSt (tickFree s) k0 = domSt s k0) ∧
    (∀ (a : Nat) (b : Byte), domSt (setByte a b s) k0 = domSt s k0) ∧
    (∀ (w : Nat), domSt (cleanWord w s) k0 = domSt s k0) ∧
    (∀ (w : Nat), domSt (markWord w s) k0 = domSt s k0) ∧
    (∀ (f : BstSt → BstSt), domSt (modBst f s) k0 = domSt s k0) ∧
    (∀ (f : ImgSt → ImgSt), domSt (modImg f s) k0 = domSt s k0) ∧
    (∀ (f : HostSt → HostSt), domSt (modHost f s) k0 = domSt s k0) ∧
    (∀ (f : CellSt → CellSt), domSt (modCell f s) k0 = domSt s k0) ∧
    (∀ (f : MgtSt → MgtSt), domSt (modMgt f s) k0 = domSt s k0) ∧
    (∀ (f : PwrSt → PwrSt), domSt (modPwr f s) k0 = domSt s k0) ∧
    (∀ (n : Nat) (f : NiSt → NiSt), domSt (modNi n f s) k0 = domSt s k0) ∧
    (∀ (n : Nat) (f : PortSt → PortSt), domSt (modPort n f s) k0 = domSt s k0) ∧
    (∀ (d : Nat) (f : SolvSt → SolvSt), domSt (modSolv d f s) k0 = domSt s k0) ∧
    (∀ (k : Nat) (b : List Byte), domSt (mgmtReply k b s) k0 = domSt s k0) ∧
    (domSt (clearAllOp s) k0 = domSt s k0) := by
  refine ⟨by intros; rfl, by intros; rfl, by intros; rfl, by intros; rfl, rfl, by intros; rfl, by intros; rfl, by intros; rfl, by intros; rfl, by intros; rfl, by intros; rfl, by intros; rfl, by intros; rfl, by intros; rfl, by intros; rfl, by intros; rfl, by intros; rfl, by intros; rfl, rfl⟩

@[simp] theorem port_frame (k0 : Nat) (s : State) :
    (∀ (off : Nat) (v : Word), port (setReg off v s) k0 = port s k0) ∧
    (∀ (lo hi : Nat), port (clearRegs lo hi s) k0 = port s k0) ∧
    (∀ (t : Nat) (f : TileSt → TileSt), port (modTile t f s) k0 = port s k0) ∧
    (∀ (p : Nat) (f : PartSt → PartSt), port (modPart p f s) k0 = port s k0) ∧
    (port (tickFree s) k0 = port s k0) ∧
    (∀ (a : Nat) (b : Byte), port (setByte a b s) k0 = port s k0) ∧
    (∀ (w : Nat), port (cleanWord w s) k0 = port s k0) ∧
    (∀ (w : Nat), port (markWord w s) k0 = port s k0) ∧
    (∀ (f : BstSt → BstSt), port (modBst f s) k0 = port s k0) ∧
    (∀ (f : ImgSt → ImgSt), port (modImg f s) k0 = port s k0) ∧
    (∀ (f : HostSt → HostSt), port (modHost f s) k0 = port s k0) ∧
    (∀ (f : CellSt → CellSt), port (modCell f s) k0 = port s k0) ∧
    (∀ (f : MgtSt → MgtSt), port (modMgt f s) k0 = port s k0) ∧
    (∀ (f : PwrSt → PwrSt), port (modPwr f s) k0 = port s k0) ∧
    (∀ (n : Nat) (f : DomSt → DomSt), port (modDom n f s) k0 = port s k0) ∧
    (∀ (n : Nat) (f : NiSt → NiSt), port (modNi n f s) k0 = port s k0) ∧
    (∀ (d : Nat) (f : SolvSt → SolvSt), port (modSolv d f s) k0 = port s k0) ∧
    (∀ (k : Nat) (b : List Byte), port (mgmtReply k b s) k0 = port s k0) ∧
    (port (clearAllOp s) k0 = port s k0) := by
  refine ⟨by intros; rfl, by intros; rfl, by intros; rfl, by intros; rfl, rfl, by intros; rfl, by intros; rfl, by intros; rfl, by intros; rfl, by intros; rfl, by intros; rfl, by intros; rfl, by intros; rfl, by intros; rfl, by intros; rfl, by intros; rfl, by intros; rfl, by intros; rfl, rfl⟩

@[simp] theorem solvOf_frame (k0 : Nat) (s : State) :
    (∀ (off : Nat) (v : Word), solvOf (setReg off v s) k0 = solvOf s k0) ∧
    (∀ (lo hi : Nat), solvOf (clearRegs lo hi s) k0 = solvOf s k0) ∧
    (∀ (t : Nat) (f : TileSt → TileSt), solvOf (modTile t f s) k0 = solvOf s k0) ∧
    (∀ (p : Nat) (f : PartSt → PartSt), solvOf (modPart p f s) k0 = solvOf s k0) ∧
    (solvOf (tickFree s) k0 = solvOf s k0) ∧
    (∀ (a : Nat) (b : Byte), solvOf (setByte a b s) k0 = solvOf s k0) ∧
    (∀ (w : Nat), solvOf (cleanWord w s) k0 = solvOf s k0) ∧
    (∀ (w : Nat), solvOf (markWord w s) k0 = solvOf s k0) ∧
    (∀ (f : BstSt → BstSt), solvOf (modBst f s) k0 = solvOf s k0) ∧
    (∀ (f : ImgSt → ImgSt), solvOf (modImg f s) k0 = solvOf s k0) ∧
    (∀ (f : HostSt → HostSt), solvOf (modHost f s) k0 = solvOf s k0) ∧
    (∀ (f : CellSt → CellSt), solvOf (modCell f s) k0 = solvOf s k0) ∧
    (∀ (f : MgtSt → MgtSt), solvOf (modMgt f s) k0 = solvOf s k0) ∧
    (∀ (f : PwrSt → PwrSt), solvOf (modPwr f s) k0 = solvOf s k0) ∧
    (∀ (n : Nat) (f : DomSt → DomSt), solvOf (modDom n f s) k0 = solvOf s k0) ∧
    (∀ (n : Nat) (f : NiSt → NiSt), solvOf (modNi n f s) k0 = solvOf s k0) ∧
    (∀ (n : Nat) (f : PortSt → PortSt), solvOf (modPort n f s) k0 = solvOf s k0) ∧
    (∀ (k : Nat) (b : List Byte), solvOf (mgmtReply k b s) k0 = solvOf s k0) ∧
    (solvOf (clearAllOp s) k0 = solvOf s k0) := by
  refine ⟨by intros; rfl, by intros; rfl, by intros; rfl, by intros; rfl, rfl, by intros; rfl, by intros; rfl, by intros; rfl, by intros; rfl, by intros; rfl, by intros; rfl, by intros; rfl, by intros; rfl, by intros; rfl, by intros; rfl, by intros; rfl, by intros; rfl, by intros; rfl, rfl⟩

@[simp] theorem collPart_frame (q : Nat) (s : State) :
    (∀ (off : Nat) (v : Word), collPart (setReg off v s) q = collPart s q) ∧
    (∀ (lo hi : Nat), collPart (clearRegs lo hi s) q = collPart s q) ∧
    (∀ (t : Nat) (f : TileSt → TileSt), collPart (modTile t f s) q = collPart s q) ∧
    (∀ (p : Nat) (f : PartSt → PartSt), collPart (modPart p f s) q = collPart s q) ∧
    (collPart (tickFree s) q = collPart s q) ∧
    (∀ (a : Nat) (b : Byte), collPart (setByte a b s) q = collPart s q) ∧
    (∀ (w : Nat), collPart (cleanWord w s) q = collPart s q) ∧
    (∀ (w : Nat), collPart (markWord w s) q = collPart s q) ∧
    (∀ (f : BstSt → BstSt), collPart (modBst f s) q = collPart s q) ∧
    (∀ (f : ImgSt → ImgSt), collPart (modImg f s) q = collPart s q) ∧
    (∀ (f : HostSt → HostSt), collPart (modHost f s) q = collPart s q) ∧
    (∀ (f : CellSt → CellSt), collPart (modCell f s) q = collPart s q) ∧
    (∀ (f : MgtSt → MgtSt), collPart (modMgt f s) q = collPart s q) ∧
    (∀ (f : PwrSt → PwrSt), collPart (modPwr f s) q = collPart s q) ∧
    (∀ (n : Nat) (f : DomSt → DomSt), collPart (modDom n f s) q = collPart s q) ∧
    (∀ (n : Nat) (f : NiSt → NiSt), collPart (modNi n f s) q = collPart s q) ∧
    (∀ (n : Nat) (f : PortSt → PortSt), collPart (modPort n f s) q = collPart s q) ∧
    (∀ (d : Nat) (f : SolvSt → SolvSt), collPart (modSolv d f s) q = collPart s q) ∧
    (∀ (k : Nat) (b : List Byte), collPart (mgmtReply k b s) q = collPart s q) ∧
    (collPart (clearAllOp s) q = collPart s q) := by
  refine ⟨by intros; rfl, by intros; rfl, by intros; rfl, by intros; rfl, rfl, by intros; rfl, by intros; rfl, by intros; rfl, by intros; rfl, by intros; rfl, by intros; rfl, by intros; rfl, by intros; rfl, by intros; rfl, by intros; rfl, by intros; rfl, by intros; rfl, by intros; rfl, by intros; rfl, rfl⟩

@[simp] theorem tileStation_frame (u : Nat) (s : State) :
    (∀ (off : Nat) (v : Word), tileStation (setReg off v s) u = tileStation s u) ∧
    (∀ (lo hi : Nat), tileStation (clearRegs lo hi s) u = tileStation s u) ∧
    (∀ (t : Nat) (f : TileSt → TileSt), tileStation (modTile t f s) u = tileStation s u) ∧
    (∀ (p : Nat) (f : PartSt → PartSt), tileStation (modPart p f s) u = tileStation s u) ∧
    (tileStation (tickFree s) u = tileStation s u) ∧
    (∀ (a : Nat) (b : Byte), tileStation (setByte a b s) u = tileStation s u) ∧
    (∀ (w : Nat), tileStation (cleanWord w s) u = tileStation s u) ∧
    (∀ (w : Nat), tileStation (markWord w s) u = tileStation s u) ∧
    (∀ (f : BstSt → BstSt), tileStation (modBst f s) u = tileStation s u) ∧
    (∀ (f : ImgSt → ImgSt), tileStation (modImg f s) u = tileStation s u) ∧
    (∀ (f : HostSt → HostSt), tileStation (modHost f s) u = tileStation s u) ∧
    (∀ (f : CellSt → CellSt), tileStation (modCell f s) u = tileStation s u) ∧
    (∀ (f : MgtSt → MgtSt), tileStation (modMgt f s) u = tileStation s u) ∧
    (∀ (f : PwrSt → PwrSt), tileStation (modPwr f s) u = tileStation s u) ∧
    (∀ (n : Nat) (f : DomSt → DomSt), tileStation (modDom n f s) u = tileStation s u) ∧
    (∀ (n : Nat) (f : NiSt → NiSt), tileStation (modNi n f s) u = tileStation s u) ∧
    (∀ (n : Nat) (f : PortSt → PortSt), tileStation (modPort n f s) u = tileStation s u) ∧
    (∀ (d : Nat) (f : SolvSt → SolvSt), tileStation (modSolv d f s) u = tileStation s u) ∧
    (∀ (k : Nat) (b : List Byte), tileStation (mgmtReply k b s) u = tileStation s u) ∧
    (tileStation (clearAllOp s) u = tileStation s u) := by
  refine ⟨by intros; rfl, by intros; rfl, by intros; rfl, by intros; rfl, rfl, by intros; rfl, by intros; rfl, by intros; rfl, by intros; rfl, by intros; rfl, by intros; rfl, by intros; rfl, by intros; rfl, by intros; rfl, by intros; rfl, by intros; rfl, by intros; rfl, by intros; rfl, by intros; rfl, rfl⟩

@[simp] theorem reg_setReg (off o : Nat) (v : Word) (s : State) : reg (setReg off v s) o = if o = off then v else reg s o := by
  unfold reg setReg
  simp only [tabGet_set]
  by_cases h : o = off
  · subst h; simp
  · simp [h, tabGet_set_other h]
@[simp] theorem tile_modTile (t u : Nat) (f : TileSt → TileSt) (s : State) :
    tile (modTile t f s) u = if u = t then f (tile s t) else tile s u := tabGet_set ..
@[simp] theorem core_modTile (t u : Nat) (f : TileSt → TileSt) (s : State) :
    core (modTile t f s) u = if u = t then (f (tile s t)).core else core s u := by
  unfold core; rw [tile_modTile]; split <;> rfl
@[simp] theorem part_modPart (p q : Nat) (f : PartSt → PartSt) (s : State) :
    part (modPart p f s) q = if q = p then f (part s p) else part s q := tabGet_set ..
@[simp] theorem niOf_modNi (n m : Nat) (f : NiSt → NiSt) (s : State) :
    niOf (modNi n f s) m = if m = n then f (niOf s n) else niOf s m := tabGet_set ..
@[simp] theorem port_modPort (n m : Nat) (f : PortSt → PortSt) (s : State) :
    port (modPort n f s) m = if m = n then f (port s n) else port s m := tabGet_set ..
@[simp] theorem solvOf_modSolv (n m : Nat) (f : SolvSt → SolvSt) (s : State) :
    solvOf (modSolv n f s) m = if m = n then f (solvOf s n) else solvOf s m := tabGet_set ..
@[simp] theorem domSt_modDom (n m : Nat) (f : DomSt → DomSt) (s : State) :
    domSt (modDom n f s) m = if m = n then (f (tabGet {} n s.doms)).st else domSt s m := by
  unfold domSt; simp only [modDom_fields, tabGet_set]; split <;> rfl
@[simp] theorem memByte_setByte (a c : Nat) (b : Byte) (s : State) : memByte (setByte a b s) c = if c = a then b else memByte s c :=
  tabGet_set ..

end Sys2Proof.Machine
end

