-- ==== Sys2Proof/Laws/Core.lean ====
section
/-!
SUPPORT. Laws/Core.lean: what reading scratchpad notes, what fetching an instruction does, and what the operands of instructions read after it.
-/
namespace Sys2Proof.Machine

/-! ### Notes -/

theorem Noted.refl (s : State) : Noted s s := ⟨rfl, fun _ => rfl, fun _ _ => rfl⟩

theorem Noted.trans {s t u : State} (h : Noted s t) (k : Noted t u) : Noted s u := by
  obtain ⟨h1, h2, h3⟩ := h
  obtain ⟨k1, k2, k3⟩ := k
  refine ⟨?_, fun x => ?_, fun o ho => (k3 o ho).trans (h3 o ho)⟩
  · rw [← k1] at h1; simpa using h1
  · have a := h2 x; have b := k2 x; rw [← b] at a; simpa using a

/-- A change of the named fields, and of a tile's rows, notes. -/
theorem Noted.of_fields {s t : State} (h : { t with regs := s.regs, err := s.err, host := s.host, sent := s.sent } = s)
    (hr : ∀ o, noteReg o = false → reg t o = reg s o) : Noted s t := by
  refine ⟨?_, fun u => ?_, hr⟩
  · have e := congrArg State.flash h
    dsimp only at e
    rw [e, ← h]
  · have : t.tiles = s.tiles := by rw [← h]
    simp [tile, this]

theorem noted_setReg {o : Nat} (h : noteReg o = true) (v : Word) (s : State) : Noted s (setReg o v s) := by
  refine Noted.of_fields rfl fun x hx => ?_
  have hne : x ≠ o := by rintro rfl; rw [h] at hx; cases hx
  rw [reg_setReg, if_neg hne]
theorem noted_putB {o : Nat} (h : noteReg o = true) (i : Nat) (b : Bool) (s : State) : Noted s (putB o i b s) := noted_setReg h _ _
theorem noted_sendVec (v : Nat) (s : State) : Noted s (sendVec v s) := by
  unfold sendVec; split
  · exact Noted.of_fields rfl fun _ _ => rfl
  · exact Noted.refl s
theorem noted_raiseVec (v : Nat) (s : State) : Noted s (raiseVec v s) := by
  unfold raiseVec; split
  · exact Noted.refl s
  · refine Noted.trans ?_ (noted_sendVec _ _)
    exact Noted.of_fields rfl fun _ _ => rfl
theorem noted_stick {o : Nat} (h : noteReg o = true) (b : Nat) (s : State) : Noted s (stick o b s) := by
  unfold stick; dsimp only; split
  · exact Noted.refl s
  · split
    · exact (noted_putB h _ _ _).trans (noted_raiseVec _ _)
    · exact noted_putB h _ _ _
theorem noted_bump {o x : Nat} (h : noteReg o = true) (hx : noteReg x = true) (n b : Nat) (s : State) : Noted s (bump o n x b s) := by
  unfold bump; dsimp only; split
  · exact Noted.refl s
  · split
    · exact noted_setReg h _ _
    · exact (noted_setReg h _ _).trans (noted_stick hx _ _)
theorem noteReg_errCount {k : Nat} (h : k < 4) : noteReg (aErrCount k) = true := by
  unfold noteReg aErrCount; simp; omega
theorem noteReg_sp (t : Nat) : noteReg (aTileSpStatus t) = true ∧ noteReg (aTileSpCeCount t) = true ∧ noteReg (aTileSpUeAddr t) = true := by
  unfold noteReg aTileSpStatus aTileSpCeCount aTileSpUeAddr
  refine ⟨?_, ?_, ?_⟩ <;> simp <;> omega
theorem noted_logEvent {r : LogRec} (hr : r.sev < 4) (s : State) : Noted s (logEvent r s) := by
  have h : Noted s (stick aErrStatus r.sev (bump (aErrCount r.sev) 1 aErrStatus 5 s)) := (noted_bump (noteReg_errCount hr) rfl _ _ _).trans (noted_stick rfl _ _)
  unfold logEvent; dsimp only
  generalize stick aErrStatus r.sev (bump (aErrCount r.sev) 1 aErrStatus 5 s) = t at h ⊢
  by_cases h0 : r.sev = 0
  · rw [if_pos h0]; exact h
  · rw [if_neg h0]
    by_cases h1 : (if r.sev = 1 then 248 else 256) ≤ t.err.log.length
    · rw [if_pos h1]; exact (h.trans (noted_bump rfl rfl _ _ _)).trans (noted_stick rfl _ _)
    · rw [if_neg h1]; exact h.trans (Noted.of_fields rfl fun _ _ => rfl)
/-- A change of the repair list notes. -/
theorem noted_repair (l : List Nat) (s : State) : Noted s { s with flash := { s.flash with repair := l } } := ⟨rfl, fun _ => rfl, fun _ _ => rfl⟩
/-- The rows that a tile records are notes. -/
theorem noted_rows (t : Nat) (f : TileSt → TileSt) (s : State) (h : ∀ x, { f x with rows := x.rows, rowCorr := x.rowCorr } = x) :
    Noted s (modTile t f s) := by
  refine ⟨rfl, fun u => ?_, fun _ _ => rfl⟩
  rw [tile_modTile]; split
  · rename_i e; subst e; exact h _
  · rfl
theorem noted_recordRow (t r : Nat) (s : State) : Noted s (recordRow t r s) := by
  unfold recordRow; dsimp only; split
  · exact Noted.refl s
  · split
    · exact noted_stick (noteReg_sp t).1 _ _
    · exact (noted_repair _ _).trans (noted_rows _ _ _ fun _ => rfl)
theorem noted_noteCorrected (w : Nat) (s : State) : Noted s (noteCorrected w s) := by
  unfold noteCorrected; extract_lets t row a b c n d
  have h : Noted s d := (((noted_stick (noteReg_sp t).1 _ _).trans (noted_bump (noteReg_sp t).2.1 (noteReg_sp t).1 _ _ _)).trans
    (noted_logEvent (r := tileRec b t 0x06 0 0 0 0) (Nat.zero_lt_succ 3) _)).trans (noted_rows _ _ _ fun _ => rfl)
  split
  · exact h.trans (noted_recordRow _ _ _)
  · exact h
theorem noted_noteBad (src w : Nat) (s : State) : Noted s (noteBad src w s) := by
  unfold noteBad; extract_lets t o first a b
  have h : Noted s b := by
    refine Noted.trans (t := a) ?_ (noted_stick (noteReg_sp t).1 _ _)
    show Noted s (if first then _ else _)
    split
    · exact (noted_setReg (noteReg_sp t).2.2 _ _).trans (noted_setReg (noteReg_sp t).2.2 _ _)
    · exact Noted.refl s
  split
  · exact h
  · exact (h.trans (noted_logEvent (by show 1 < 4; decide) _)).trans (noted_recordRow _ _ _)
theorem noted_touchWord (src w : Nat) (s : State) : Noted s (touchWord src w s) := by
  unfold touchWord; split
  · exact Noted.refl s
  · exact noted_noteCorrected _ _
  · exact noted_noteBad _ _ _
theorem noted_touchWords (src : Nat) (ws : List Nat) (s : State) : Noted s (touchWords src ws s) := by
  unfold touchWords
  induction ws generalizing s with
  | nil => exact Noted.refl s
  | cons w r ih => exact (noted_touchWord _ _ _).trans (ih _)
/-- Reading a range of the scratchpad only notes. -/
theorem noted_touchRange (src a n : Nat) (s : State) : Noted s (touchRange src a n s) := noted_touchWords _ _ _
/-- Reading words with fresh check bits changes nothing. -/
theorem touchRange_clean {src a n : Nat} {s : State} (h : ∀ w ∈ wordsOf a n, eccOf s w = none) : touchRange src a n s = s := by
  unfold touchRange touchWords
  generalize wordsOf a n = l at h
  induction l with
  | nil => rfl
  | cons w r ih =>
    have hw : touchWord src w s = s := by unfold touchWord; rw [h w (by simp)]
    rw [List.foldl_cons, hw]
    exact ih fun x hx => h x (by simp [hx])

section
variable {s t : State} (h : Noted s t)
include h

/-- What a note leaves as it was, field by field. -/
theorem Noted.fields : t.pending = s.pending ∧ t.fuses = s.fuses ∧ t.mem = s.mem ∧ t.ecc = s.ecc ∧ t.parts = s.parts ∧ t.posts = s.posts ∧
    t.solder = s.solder ∧ t.doms = s.doms ∧ t.pwr = s.pwr ∧ t.bst = s.bst ∧ t.freeCount = s.freeCount ∧ t.coll = s.coll ∧ t.solv = s.solv := by
  have e := h.rest
  rw [State.mk.injEq] at e; simp_all
theorem Noted.core (u : Nat) : core t u = core s u := by
  show (tile t u).core = (tile s u).core
  have := h.tiles u; rw [← this]
theorem Noted.getG (u : Nat) (r : GReg) : getG t u r = getG s u r := by unfold Machine.getG; rw [h.core]
theorem Noted.getV (u : Nat) (r : VReg) : getV t u r = getV s u r := by unfold Machine.getV; rw [h.core]
theorem Noted.getM (u : Nat) (r : MReg) : getM t u r = getM s u r := by unfold Machine.getM; rw [h.core]
theorem Noted.getPc (u : Nat) : getPc t u = getPc s u := by unfold Machine.getPc; rw [h.core]
theorem Noted.ownerOf (u : Nat) : ownerOf t u = ownerOf s u := by unfold Machine.ownerOf; rw [h.fields.2.2.2.2.1]
theorem Noted.part (p : Nat) : part t p = part s p := by unfold Machine.part; rw [h.fields.2.2.2.2.1]
theorem Noted.memByte (a : Nat) : memByte t a = memByte s a := by unfold Machine.memByte; rw [h.fields.2.2.1]
theorem Noted.memBytes (a n : Nat) : memBytes t a n = memBytes s a n := by unfold Machine.memBytes; simp only [h.memByte]
theorem Noted.eccOf (w : Nat) : eccOf t w = eccOf s w := by unfold Machine.eccOf; rw [h.fields.2.2.2.1]
theorem Noted.badWord (w : Nat) : badWord t w = badWord s w := by unfold Machine.badWord; rw [h.eccOf]
theorem Noted.anyBad (a n : Nat) : anyBad t a n = anyBad s a n := by
  unfold Machine.anyBad; congr 1; funext w; exact h.badWord w
theorem Noted.writePoisons (a n : Nat) : writePoisons t a n = writePoisons s a n := by
  unfold Machine.writePoisons; congr 1; funext w; rw [h.badWord]
theorem Noted.tileW (u : Nat) : tileW t u = tileW s u := by
  unfold Machine.tileW workBytes collBytes cacheBytes
  simp only [h.ownerOf, h.part, h.fields.2.2.2.2.2.2.2.2.2.1]
end

/-! ### Updates of a core -/

@[simp] theorem tile_modCore (t u : Nat) (f : CoreSt → CoreSt) (s : State) :
    tile (modCore t f s) u = if u = t then { tile s t with core := f (core s t) } else tile s u := by
  unfold modCore; rw [tile_modTile]; rfl
@[simp] theorem core_modCore (t u : Nat) (f : CoreSt → CoreSt) (s : State) :
    core (modCore t f s) u = if u = t then f (core s t) else core s u := by
  unfold core; rw [tile_modCore]; split <;> rfl
/-- What an update of a core leaves as it was, field by field. -/
@[simp] theorem modCore_fields (t : Nat) (f : CoreSt → CoreSt) (s : State) :
    (modCore t f s).regs = s.regs ∧ (modCore t f s).mem = s.mem ∧ (modCore t f s).ecc = s.ecc ∧ (modCore t f s).parts = s.parts ∧
      (modCore t f s).doms = s.doms ∧ (modCore t f s).pwr = s.pwr ∧ (modCore t f s).bst = s.bst ∧ (modCore t f s).err = s.err ∧
      (modCore t f s).solder = s.solder ∧ (modCore t f s).freeCount = s.freeCount ∧ (modCore t f s).pending = s.pending ∧
      (modCore t f s).posts = s.posts ∧ (modCore t f s).sent = s.sent ∧ (modCore t f s).host = s.host :=
  ⟨rfl, rfl, rfl, rfl, rfl, rfl, rfl, rfl, rfl, rfl, rfl, rfl, rfl, rfl⟩
/-- What reads of a state find after an update of a core. -/
@[simp] theorem modCore_reads (t u : Nat) (f : CoreSt → CoreSt) (s : State) :
    reg (modCore t f s) u = reg s u ∧ memByte (modCore t f s) u = memByte s u ∧ eccOf (modCore t f s) u = eccOf s u ∧
      ownerOf (modCore t f s) u = ownerOf s u ∧ part (modCore t f s) u = part s u ∧ tileW (modCore t f s) u = tileW s u :=
  ⟨rfl, rfl, rfl, rfl, rfl, rfl⟩

/-! ### Fetch -/

theorem Fetched.refl (s : State) (t : Nat) : Fetched s s t := ⟨rfl, fun _ _ => rfl, rfl, fun _ _ _ => rfl⟩
/-- Notes after what a fetch changes. -/
theorem Fetched.noted {s n m : State} {t : Nat} (h : Fetched s n t) (k : Noted n m) : Fetched s m t := by
  refine ⟨?_, fun u hu => ?_, ?_, fun o ho hv => (k.regs o ho).trans (h.regs o ho hv)⟩
  · have a := h.rest; have b := k.rest
    rw [← b] at a; simpa using a
  · have a := h.others u hu; have b := k.tiles u
    rw [← b] at a; simpa using a
  · have a := h.own; have b := k.tiles t; have c := k.core t
    rw [← a, c]
    rw [← b]
/-- An update of the cache and the mark of the core after what a fetch changes. -/
theorem Fetched.core_update {s n : State} {t : Nat} {f : CoreSt → CoreSt} (h : Fetched s n t)
    (hf : ∀ c, ({ f c with icache := c.icache, resumed := c.resumed, last := c.last, pair := c.pair } : CoreSt) = c) : Fetched s (modCore t f n) t := by
  refine ⟨?_, fun u hu => ?_, ?_, fun o ho hv => h.regs o ho hv⟩
  · have a := h.rest
    rw [State.mk.injEq] at a ⊢
    simp only [modCore, modTile_fields]
    simp_all
  · rw [tile_modCore, if_neg hu]; exact h.others u hu
  · have a := h.own
    have b := hf (core n t)
    rw [tile_modCore, core_modCore, if_pos rfl, if_pos rfl]
    rw [← a]
    simp only [TileSt.mk.injEq, true_and, and_true]
    have c : ({ f (core n t) with
          icache := (core s t).icache, resumed := (core s t).resumed, last := (core s t).last, pair := (core s t).pair } : CoreSt) =
        { ({ f (core n t) with
            icache := (core n t).icache, resumed := (core n t).resumed, last := (core n t).last, pair := (core n t).pair } : CoreSt) with
          icache := (core s t).icache, resumed := (core s t).resumed, last := (core s t).last, pair := (core s t).pair } := rfl
    rw [c, b]

/-- A change of VX_RESUME after what a fetch changes. -/
theorem Fetched.resume {s n : State} {t : Nat} (h : Fetched s n t) (i : Nat) (b : Bool) : Fetched s (putB (aVxResume t) i b n) t := by
  refine ⟨?_, h.others, h.own, fun o ho hv => ?_⟩
  · have a := h.rest
    rw [State.mk.injEq] at a ⊢
    exact a
  · rw [← h.regs o ho hv]
    unfold putB putF; rw [reg_setReg, if_neg hv]

/-- The fetch of a tile that may fetch notes, and puts a line into the cache. -/
theorem fetch_of_fetchOk {s : State} {t : Nat} (h : FetchOk s t) : ∃ m l, Noted s m ∧ fetch t s = .inr (icPut t l m) := by
  unfold fetch fetchWith
  dsimp only
  rw [if_neg (Nat.not_lt.2 h.inside)]
  split
  · exact ⟨s, _, Noted.refl s, rfl⟩
  · rename_i hc
    have hb : anyBad s (pkgAddr t (64 * ((getPc s t).toNat / 64))) 64 = false := by
      rcases h.line with h | h
      · rw [hc] at h; cases h
      · exact h
    rw [hb]
    exact ⟨_, _, noted_touchRange _ _ _ _, rfl⟩

/-- The state in which an instruction of a tile that may fetch executes: of the issue, the fetch is all but the instruction's own effect. -/
theorem issue_of_fetchOk {s : State} {t : Nat} (h : FetchOk s t) (f : State → State) : issue t f s = f (fetched t s) := by
  obtain ⟨m, l, -, hn⟩ := fetch_of_fetchOk h
  unfold fetched issue
  rw [if_pos h.may, if_pos h.may, hn]
  rfl

/-- What the fetch changes. -/
theorem fetched_spec {s : State} {t : Nat} (h : FetchOk s t) : Fetched s (fetched t s) t := by
  obtain ⟨m, l, hm, hn⟩ := fetch_of_fetchOk h
  have h1 : Fetched s (icPut t l m) t := ((Fetched.refl s t).noted hm).core_update fun c => rfl
  unfold fetched issue
  rw [if_pos h.may, hn]
  dsimp only [id]
  refine Fetched.core_update ?_ fun c => rfl
  split
  · exact h1.resume _ _
  · exact h1

/-- Once an instruction has been fetched, the mark that RETX leaves is gone, its word is the one that issued last, and it may be the second of a pair
where R222 lets it follow the word before it. -/
theorem fetched_issued {s : State} {t : Nat} (h : FetchOk s t) : (core (fetched t s) t).resumed = false ∧
    (core (fetched t s) t).last = some (wordNext s t) ∧ (core (fetched t s) t).pair = mayPair (core s t).last (wordNext s t) := by
  obtain ⟨m, l, hm, hn⟩ := fetch_of_fetchOk h
  have hl : ∀ x : State, core x t = core (icPut t l m) t → (core x t).last = (core s t).last := fun x hx => by
    rw [hx]; unfold icPut; rw [core_modCore, if_pos rfl, hm.core]
  unfold fetched issue
  rw [if_pos h.may, hn]
  dsimp only [id]
  rw [core_modCore, if_pos rfl]
  refine ⟨rfl, rfl, ?_⟩
  unfold CoreSt.issued
  dsimp only
  congr 1
  split <;> exact hl _ rfl

/-- The mark that RETX leaves is gone once an instruction has been fetched. -/
theorem fetched_resumed {s : State} {t : Nat} (h : FetchOk s t) : (core (fetched t s) t).resumed = false := (fetched_issued h).1

section
variable {s n : State} {t : Nat} (h : Fetched s n t)
include h

/-- What a fetch leaves as it was, field by field. -/
theorem Fetched.fields : n.pending = s.pending ∧ n.fuses = s.fuses ∧ n.mem = s.mem ∧ n.ecc = s.ecc ∧ n.parts = s.parts ∧ n.posts = s.posts ∧
    n.solder = s.solder ∧ n.doms = s.doms ∧ n.pwr = s.pwr ∧ n.bst = s.bst ∧ n.freeCount = s.freeCount ∧ n.coll = s.coll ∧ n.solv = s.solv := by
  have e := h.rest
  rw [State.mk.injEq] at e; simp_all
/-- The fields of the core that a fetch leaves as they were. -/
theorem Fetched.core_eq :
    ({ core n t with icache := (core s t).icache, resumed := (core s t).resumed, last := (core s t).last, pair := (core s t).pair } : CoreSt) =
      core s t := by
  have e := congrArg TileSt.core h.own; exact e
theorem Fetched.core_g : (core n t).g = (core s t).g := by have e := congrArg CoreSt.g h.core_eq; exact e
theorem Fetched.core_v : (core n t).v = (core s t).v := by have e := congrArg CoreSt.v h.core_eq; exact e
theorem Fetched.core_vm : (core n t).vm = (core s t).vm := by have e := congrArg CoreSt.vm h.core_eq; exact e
theorem Fetched.getPc : getPc n t = getPc s t := by have e := congrArg CoreSt.pc h.core_eq; exact e
theorem Fetched.core_run : (core n t).run = (core s t).run := by have e := congrArg CoreSt.run h.core_eq; exact e
theorem Fetched.mxCodes : (core n t).mxCodes = (core s t).mxCodes := by have e := congrArg CoreSt.mxCodes h.core_eq; exact e
theorem Fetched.stCodes : (core n t).stCodes = (core s t).stCodes := by have e := congrArg CoreSt.stCodes h.core_eq; exact e
theorem Fetched.mxq : (tile n t).mxq = (tile s t).mxq := by have e := congrArg TileSt.mxq h.own; exact e
theorem Fetched.stq : (tile n t).stq = (tile s t).stq := by have e := congrArg TileSt.stq h.own; exact e
theorem Fetched.mxSeq : (tile n t).mxSeq = (tile s t).mxSeq := by have e := congrArg TileSt.mxSeq h.own; exact e
theorem Fetched.stSeq : (tile n t).stSeq = (tile s t).stSeq := by have e := congrArg TileSt.stSeq h.own; exact e
theorem Fetched.getG (r : GReg) : getG n t r = getG s t r := by unfold Machine.getG; rw [h.core_g]
theorem Fetched.getV (r : VReg) : getV n t r = getV s t r := by unfold Machine.getV; rw [h.core_v]
theorem Fetched.getM (r : MReg) : getM n t r = getM s t r := by unfold Machine.getM; rw [h.core_vm]
theorem Fetched.ownerOf (u : Nat) : ownerOf n u = ownerOf s u := by unfold Machine.ownerOf; rw [h.fields.2.2.2.2.1]
theorem Fetched.part (p : Nat) : part n p = part s p := by unfold Machine.part; rw [h.fields.2.2.2.2.1]
theorem Fetched.memByte (a : Nat) : memByte n a = memByte s a := by unfold Machine.memByte; rw [h.fields.2.2.1]
theorem Fetched.memBytes (a k : Nat) : memBytes n a k = memBytes s a k := by unfold Machine.memBytes; simp only [h.memByte]
theorem Fetched.eccOf (w : Nat) : eccOf n w = eccOf s w := by unfold Machine.eccOf; rw [h.fields.2.2.2.1]
theorem Fetched.badWord (w : Nat) : badWord n w = badWord s w := by unfold Machine.badWord; rw [h.eccOf]
theorem Fetched.anyBad (a k : Nat) : anyBad n a k = anyBad s a k := by
  unfold Machine.anyBad; congr 1; funext w; exact h.badWord w
theorem Fetched.writePoisons (a k : Nat) : writePoisons n a k = writePoisons s a k := by
  unfold Machine.writePoisons; congr 1; funext w; rw [h.badWord]
theorem Fetched.tileW (u : Nat) : tileW n u = tileW s u := by
  unfold Machine.tileW workBytes collBytes cacheBytes
  simp only [h.ownerOf, h.part, h.fields.2.2.2.2.2.2.2.2.2.1]
end

end Sys2Proof.Machine
end

