-- ==== Sys2Proof/Laws/Keeps.lean ====
section
/-!
SUPPORT. Laws/Keeps.lean: the relation between a state and a later one that every operation of the block keeps, and how it passes through the
forms in which operations are written. Laws/Keep/*.lean prove it of each operation once.
-/
namespace Sys2Proof.Machine

/-- What no operation breaks, from `s` to `t`: the queue is the same, a safe state stays safe, the fuses of the part's identity are the same and
the fused minimum versions do not fall. -/
structure Keeps (s t : State) : Prop where
  pending : t.pending = s.pending
  mem : Memory.wf s.mem = true → Memory.wf t.mem = true
  ecc : tabRising s.ecc = true → tabRising t.ecc = true
  log : s.err.log.length ≤ 256 → t.err.log.length ≤ 256
  head : s.err.head < 256 → t.err.head < 256
  speed : t.fuses.speedBin = s.fuses.speedBin
  secret : t.fuses.secret = s.fuses.secret
  fwMin : s.fuses.fwMin ≤ t.fuses.fwMin
  secMin : s.fuses.secMin ≤ t.fuses.secMin

theorem Keeps.refl (s : State) : Keeps s s := ⟨rfl, id, id, id, id, rfl, rfl, Nat.le_refl _, Nat.le_refl _⟩

theorem Keeps.trans {s t u : State} (h : Keeps s t) (k : Keeps t u) : Keeps s u :=
  ⟨k.pending.trans h.pending, k.mem ∘ h.mem, k.ecc ∘ h.ecc, k.log ∘ h.log, k.head ∘ h.head, k.speed.trans h.speed, k.secret.trans h.secret,
    Nat.le_trans h.fwMin k.fwMin, Nat.le_trans h.secMin k.secMin⟩

/-- The relation in terms of the fields that it names. -/
def KeepsAt (s : State) (pending : List Instr) (fuses : Fuses) (mem : List Host.Cell) (ecc : Tab EccState) (err : ErrSt) : Prop :=
  Keeps s { s with pending := pending, fuses := fuses, mem := mem, ecc := ecc, err := err }

theorem Keeps.at {s t : State} (h : Keeps s t) : KeepsAt s t.pending t.fuses t.mem t.ecc t.err :=
  ⟨h.pending, h.mem, h.ecc, h.log, h.head, h.speed, h.secret, h.fwMin, h.secMin⟩

theorem Keeps.atClear {s t : State} (h : Keeps s t) : KeepsAt s t.pending t.fuses [] [] t.err :=
  ⟨h.pending, fun _ => rfl, fun _ => rfl, h.log, h.head, h.speed, h.secret, h.fwMin, h.secMin⟩

theorem Keeps.atNew {s t : State} (h : Keeps s t) : KeepsAt s t.pending t.fuses [] [] {} :=
  ⟨h.pending, fun _ => rfl, fun _ => rfl, fun _ => Nat.zero_le _, fun _ => (by decide : (0 : Nat) < 256), h.speed, h.secret, h.fwMin, h.secMin⟩

/-- Fuses that keep the identity and raise no minimum downwards may be burnt. -/
theorem Keeps.burn {s t : State} (f : Fuses) (h : Keeps s t) (h1 : f.speedBin = t.fuses.speedBin) (h2 : f.secret = t.fuses.secret)
    (h3 : t.fuses.fwMin ≤ f.fwMin) (h4 : t.fuses.secMin ≤ f.secMin) : Keeps s { t with fuses := f } :=
  h.trans ⟨rfl, id, id, id, id, h1, h2, h3, h4⟩

/-- A state written out: only the named fields matter. -/
theorem Keeps.lit_iff (s : State) (p : List Instr) (x_regs : Tab Word) (f : Fuses) (m : List Host.Cell) (e : Tab EccState) (x_tiles : Tab TileSt) (x_bst : BstSt) (x_img : ImgSt) (x_parts : Tab PartSt) (x_posts : List Post) (x_solder : Tab Nat) (x_spares : List Nat) (x_failedQuads : List Nat) (l : ErrSt) (x_host : HostSt) (x_ni : Tab NiSt) (x_doms : Tab DomSt) (x_resets : List Nat) (x_resetAt : Tab Nat) (x_resetReqs : List (Nat × Option (Nat × Nat))) (x_heldWakes : List (Nat × Nat)) (x_failedStns : List Nat) (x_cell : CellSt) (x_ports : Tab PortSt) (x_clk : SyncSt) (x_boot : BootSt) (x_flash : FlashSt) (x_board : BoardSt) (x_kick : Option Nat) (x_mgt : MgtSt) (x_sec : SecSt) (x_pins : PinSt) (x_pwr : PwrSt) (x_coll : CollSt) (x_solv : Tab SolvSt) (x_dig : List DigCmd) (x_keys : Tab (List Byte)) (x_tick : Nat) (x_sent : List Msg) (x_freeCount : Nat) :
    Keeps s (State.mk p x_regs f m e x_tiles x_bst x_img x_parts x_posts x_solder x_spares x_failedQuads l x_host x_ni x_doms x_resets x_resetAt x_resetReqs x_heldWakes x_failedStns x_cell x_ports x_clk x_plls x_boot x_flash x_board x_kick x_mgt x_sec x_pins x_pwr x_coll x_solv x_dig x_keys x_tick x_sent x_freeCount) ↔
      KeepsAt s p f m e l :=
  ⟨fun h => ⟨h.pending, h.mem, h.ecc, h.log, h.head, h.speed, h.secret, h.fwMin, h.secMin⟩,
    fun h => ⟨h.pending, h.mem, h.ecc, h.log, h.head, h.speed, h.secret, h.fwMin, h.secMin⟩⟩

theorem Keeps.ite {s a b : State} {c : Prop} [Decidable c] (ha : Keeps s a) (hb : Keeps s b) : Keeps s (if c then a else b) := by
  split <;> assumption

theorem Keeps.foldl {α : Type} {s : State} {f : State → α → State} (hf : ∀ t x, Keeps s t → Keeps s (f t x)) (l : List α) {t : State}
    (h : Keeps s t) : Keeps s (l.foldl f t) := by
  induction l generalizing t with
  | nil => exact h
  | cons x l ih => exact ih (hf _ _ h)

/-- A property of an accumulator that every step of a fold keeps. -/
theorem foldl_keeps {α β : Type} (P : β → Prop) {f : β → α → β} (hf : ∀ t x, P t → P (f t x)) (l : List α) {t : β} (h : P t) :
    P (l.foldl f t) := by
  induction l generalizing t with
  | nil => exact h
  | cons x l ih => exact ih (hf _ _ h)

/-! The same of what operations answer beside a state. -/

/-- A state in the first place of a pair. -/
def Keeps1 {α : Type} (s : State) (p : State × α) : Prop := Keeps s p.1
/-- A state in the second place of a pair. -/
def Keeps2 {α : Type} (s : State) (p : α × State) : Prop := Keeps s p.2
/-- A state that need not be there. -/
def KeepsS (s : State) (o : Option State) : Prop := ∀ t, o = some t → Keeps s t
/-- A gate's answer. -/
def KeepsB (s : State) (o : Option (Byte × Nat × State)) : Prop := ∀ c n t, o = some (c, n, t) → Keeps s t
/-- One of two states. -/
def KeepsE (s : State) (o : Sum State State) : Prop := (∀ t, o = .inl t → Keeps s t) ∧ ∀ t, o = .inr t → Keeps s t
/-- The next state of an outcome. -/
def KeepsO (s : State) (o : Host.Outcome State Fault Refusal) : Prop := ∀ t, o = .next t → Keeps s t

section
variable {α : Type} {s t : State} {c : Prop} [Decidable c]

theorem Keeps1.mk (a : α) (h : Keeps s t) : Keeps1 s (t, a) := h
theorem Keeps1.ite {p q : State × α} (hp : Keeps1 s p) (hq : Keeps1 s q) : Keeps1 s (if c then p else q) := by split <;> assumption
theorem Keeps1.fst {p : State × α} (h : Keeps1 s p) : Keeps s p.1 := h
theorem Keeps1.get {p : State × α} {a : α} (h : Keeps1 s p) (e : p = (t, a)) : Keeps s t := by subst e; exact h
theorem Keeps1.foldl {β : Type} {f : State × α → β → State × α} (hf : ∀ p x, Keeps1 s p → Keeps1 s (f p x)) (l : List β) {p : State × α}
    (h : Keeps1 s p) : Keeps1 s (l.foldl f p) := by
  induction l generalizing p with
  | nil => exact h
  | cons x l ih => exact ih (hf _ _ h)
theorem Keeps2.mk (a : α) (h : Keeps s t) : Keeps2 s (a, t) := h
theorem Keeps2.ite {p q : α × State} (hp : Keeps2 s p) (hq : Keeps2 s q) : Keeps2 s (if c then p else q) := by split <;> assumption
theorem Keeps2.snd {p : α × State} (h : Keeps2 s p) : Keeps s p.2 := h
theorem Keeps2.get {p : α × State} {a : α} (h : Keeps2 s p) (e : p = (a, t)) : Keeps s t := by subst e; exact h
theorem KeepsS.none : KeepsS s none := by intro t h; cases h
theorem KeepsS.some (h : Keeps s t) : KeepsS s (some t) := by intro u hu; cases hu; exact h
theorem KeepsS.ite {p q : Option State} (hp : KeepsS s p) (hq : KeepsS s q) : KeepsS s (if c then p else q) := by split <;> assumption
theorem KeepsS.get {o : Option State} (h : KeepsS s o) (e : o = Option.some t) : Keeps s t := h t e
theorem KeepsB.none : KeepsB s none := by intro _ _ _ h; cases h
theorem KeepsB.some (c : Byte) (n : Nat) (h : Keeps s t) : KeepsB s (some (c, n, t)) := by intro _ _ u hu; cases hu; exact h
theorem KeepsB.ite {p q : Option (Byte × Nat × State)} (hp : KeepsB s p) (hq : KeepsB s q) : KeepsB s (if c then p else q) := by
  split <;> assumption
theorem KeepsB.get {o : Option (Byte × Nat × State)} {c : Byte} {n : Nat} (h : KeepsB s o) (e : o = Option.some (c, n, t)) : Keeps s t :=
  h c n t e
theorem KeepsB.get' {o : Option (Byte × Nat × State)} {x : Byte × Nat × State} (h : KeepsB s o) (e : o = Option.some x) : Keeps s x.2.2 :=
  h x.1 x.2.1 x.2.2 e
theorem KeepsE.inl (h : Keeps s t) : KeepsE s (.inl t) := ⟨(by intro u hu; cases hu; exact h), (by intro u hu; cases hu)⟩
theorem KeepsE.inr (h : Keeps s t) : KeepsE s (.inr t) := ⟨(by intro u hu; cases hu), (by intro u hu; cases hu; exact h)⟩
theorem KeepsE.ite {p q : Sum State State} (hp : KeepsE s p) (hq : KeepsE s q) : KeepsE s (if c then p else q) := by split <;> assumption
theorem KeepsE.getl {o : Sum State State} (h : KeepsE s o) (e : o = .inl t) : Keeps s t := h.1 t e
theorem KeepsE.getr {o : Sum State State} (h : KeepsE s o) (e : o = .inr t) : Keeps s t := h.2 t e
theorem KeepsO.next (h : Keeps s t) : KeepsO s (.next t) := by intro u hu; cases hu; exact h

end

end Sys2Proof.Machine
end

