-- ==== Sys2Proof/Laws/KeepOps.lean ====
section
/-!
SUPPORT. Laws/KeepOps.lean: every operation on registers, network, board store and cells keeps what `Keeps` says.
-/
namespace Sys2Proof.Machine

/-! Machine/Ops.lean -/

theorem keeps_setReg {s0 : State} (off : Nat) (v : Word) {s : State} (hs : Keeps s0 s) : Keeps s0 (setReg off v s) := by
  unfold setReg
  repeat' (first | assumption | apply Keeps.at | simp -proj only [Keeps.lit_iff])

theorem keeps_putF {s0 : State} (off : Nat) (lo : Nat) (w : Nat) (v : Nat) {s : State} (hs : Keeps s0 s) : Keeps s0 (putF off lo w v s) := by
  unfold putF
  repeat' (first | assumption | apply keeps_setReg)

theorem keeps_putB {s0 : State} (off : Nat) (i : Nat) (b : Bool) {s : State} (hs : Keeps s0 s) : Keeps s0 (putB off i b s) := by
  unfold putB
  repeat' (first | assumption | apply keeps_putF)

theorem keeps_clearRegs {s0 : State} (lo : Nat) (hi : Nat) {s : State} (hs : Keeps s0 s) : Keeps s0 (clearRegs lo hi s) := by
  unfold clearRegs
  repeat' (first | assumption | apply Keeps.at | simp -proj only [Keeps.lit_iff])

theorem keeps_sendVec {s0 : State} (v : Nat) {s : State} (hs : Keeps s0 s) : Keeps s0 (sendVec v s) := by
  unfold sendVec
  repeat' (first | assumption | apply Keeps.at | simp -proj only [Keeps.lit_iff] | split)

theorem keeps_raiseVec {s0 : State} (v : Nat) {s : State} (hs : Keeps s0 s) : Keeps s0 (raiseVec v s) := by
  unfold raiseVec
  repeat' (first | assumption | apply keeps_sendVec | apply Keeps.at | simp -proj only [Keeps.lit_iff] | split)

theorem keeps_raisePkg {s0 : State} {s : State} (hs : Keeps s0 s) : Keeps s0 (raisePkg s) := by
  unfold raisePkg
  repeat' (first | assumption | apply keeps_raiseVec)

theorem keeps_stick {s0 : State} (off : Nat) (bit : Nat) {s : State} (hs : Keeps s0 s) : Keeps s0 (stick off bit s) := by
  unfold stick
  repeat' (first | assumption | apply keeps_putB | apply keeps_raisePkg | split)

theorem keeps_bump {s0 : State} (off : Nat) (n : Nat) (ovfOff : Nat) (ovfBit : Nat) {s : State} (hs : Keeps s0 s) :
    Keeps s0 (bump off n ovfOff ovfBit s) := by
  unfold bump
  repeat' (first | assumption | apply keeps_putF | apply keeps_stick | simp -proj only [Keeps.lit_iff] | split)

theorem keeps_modTile {s0 : State} (t : Nat) (f : TileSt → TileSt) {s : State} (hs : Keeps s0 s) : Keeps s0 (modTile t f s) := by
  unfold modTile
  repeat' (first | assumption | apply Keeps.at | simp -proj only [Keeps.lit_iff])

theorem keeps_modCore {s0 : State} (t : Nat) (f : CoreSt → CoreSt) {s : State} (hs : Keeps s0 s) : Keeps s0 (modCore t f s) := by
  unfold modCore
  repeat' (first | assumption | apply keeps_modTile)

theorem keeps_modPart {s0 : State} (p : Nat) (f : PartSt → PartSt) {s : State} (hs : Keeps s0 s) : Keeps s0 (modPart p f s) := by
  unfold modPart
  repeat' (first | assumption | apply Keeps.at | simp -proj only [Keeps.lit_iff])

theorem keeps_addRec {s0 s : State} (r : LogRec) (n : Nat) (hn : n ≤ 256) (hl : s.err.log.length < n) (h : Keeps s0 s) :
    Keeps s0 { s with err := { s.err with log := s.err.log ++ [r] } } :=
  h.trans ⟨rfl, id, id, fun _ => by simp; omega, id, rfl, rfl, Nat.le_refl _, Nat.le_refl _⟩
theorem keeps_logEvent {s0 : State} (r : LogRec) {s : State} (h : Keeps s0 s) : Keeps s0 (logEvent r s) := by
  unfold logEvent
  have h1 := keeps_stick aErrStatus r.sev (keeps_bump (aErrCount r.sev) 1 aErrStatus 5 h)
  dsimp only
  generalize stick aErrStatus r.sev (bump (aErrCount r.sev) 1 aErrStatus 5 s) = t at h1 ⊢
  refine Keeps.ite h1 ?_
  by_cases hl : (if r.sev = 1 then 248 else 256) ≤ t.err.log.length
  · rw [if_pos hl]; exact keeps_stick _ _ (keeps_bump _ _ _ _ h1)
  · rw [if_neg hl]
    refine keeps_addRec _ _ ?_ (Nat.lt_of_not_le hl) h1
    split <;> omega

theorem keeps_tickFree {s0 : State} {s : State} (hs : Keeps s0 s) : Keeps s0 (tickFree s) := by
  unfold tickFree
  repeat' (first | assumption | apply Keeps.at | simp -proj only [Keeps.lit_iff])

theorem keeps_setByte {s0 : State} (a : Nat) (b : Byte) {s : State} (h : Keeps s0 s) : Keeps s0 (setByte a b s) :=
  h.trans ⟨rfl, fun h => tabCanon_set a b h, id, id, id, rfl, rfl, Nat.le_refl _, Nat.le_refl _⟩

theorem keeps_setBytes {s0 : State} (a : Nat) (l : List Byte) {s : State} (h : Keeps s0 s) : Keeps s0 (setBytes a l s) := by
  induction l generalizing a s with
  | nil => exact h
  | cons b r ih => exact ih _ (keeps_setByte a b h)

theorem keeps_cleanWord {s0 : State} (w : Nat) {s : State} (h : Keeps s0 s) : Keeps s0 (cleanWord w s) :=
  h.trans ⟨rfl, id, fun h => tabRising_filter _ _ h, id, id, rfl, rfl, Nat.le_refl _, Nat.le_refl _⟩

theorem keeps_markWord {s0 : State} (w : Nat) {s : State} (h : Keeps s0 s) : Keeps s0 (markWord w s) :=
  h.trans ⟨rfl, id, fun h => tabRising_put _ _ _ h, id, id, rfl, rfl, Nat.le_refl _, Nat.le_refl _⟩

theorem keeps_zeroRange {s0 : State} (lo hi : Nat) {s : State} (h : Keeps s0 s) : Keeps s0 (zeroRange lo hi s) :=
  h.trans ⟨rfl, fun h => tabCanon_filter _ h, fun h => tabRising_filter _ _ h, id, id, rfl, rfl, Nat.le_refl _, Nat.le_refl _⟩

theorem keeps_recordRow {s0 : State} (t : Nat) (row : Nat) {s : State} (hs : Keeps s0 s) : Keeps s0 (recordRow t row s) := by
  unfold recordRow
  repeat' (first | assumption | apply keeps_stick | apply keeps_modTile | apply Keeps.at | simp -proj only [Keeps.lit_iff] | split)

theorem keeps_noteCorrected {s0 : State} (w : Nat) {s : State} (hs : Keeps s0 s) : Keeps s0 (noteCorrected w s) := by
  unfold noteCorrected
  repeat' (first
      | assumption | apply keeps_stick | apply keeps_bump | apply keeps_logEvent | apply keeps_modTile | apply keeps_recordRow
      | simp -proj only [Keeps.lit_iff] | split)

theorem keeps_noteBad {s0 : State} (src : Nat) (w : Nat) {s : State} (hs : Keeps s0 s) : Keeps s0 (noteBad src w s) := by
  unfold noteBad
  repeat' (first
      | assumption | apply keeps_putF | apply keeps_stick | apply keeps_recordRow | apply keeps_logEvent | simp -proj only [Keeps.lit_iff] | split)

theorem keeps_touchWord {s0 : State} (src : Nat) (w : Nat) {s : State} (hs : Keeps s0 s) : Keeps s0 (touchWord src w s) := by
  unfold touchWord
  repeat' (first | assumption | apply keeps_noteCorrected | apply keeps_noteBad | split)

theorem keeps_touchWords {s0 : State} (src : Nat) (ws : List Nat) {s : State} (hs : Keeps s0 s) : Keeps s0 (touchWords src ws s) := by
  unfold touchWords
  repeat' (first | assumption | apply keeps_touchWord | refine Keeps.foldl (fun t x ht => ?_) _ ?_)

theorem keeps_touchRange {s0 : State} (src : Nat) (a : Nat) (n : Nat) {s : State} (hs : Keeps s0 s) : Keeps s0 (touchRange src a n s) := by
  unfold touchRange
  repeat' (first | assumption | apply keeps_touchWords)

theorem keeps_writeWord {s0 : State} (src : Nat) (a : Nat) (bs : List Byte) {s : State} (hs : Keeps s0 s) : Keeps s0 (writeWord src a bs s) := by
  unfold writeWord
  repeat' (first
      | assumption | apply keeps_cleanWord | apply keeps_setBytes | apply keeps_noteCorrected | apply keeps_noteBad | simp -proj only [Keeps.lit_iff]
      | split)

theorem keeps_spWriteFuel {s0 : State} (n src a : Nat) (bs : List Byte) {s : State} (h : Keeps s0 s) : Keeps s0 (spWriteFuel n src a bs s) := by
  induction n generalizing a bs s with
  | zero => exact h
  | succ n ih => unfold spWriteFuel; exact Keeps.ite h (ih _ _ (keeps_writeWord _ _ _ h))

theorem keeps_spWrite {s0 : State} (src : Nat) (a : Nat) (bs : List Byte) {s : State} (hs : Keeps s0 s) : Keeps s0 (spWrite src a bs s) := by
  unfold spWrite
  repeat' (first | assumption | apply keeps_spWriteFuel)

theorem keeps_spWriteMarked {s0 : State} (a : Nat) (bs : List Byte) {s : State} (hs : Keeps s0 s) : Keeps s0 (spWriteMarked a bs s) := by
  unfold spWriteMarked
  repeat' (first | assumption | apply keeps_markWord | apply keeps_setBytes | refine Keeps.foldl (fun t x ht => ?_) _ ?_)

theorem keeps_spWriteFlits {s0 : State} (src : Nat) (a : Nat) (bs : List Byte) (poison : Nat) {s : State} (hs : Keeps s0 s) :
    Keeps s0 (spWriteFlits src a bs poison s) := by
  unfold spWriteFlits
  repeat' (first | assumption | apply keeps_spWriteMarked | apply keeps_spWrite | refine Keeps.foldl (fun t x ht => ?_) _ ?_ | split)

/-! Machine/RegOps.lean -/

theorem keeps_writeStored {s0 : State} (off : Nat) (v : Word) {s : State} (hs : Keeps s0 s) : Keeps s0 (writeStored off v s) := by
  unfold writeStored
  repeat' (first | assumption | apply keeps_setReg | split)

theorem keeps_modSlot {s0 : State} (t : Nat) (k : Nat) (f : AccSlot → AccSlot) {s : State} (hs : Keeps s0 s) : Keeps s0 (modSlot t k f s) := by
  unfold modSlot
  repeat' (first | assumption | apply keeps_modTile)

/-! Machine/NetOps.lean -/

theorem keeps_modDom {s0 : State} (n : Nat) (f : DomSt → DomSt) {s : State} (hs : Keeps s0 s) : Keeps s0 (modDom n f s) := by
  unfold modDom
  repeat' (first | with_reducible assumption | with_reducible apply Keeps.at | simp -proj only [Keeps.lit_iff])

theorem keeps_saveRec {s0 : State} (now : JRec) {s : State} (hs : Keeps s0 s) : Keeps s0 (saveRec now s) := by
  unfold saveRec
  repeat' (first | with_reducible assumption | with_reducible apply Keeps.at | simp -proj only [Keeps.lit_iff])

theorem keeps_journalFail {s0 : State} (step : Nat) (bit : Nat) {s : State} (hs : Keeps s0 s) : Keeps s0 (journalFail step bit s) := by
  unfold journalFail
  repeat' (first | with_reducible assumption | with_reducible apply keeps_saveRec)

theorem keeps_modNi {s0 : State} (n : Nat) (f : NiSt → NiSt) {s : State} (hs : Keeps s0 s) : Keeps s0 (modNi n f s) := by
  unfold modNi
  repeat' (first | with_reducible assumption | with_reducible apply Keeps.at | simp -proj only [Keeps.lit_iff])

theorem keeps_putEntry {s0 : State} (n : Nat) (x : Nat) (e : NiEntry) {s : State} (hs : Keeps s0 s) : Keeps s0 (putEntry n x e s) := by
  unfold putEntry
  repeat' (first | with_reducible assumption | with_reducible apply keeps_modNi)

theorem keeps_freeEntry {s0 : State} (n : Nat) (x : Nat) {s : State} (hs : Keeps s0 s) : Keeps s0 (freeEntry n x s) := by
  unfold freeEntry
  repeat' (first | with_reducible assumption | with_reducible apply keeps_modNi)

theorem keeps_nocEvent {s0 : State} (b : Nat) (src : Nat) (dst : Nat) (op : Nat) (txid : Nat) {s : State} (hs : Keeps s0 s) :
    Keeps s0 (nocEvent b src dst op txid s) := by
  unfold nocEvent
  repeat' (first | with_reducible assumption | with_reducible apply keeps_setReg | with_reducible apply keeps_stick | split)

theorem keeps_dropHeader {s0 : State} (q : Packet) {s : State} (hs : Keeps s0 s) : Keeps s0 (dropHeader q s) := by
  unfold dropHeader
  repeat' (first | with_reducible assumption | with_reducible apply keeps_logEvent | with_reducible apply keeps_nocEvent)

theorem keeps_countCorrected {s0 : State} (w : Transit) {s : State} (hs : Keeps s0 s) : Keeps s0 (countCorrected w s) := by
  unfold countCorrected
  repeat' (first | with_reducible assumption | with_reducible apply keeps_logEvent | with_reducible apply keeps_bump | split)

theorem keeps_packetsHurt {s0 : State} (n : Nat) (l : List Packet) {s : State} (hs : Keeps s0 s) : Keeps s0 (packetsHurt n l s) := by
  unfold packetsHurt
  repeat' (first
      | with_reducible assumption | with_reducible apply keeps_countCorrected | with_reducible apply keeps_dropHeader
      | with_reducible refine Keeps.foldl (fun t x ht => ?_) _ ?_ | split)

theorem keeps_staleDrop {s0 : State} (p : Packet) {s : State} (hs : Keeps s0 s) : Keeps s0 (staleDrop p s) := by
  unfold staleDrop
  repeat' (first | with_reducible assumption | with_reducible apply keeps_bump | with_reducible apply keeps_nocEvent)

theorem keeps_answerAs {s0 : State} (ep : Nat) (n : Nat) (q : Packet) (code : Byte) (data : List Byte) (poison : Nat) (hint : Nat) {s : State}
    (hs : Keeps s0 s) :
    Keeps s0 (answerAs ep n q code data poison hint s) := by
  unfold answerAs
  repeat' (first
      | with_reducible assumption | with_reducible apply keeps_staleDrop | with_reducible apply keeps_putEntry | with_reducible apply Keeps.at
      | simp -proj only [Keeps.lit_iff] | split)

theorem keeps_answer {s0 : State} (n : Nat) (q : Packet) (code : Byte) (data : List Byte) (poison : Nat) (hint : Nat) {s : State} (hs : Keeps s0 s) :
    Keeps s0 (answer n q code data poison hint s) := by
  unfold answer
  repeat' (first | with_reducible assumption | with_reducible apply keeps_answerAs)

theorem keeps_unitRefuse {s0 : State} (q : Packet) {s : State} (hs : Keeps s0 s) : Keeps s0 (unitRefuse q s) := by
  unfold unitRefuse
  repeat' (first | with_reducible assumption | with_reducible apply keeps_answer | with_reducible apply keeps_logEvent)

theorem keeps_openEntry {s0 : State} (q : Packet) (data : List Byte) {s : State} (hs : Keeps s0 s) : KeepsS s0 (openEntry q data s) := by
  unfold openEntry
  repeat' (first
      | with_reducible assumption | with_reducible exact KeepsS.none | with_reducible apply KeepsS.some | with_reducible apply keeps_putEntry
      | simp -proj only [Keeps.lit_iff] | split)

theorem keeps_discardHeader {s0 : State} (q : Packet) {s : State} (hs : Keeps s0 s) : Keeps s0 (discardHeader q s) := by
  unfold discardHeader
  repeat' (first
      | with_reducible assumption | with_reducible apply keeps_dropHeader | with_reducible apply keeps_putEntry | simp -proj only [Keeps.lit_iff]
      | split)

theorem keeps_arrive {s0 : State} (op : Nat) (q : Packet) (data : List Byte) {f : Packet → State → State} {s : State}
    (hf : ∀ z0 z1, Keeps s0 z1 → Keeps s0 (f z0 z1)) (hs : Keeps s0 s) :
    Keeps s0 (arrive op q data f s) := by
  unfold arrive
  repeat' (first
      | with_reducible assumption | with_reducible apply keeps_countCorrected | with_reducible apply keeps_discardHeader | with_reducible apply hf
      | refine KeepsS.get (keeps_openEntry _ _ ?_) (by assumption) | simp -proj only [Keeps.lit_iff] | split)

theorem keeps_powerUp {s0 : State} (n : Nat) {s : State} (hs : Keeps s0 s) : Keeps s0 (powerUp n s) := by
  unfold powerUp
  repeat' (first | with_reducible assumption | with_reducible apply keeps_modDom | split)

theorem keeps_moveChans {s0 : State} (a : ChanState) (b : ChanState) {s : State} (hs : Keeps s0 s) : Keeps s0 (moveChans a b s) := by
  unfold moveChans
  repeat' (first | with_reducible assumption | with_reducible apply Keeps.at | simp -proj only [Keeps.lit_iff])

theorem keeps_beginTraining {s0 : State} {s : State} (hs : Keeps s0 s) : Keeps s0 (beginTraining s) := by
  unfold beginTraining
  repeat' (first | with_reducible assumption | with_reducible apply Keeps.at | simp -proj only [Keeps.lit_iff])

theorem keeps_beginExit {s0 : State} (k : Nat) {s : State} (hs : Keeps s0 s) : Keeps s0 (beginExit k s) := by
  unfold beginExit
  repeat' (first
      | with_reducible assumption | with_reducible apply keeps_modDom | with_reducible apply keeps_powerUp | with_reducible apply keeps_beginTraining
      | with_reducible refine Keeps.foldl (fun t x ht => ?_) _ ?_ | with_reducible apply Keeps.at | simp -proj only [Keeps.lit_iff] | split)

theorem keeps_wakeNow {s0 : State} {s : State} (hs : Keeps s0 s) : Keeps s0 (wakeNow s) := by
  unfold wakeNow
  repeat' (first | with_reducible assumption | with_reducible apply keeps_beginExit | split)

theorem keeps_wakeCause {s0 : State} (b : Nat) {s : State} (hs : Keeps s0 s) : Keeps s0 (wakeCause b s) := by
  unfold wakeCause
  repeat' (first
      | with_reducible assumption | with_reducible apply keeps_putB | with_reducible apply keeps_wakeNow | with_reducible apply Keeps.at
      | simp -proj only [Keeps.lit_iff] | split)

theorem keeps_cancelDrain {s0 : State} (d : Nat) (b : Nat) {s : State} (hs : Keeps s0 s) : Keeps s0 (cancelDrain d b s) := by
  unfold cancelDrain
  repeat' (first | with_reducible assumption | with_reducible apply keeps_powerUp | with_reducible apply keeps_wakeCause | split)

theorem keeps_holdWake {s0 : State} (n : Nat) (b : Nat) {s : State} (hs : Keeps s0 s) : Keeps s0 (holdWake n b s) := by
  unfold holdWake
  repeat' (first | with_reducible assumption | with_reducible apply Keeps.at | simp -proj only [Keeps.lit_iff] | split)

theorem keeps_unitGateFor {s0 : State} (who : Nat × Nat) (n : Nat) (b : Nat) {s : State} (hs : Keeps s0 s) : KeepsB s0 (unitGateFor who n b s) := by
  unfold unitGateFor
  repeat' (first
      | with_reducible assumption | with_reducible exact KeepsB.none | with_reducible apply KeepsB.some | with_reducible apply keeps_tickFree
      | with_reducible apply keeps_wakeCause | with_reducible apply keeps_cancelDrain | with_reducible apply keeps_holdWake
      | with_reducible apply keeps_powerUp | split)

theorem keeps_unitGate {s0 : State} (n : Nat) (b : Nat) {s : State} (hs : Keeps s0 s) : KeepsB s0 (unitGate n b s) := by
  unfold unitGate
  repeat' (first | with_reducible assumption | with_reducible apply keeps_unitGateFor)

theorem keeps_memGateFor {s0 : State} (who : Nat × Nat) (n : Nat) (b : Nat) {s : State} (hs : Keeps s0 s) : KeepsB s0 (memGateFor who n b s) := by
  unfold memGateFor
  repeat' (first
      | with_reducible assumption | with_reducible exact KeepsB.none | with_reducible apply KeepsB.some | with_reducible apply keeps_tickFree
      | with_reducible apply keeps_wakeCause | with_reducible apply keeps_cancelDrain | with_reducible apply keeps_powerUp
      | simp -proj only [Keeps.lit_iff] | split)

theorem keeps_memGate {s0 : State} (n : Nat) (b : Nat) {s : State} (hs : Keeps s0 s) : KeepsB s0 (memGate n b s) := by
  unfold memGate
  repeat' (first | with_reducible assumption | with_reducible apply keeps_memGateFor)

theorem keeps_gateAnswer {s0 : State} (n : Nat) (q : Packet) {x : Byte × Nat × State} (hx : Keeps s0 x.2.2) : Keeps s0 (gateAnswer n q x) := by
  unfold gateAnswer
  repeat' (first | with_reducible assumption | with_reducible apply keeps_answer)

theorem keeps_gateUnit {s0 : State} (n : Nat) (q : Packet) {s : State} (hs : Keeps s0 s) : KeepsS s0 (gateUnit n q s) := by
  intro t ht
  obtain ⟨x, hx, rfl⟩ := Option.map_eq_some_iff.1 ht
  exact keeps_gateAnswer n q (KeepsB.get' (keeps_unitGateFor _ n _ hs) hx)

theorem keeps_dropPost {s0 : State} (n : Nat) (x : Nat) {s : State} (hs : Keeps s0 s) : Keeps s0 (dropPost n x s) := by
  unfold dropPost
  repeat' (first | with_reducible assumption | with_reducible apply Keeps.at | simp -proj only [Keeps.lit_iff])

theorem keeps_ownComplete {s0 : State} (n : Nat) (x : Nat) (code : Byte) {s : State} (hs : Keeps s0 s) : Keeps s0 (ownComplete n x code s) := by
  unfold ownComplete
  repeat' (first
      | with_reducible assumption | with_reducible apply keeps_dropPost | with_reducible apply keeps_freeEntry | with_reducible apply keeps_putEntry
      | with_reducible apply Keeps.at | simp -proj only [Keeps.lit_iff] | split)

theorem keeps_timeoutRequests {s0 : State} (p : Nat) {s : State} (hs : Keeps s0 s) : Keeps s0 (timeoutRequests p s) := by
  unfold timeoutRequests
  repeat' (first | with_reducible assumption | with_reducible apply keeps_ownComplete | with_reducible refine Keeps.foldl (fun t x ht => ?_) _ ?_)

theorem keeps_endStation {s0 : State} (code : Byte) (n : Nat) {s : State} (hs : Keeps s0 s) : Keeps s0 (endStation code n s) := by
  unfold endStation
  repeat' (first
      | with_reducible assumption | with_reducible apply keeps_freeEntry | with_reducible apply keeps_answer
      | with_reducible refine Keeps.foldl (fun t x ht => ?_) _ ?_ | split)

theorem keeps_resetStation {s0 : State} (n : Nat) {s : State} (hs : Keeps s0 s) : Keeps s0 (resetStation n s) := by
  unfold resetStation
  repeat' (first | with_reducible assumption | with_reducible apply keeps_modNi | with_reducible apply keeps_endStation)

theorem keeps_failStation {s0 : State} (n : Nat) {s : State} (hs : Keeps s0 s) : Keeps s0 (failStation n s) := by
  unfold failStation
  repeat' (first
      | with_reducible assumption | with_reducible apply keeps_modNi | with_reducible apply keeps_endStation | with_reducible apply Keeps.at
      | simp -proj only [Keeps.lit_iff] | split)

/-! Machine/BstOps.lean -/

theorem keeps_modBst {s0 : State} (f : BstSt → BstSt) {s : State} (hs : Keeps s0 s) : Keeps s0 (modBst f s) := by
  unfold modBst
  repeat' (first | with_reducible assumption | with_reducible apply Keeps.at | simp -proj only [Keeps.lit_iff])

theorem keeps_writeDevKey {s0 : State} (key : List Byte) (A : Nat) (bs : List Byte) {s : State} (hs : Keeps s0 s) :
    Keeps s0 (writeDevKey key A bs s) := by
  unfold writeDevKey
  repeat' (first | with_reducible assumption | with_reducible apply keeps_modBst)

theorem keeps_writeDev {s0 : State} (A : Nat) (bs : List Byte) {s : State} (hs : Keeps s0 s) : Keeps s0 (writeDev A bs s) := by
  unfold writeDev
  repeat' (first | with_reducible assumption | with_reducible apply keeps_writeDevKey)

theorem keeps_loseLine {s0 : State} (A : Nat) {s : State} (hs : Keeps s0 s) : Keeps1 s0 (loseLine A s) := by
  unfold loseLine
  repeat' (first
      | with_reducible assumption | with_reducible apply keeps_logEvent | with_reducible apply keeps_stick | with_reducible apply keeps_modBst
      | with_reducible apply keeps_journalFail | split | with_reducible apply Keeps1.mk)

theorem keeps_burstOk {s0 : State} (A : Nat) {s : State} (hs : Keeps s0 s) : Keeps1 s0 (burstOk A s) := by
  unfold burstOk
  repeat' (first | with_reducible assumption | with_reducible apply keeps_modBst | split | with_reducible apply Keeps1.mk)

theorem keeps_chanStore {s0 : State} (key : List Byte) (A : Nat) (bs : List Byte) {s : State} (hs : Keeps s0 s) :
    Keeps1 s0 (chanStore key A bs s) := by
  have h := Keeps1.fst (keeps_burstOk A hs)
  have k := Keeps1.fst (keeps_loseLine A (keeps_stick aBstStatus 0 h))
  unfold chanStore
  generalize burstOk A s = x at h k ⊢
  obtain ⟨t, b⟩ := x
  cases b
  · dsimp only at h k ⊢
    generalize loseLine A (stick aBstStatus 0 t) = y at k ⊢
    obtain ⟨u, c⟩ := y
    cases c
    · exact k
    · exact keeps_logEvent (bstRec u A 0) k
  · exact keeps_writeDevKey _ _ _ h

theorem keeps_phyRefuse {s0 : State} {s : State} (hs : Keeps s0 s) : Keeps1 s0 (phyRefuse s) := by
  unfold phyRefuse
  repeat' (first
      | with_reducible assumption | with_reducible apply keeps_wakeCause | with_reducible apply keeps_powerUp | split
      | with_reducible apply Keeps1.mk)

theorem keeps_modSet {s0 : State} (j : Nat) (f : CacheSet → CacheSet) {s : State} (hs : Keeps s0 s) : Keeps s0 (modSet j f s) := by
  unfold modSet
  repeat' (first | with_reducible assumption | with_reducible apply keeps_modBst)

theorem keeps_touchWay {s0 : State} (j : Nat) (w : Nat) {s : State} (hs : Keeps s0 s) : Keeps s0 (touchWay j w s) := by
  unfold touchWay
  repeat' (first | with_reducible assumption | with_reducible apply keeps_modSet)

theorem keeps_dropWay {s0 : State} (j : Nat) (w : Nat) {s : State} (hs : Keeps s0 s) : Keeps s0 (dropWay j w s) := by
  unfold dropWay
  repeat' (first | with_reducible assumption | with_reducible apply keeps_modSet)

theorem keeps_putWay {s0 : State} (j : Nat) (w : Nat) (x : Way) {s : State} (hs : Keeps s0 s) : Keeps s0 (putWay j w x s) := by
  unfold putWay
  repeat' (first | with_reducible assumption | with_reducible apply keeps_modSet)

theorem keeps_writeBackKey {s0 : State} (key : List Byte) (j : Nat) (w : Nat) {s : State} (hs : Keeps s0 s) : Keeps1 s0 (writeBackKey key j w s) := by
  unfold writeBackKey
  repeat' (first
      | with_reducible assumption | with_reducible apply keeps_touchRange | with_reducible apply keeps_putWay
      | with_reducible refine Keeps1.fst (keeps_phyRefuse ?_) | with_reducible refine Keeps1.fst (keeps_loseLine _ ?_)
      | refine Keeps1.get (keeps_chanStore _ _ _ ?_) (by assumption) | simp -proj only [Keeps.lit_iff] | split | with_reducible apply Keeps1.mk)

theorem keeps_writeBack {s0 : State} (j : Nat) (w : Nat) {s : State} (hs : Keeps s0 s) : Keeps1 s0 (writeBack j w s) := by
  unfold writeBack
  repeat' (first | with_reducible assumption | with_reducible refine Keeps1.fst (keeps_writeBackKey _ _ _ ?_) | with_reducible apply Keeps1.mk)

theorem keeps_allocWay {s0 : State} (n j : Nat) {s : State} (hs : Keeps s0 s) : Keeps1 s0 (allocWay n j s) := by
  induction n generalizing s with
  | zero => exact hs
  | succ n ih =>
    unfold allocWay
    split
    · exact hs
    · rename_i w _
      refine Keeps1.ite hs ?_
      have h := Keeps1.fst (keeps_writeBack j w hs)
      exact Keeps1.ite (keeps_dropWay _ _ h) (ih h)

theorem keeps_chanFetch {s0 : State} (A : Nat) {s : State} (hs : Keeps s0 s) : Keeps1 s0 (chanFetch A s) := by
  unfold chanFetch
  repeat' (first
      | with_reducible assumption | with_reducible apply keeps_logEvent | with_reducible apply keeps_stick
      | refine Keeps1.get (keeps_burstOk _ ?_) (by assumption) | split | with_reducible apply Keeps1.mk)

theorem keeps_fillWay {s0 : State} (j : Nat) (w : Nat) (A : Nat) (r : BstRes) (dirty : Bool) {s : State} (hs : Keeps s0 s) :
    Keeps s0 (fillWay j w A r dirty s) := by
  unfold fillWay
  repeat' (first
      | with_reducible assumption | with_reducible apply keeps_spWrite | with_reducible apply keeps_spWriteMarked
      | with_reducible apply keeps_touchWay | with_reducible apply keeps_putWay | split)

theorem keeps_missRead {s0 : State} (tag : Nat) (hint : Nat) (A : Nat) {s : State} (hs : Keeps s0 s) : Keeps1 s0 (missRead tag hint A s) := by
  unfold missRead
  repeat' (first
      | with_reducible assumption | with_reducible apply keeps_stick | with_reducible apply keeps_fillWay
      | with_reducible refine Keeps1.fst (keeps_phyRefuse ?_) | with_reducible refine Keeps1.fst (keeps_chanFetch _ ?_)
      | refine Keeps1.get (keeps_allocWay _ _ ?_) (by assumption) | simp -proj only [Keeps.lit_iff] | split | with_reducible apply Keeps1.mk)

theorem keeps_lineGate {s0 s : State} {A : Nat} {x : State × Byte} (hs : Keeps s0 s) (h : lineGate s A = some x) : Keeps s0 x.1 := by
  obtain ⟨j, -, h⟩ := Option.bind_eq_some_iff.1 h
  obtain ⟨y, hy, rfl⟩ := Option.map_eq_some_iff.1 h
  exact KeepsB.get' (keeps_memGate _ _ hs) hy

theorem keeps_bstReadLine {s0 : State} (tag hint A : Nat) {s : State} (hs : Keeps s0 s) : Keeps1 s0 (bstReadLine tag hint A s) := by
  unfold bstReadLine
  split
  · exact keeps_lineGate hs (by assumption)
  · split
    · have h := fun n a k => keeps_touchRange n a k hs
      exact Keeps1.ite (Keeps.ite (keeps_touchWay _ _ (h _ _ _)) (h _ _ _))
        (Keeps1.ite (Keeps.ite (keeps_touchWay _ _ (h _ _ _)) (h _ _ _)) (keeps_missRead _ _ _ (keeps_dropWay _ _ (h _ _ _))))
    · exact keeps_missRead _ _ _ hs

theorem keeps_endLast {s0 : State} (A : Nat) {s : State} (hs : Keeps s0 s) : Keeps s0 (endLast A s) := by
  unfold endLast
  repeat' (first | with_reducible assumption | with_reducible apply keeps_dropWay | split)

theorem keeps_writeAround {s0 : State} (A : Nat) (o : Nat) (bs : List Byte) (bad : Bool) {s : State} (hs : Keeps s0 s) :
    Keeps1 s0 (writeAround A o bs bad s) := by
  unfold writeAround
  repeat' (first
      | with_reducible assumption | with_reducible apply keeps_writeDev | with_reducible refine Keeps1.fst (keeps_phyRefuse ?_)
      | with_reducible refine Keeps1.fst (keeps_loseLine _ ?_) | split | with_reducible apply Keeps1.mk)

theorem keeps_storeAround {s0 : State} (A : Nat) (o : Nat) (bs : List Byte) (bad : Bool) {s : State} (hs : Keeps s0 s) :
    Keeps1 s0 (storeAround A o bs bad s) := by
  unfold storeAround
  repeat' (first
      | with_reducible assumption | with_reducible refine Keeps1.fst (keeps_phyRefuse ?_) | with_reducible refine Keeps1.fst (keeps_chanFetch _ ?_)
      | with_reducible refine Keeps1.fst (keeps_loseLine _ ?_) | with_reducible refine Keeps1.fst (keeps_chanStore _ _ _ ?_) | split
      | with_reducible apply Keeps1.mk)

theorem keeps_missWrite {s0 : State} (tag : Nat) (hint : Nat) (A : Nat) (o : Nat) (bs : List Byte) (bad : Bool) {s : State} (hs : Keeps s0 s) :
    Keeps1 s0 (missWrite tag hint A o bs bad s) := by
  unfold missWrite
  repeat' (first
      | with_reducible assumption | with_reducible apply keeps_stick | with_reducible apply keeps_fillWay | with_reducible apply keeps_spWriteMarked
      | with_reducible apply keeps_spWrite | with_reducible refine Keeps1.fst (keeps_storeAround _ _ _ _ ?_)
      | with_reducible refine Keeps1.fst (keeps_phyRefuse ?_) | refine Keeps1.get (keeps_allocWay _ _ ?_) (by assumption)
      | with_reducible refine Keeps1.fst (keeps_chanFetch _ ?_) | simp -proj only [Keeps.lit_iff] | split | with_reducible apply Keeps1.mk)

theorem keeps_bstWriteLine {s0 : State} (tag hint A o : Nat) (bs : List Byte) (bad : Bool) {s : State} (hs : Keeps s0 s) :
    Keeps1 s0 (bstWriteLine tag hint A o bs bad s) := by
  unfold bstWriteLine
  split
  · exact keeps_lineGate hs (by assumption)
  split
  · rename_i j w _
    have h : Keeps s0 (if anyBad s (wayAddr s j w) 128 = true then touchRange 2 (wayAddr s j w) 128 s else s) :=
      Keeps.ite (keeps_touchRange _ _ _ hs) hs
    refine Keeps1.ite (keeps_missWrite _ _ _ _ _ _ (keeps_dropWay _ _ h)) ?_
    have k : Keeps s0 (if bad then spWriteMarked (wayAddr s j w + o) bs _ else spWrite 2 (wayAddr s j w + o) bs _) :=
      Keeps.ite (keeps_spWriteMarked _ _ h) (keeps_spWrite _ _ _ h)
    exact Keeps.ite (keeps_touchWay _ _ (keeps_putWay _ _ _ k)) (keeps_putWay _ _ _ k)
  · exact keeps_missWrite _ _ _ _ _ _ hs

theorem keeps_bstRead {s0 : State} (tag : Nat) (hint : Nat) (a : Nat) (n : Nat) {s : State} (hs : Keeps s0 s) :
    Keeps1 s0 (bstRead tag hint a n s) := by
  unfold bstRead
  repeat' (first
      | with_reducible assumption | with_reducible refine Keeps1.fst (keeps_bstReadLine _ _ _ ?_) | with_reducible exact Keeps1.fst ht
      | with_reducible refine Keeps1.fst (Keeps1.foldl (fun t x ht => ?_) _ ?_) | split | with_reducible apply Keeps1.mk)

theorem keeps_bstWrite {s0 : State} (tag : Nat) (hint : Nat) (a : Nat) (bs : List Byte) (bad : Bool) {s : State} (hs : Keeps s0 s) :
    Keeps1 s0 (bstWrite tag hint a bs bad s) := by
  unfold bstWrite
  repeat' (first
      | with_reducible assumption | with_reducible refine Keeps1.fst (keeps_bstWriteLine _ _ _ _ _ _ ?_) | with_reducible exact Keeps1.fst ht
      | with_reducible refine Keeps1.fst (Keeps1.foldl (fun t x ht => ?_) _ ?_) | split | with_reducible apply Keeps1.mk)

theorem keeps_flushSets {s0 : State} (lo : Nat) (hi : Nat) {s : State} (hs : Keeps s0 s) : Keeps s0 (flushSets lo hi s) := by
  unfold flushSets
  repeat' (first
      | with_reducible assumption | with_reducible refine Keeps.foldl (fun t x ht => ?_) _ ?_
      | with_reducible refine Keeps1.fst (keeps_writeBack _ _ ?_))

theorem keeps_flushWait {s0 : State} (lo : Nat) (hi : Nat) {s : State} (hs : Keeps s0 s) : KeepsS s0 (flushWait lo hi s) := by
  unfold flushWait
  repeat' (first
      | with_reducible assumption | with_reducible exact KeepsS.none | with_reducible apply KeepsS.some
      | with_reducible refine Keeps1.fst (keeps_phyRefuse ?_) | split)

theorem keeps_dropSets {s0 : State} (lo : Nat) (hi : Nat) {s : State} (hs : Keeps s0 s) : Keeps s0 (dropSets lo hi s) := by
  unfold dropSets
  repeat' (first | with_reducible assumption | with_reducible apply keeps_modBst)

/-! Machine/CellOps.lean -/

theorem keeps_modCell {s0 : State} (f : CellSt → CellSt) {s : State} (hs : Keeps s0 s) : Keeps s0 (modCell f s) := by
  unfold modCell
  repeat' (first | assumption | apply Keeps.at | simp -proj only [Keeps.lit_iff])

theorem keeps_modPort {s0 : State} (n : Nat) (f : PortSt → PortSt) {s : State} (hs : Keeps s0 s) : Keeps s0 (modPort n f s) := by
  unfold modPort
  repeat' (first | assumption | apply Keeps.at | simp -proj only [Keeps.lit_iff])

theorem keeps_reroute {s0 : State} {s : State} (hs : Keeps s0 s) : Keeps s0 (reroute s) := by
  unfold reroute
  repeat' (first | assumption | apply keeps_modCell | apply keeps_stick | simp -proj only [Keeps.lit_iff] | split)

/-! Machine/LinkOps.lean -/

theorem keeps_sendFrame {s0 : State} (n : Nat) (f : OutFrame) {s : State} (hs : Keeps s0 s) : Keeps s0 (sendFrame n f s) := by
  unfold sendFrame
  repeat' (first | with_reducible assumption | with_reducible apply keeps_modPort | with_reducible apply Keeps.at | simp -proj only [Keeps.lit_iff])

theorem keeps_sendTrain {s0 : State} (n : Nat) (rec : List Byte) (tag : List Byte) {s : State} (hs : Keeps s0 s) :
    Keeps s0 (sendTrain n rec tag s) := by
  unfold sendTrain
  repeat' (first | with_reducible assumption | with_reducible apply Keeps.at | simp -proj only [Keeps.lit_iff])

theorem keeps_sendEmpty {s0 : State} (n : Nat) (nak : Bool) {s : State} (hs : Keeps s0 s) : Keeps s0 (sendEmpty n nak s) := by
  unfold sendEmpty
  repeat' (first | with_reducible assumption | with_reducible apply keeps_sendFrame)

theorem keeps_txSwitch {s0 : State} (n : Nat) {s : State} (hs : Keeps s0 s) : Keeps s0 (txSwitch n s) := by
  unfold txSwitch
  repeat' (first
      | with_reducible assumption | with_reducible apply keeps_stick | with_reducible apply keeps_logEvent | with_reducible apply keeps_modPort
      | split)

theorem keeps_linkPump {s0 : State} (a_____internal__hyg_0 : Nat) (y1 : Nat) {y2 : State} (hy2 : Keeps s0 y2) :
    Keeps s0 (linkPump a_____internal__hyg_0 y1 y2) := by
  induction a_____internal__hyg_0 generalizing y1 y2 with
  | zero => unfold linkPump; repeat' (first
      | with_reducible assumption | with_reducible exact Keeps.refl _ | with_reducible apply ih | with_reducible refine Keeps1.fst (ih ?_)
      | with_reducible apply keeps_modPort | with_reducible apply keeps_sendFrame | with_reducible apply keeps_txSwitch
      | with_reducible apply Keeps.ite | with_reducible refine Keeps.foldl (fun t x ht => ?_) _ ?_ | with_reducible apply Keeps.at
      | with_reducible apply Keeps.atClear | with_reducible apply Keeps.atNew | simp -proj only [Keeps.lit_iff] | split)
  | succ n ih => unfold linkPump; repeat' (first
      | with_reducible assumption | with_reducible exact Keeps.refl _ | with_reducible apply ih | with_reducible refine Keeps1.fst (ih ?_)
      | with_reducible apply keeps_modPort | with_reducible apply keeps_sendFrame | with_reducible apply keeps_txSwitch
      | with_reducible apply Keeps.ite | with_reducible refine Keeps.foldl (fun t x ht => ?_) _ ?_ | with_reducible apply Keeps.at
      | with_reducible apply Keeps.atClear | with_reducible apply Keeps.atNew | simp -proj only [Keeps.lit_iff] | split)

theorem keeps_linkSend {s0 : State} (n : Nat) (q : Packet) (data : List Byte) {s : State} (hs : Keeps s0 s) : Keeps s0 (linkSend n q data s) := by
  unfold linkSend
  repeat' (first | with_reducible assumption | with_reducible apply keeps_modPort | with_reducible apply keeps_linkPump)

theorem keeps_portRespond {s0 : State} (n : Nat) (x : Nat) (rsp : Packet) (data : List Byte) {s : State} (hs : Keeps s0 s) :
    Keeps s0 (portRespond n x rsp data s) := by
  unfold portRespond
  repeat' (first
      | with_reducible assumption | with_reducible apply keeps_freeEntry | with_reducible apply keeps_bump | with_reducible apply keeps_linkSend
      | simp -proj only [Keeps.lit_iff] | split)

theorem keeps_completeFwd {s0 : State} (q : Packet) (code : Byte) (data : List Byte) (poison : Nat) (hint : Nat) {s : State} (hs : Keeps s0 s) :
    Keeps s0 (completeFwd q code data poison hint s) := by
  unfold completeFwd
  repeat' (first
      | with_reducible assumption | with_reducible apply keeps_portRespond | with_reducible apply keeps_answer | simp -proj only [Keeps.lit_iff]
      | split)

theorem keeps_forwardNow {s0 : State} (n : Nat) (q : Packet) (data : List Byte) {s : State} (hs : Keeps s0 s) : Keeps s0 (forwardNow n q data s) := by
  unfold forwardNow
  repeat' (first | with_reducible assumption | with_reducible apply keeps_linkSend | with_reducible apply keeps_modPort)

theorem keeps_forward {s0 : State} (n : Nat) (q : Packet) (data : List Byte) {s : State} (hs : Keeps s0 s) : Keeps s0 (forward n q data s) := by
  unfold forward
  repeat' (first | with_reducible assumption | with_reducible apply keeps_modPort | with_reducible apply keeps_forwardNow | split)

theorem keeps_fwdNext {s0 : State} (n : Nat) {s : State} (hs : Keeps s0 s) : Keeps s0 (fwdNext n s) := by
  unfold fwdNext
  repeat' (first | with_reducible assumption | with_reducible apply keeps_forwardNow | with_reducible apply keeps_modPort | split)

theorem keeps_endForward {s0 : State} (n : Nat) (q : Packet) (data : List Byte) {s : State} (hs : Keeps s0 s) : Keeps s0 (endForward n q data s) := by
  unfold endForward
  repeat' (first | with_reducible assumption | with_reducible apply keeps_completeFwd | with_reducible apply keeps_forward | split)

theorem keeps_unheldAnswer {s0 : State} (q : Packet) {s : State} (hs : Keeps s0 s) : KeepsS s0 (unheldAnswer q s) := by
  unfold unheldAnswer
  repeat' (first
      | with_reducible assumption | with_reducible exact KeepsS.none | with_reducible apply KeepsS.some | with_reducible apply keeps_completeFwd
      | split)

theorem keeps_noRoute {s0 : State} (q : Packet) {s : State} (hs : Keeps s0 s) : Keeps s0 (noRoute q s) := by
  unfold noRoute
  repeat' (first
      | with_reducible assumption | with_reducible apply keeps_completeFwd | refine KeepsS.get (keeps_unheldAnswer _ ?_) (by assumption) | split)

theorem keeps_portSend {s0 : State} (n : Nat) (q : Packet) (data : List Byte) {s : State} (hs : Keeps s0 s) : Keeps s0 (portSend n q data s) := by
  unfold portSend
  repeat' (first
      | with_reducible assumption | with_reducible apply keeps_completeFwd | with_reducible apply keeps_forward
      | with_reducible apply keeps_endForward | refine KeepsS.get (keeps_unheldAnswer _ ?_) (by assumption) | split)

theorem keeps_portAccept {s0 : State} (n : Nat) (data : List Byte) (q : Packet) {s : State} (hs : Keeps s0 s) : Keeps s0 (portAccept n data q s) := by
  unfold portAccept
  repeat' (first
      | with_reducible assumption | with_reducible apply keeps_answer | with_reducible apply keeps_logEvent | with_reducible apply keeps_portSend
      | refine KeepsS.get (keeps_gateUnit _ _ ?_) (by assumption) | simp -proj only [Keeps.lit_iff] | split)

theorem keeps_moveEntry {s0 : State} (n : Nat) (q : Packet) {s : State} (hs : Keeps s0 s) : Keeps s0 (moveEntry n q s) := by
  unfold moveEntry
  repeat' (first | with_reducible assumption | with_reducible apply keeps_putEntry | split)

theorem keeps_portRequest {s0 : State} (data : List Byte) (q : Packet) {s : State} (hs : Keeps s0 s) : Keeps s0 (portRequest data q s) := by
  unfold portRequest
  repeat' (first
      | with_reducible assumption | with_reducible apply keeps_unitRefuse | with_reducible apply keeps_noRoute
      | with_reducible apply keeps_portAccept | with_reducible apply keeps_moveEntry | simp -proj only [Keeps.lit_iff] | split)

theorem keeps_viaPort {s0 : State} (data : List Byte) {f : Packet → State → State} (q : Packet) {s : State} (hf : ∀ z0 z1, Keeps s0 z1 → Keeps s0
    (f z0 z1)) (hs : Keeps s0 s) :
    Keeps s0 (viaPort data f q s) := by
  unfold viaPort
  repeat' (first | with_reducible assumption | with_reducible apply keeps_portRequest | with_reducible apply hf | split)

theorem keeps_freeBuffers {s0 : State} (n : Nat) (q : Packet) {s : State} (hs : Keeps s0 s) : Keeps s0 (freeBuffers n q s) := by
  unfold freeBuffers
  repeat' (first | with_reducible assumption | with_reducible apply keeps_modPort)

theorem keeps_linkServe {s0 : State} (n : Nat) (q : Packet) (data : List Byte) {s : State} (hs : Keeps s0 s) : Keeps s0 (linkServe n q data s) := by
  unfold linkServe
  repeat' (first
      | with_reducible assumption | with_reducible apply keeps_freeBuffers | with_reducible apply keeps_putEntry
      | with_reducible apply keeps_portRespond | with_reducible apply keeps_logEvent | with_reducible apply keeps_portSend
      | with_reducible apply keeps_noRoute | with_reducible apply Keeps.at | simp -proj only [Keeps.lit_iff] | split)

theorem keeps_linkDeliver {s0 : State} (n : Nat) (q : Packet) (data : List Byte) {s : State} (hs : Keeps s0 s) :
    Keeps s0 (linkDeliver n q data s) := by
  unfold linkDeliver
  repeat' (first
      | with_reducible assumption | with_reducible apply keeps_stick | with_reducible apply keeps_freeBuffers | with_reducible apply keeps_bump
      | with_reducible apply keeps_fwdNext | with_reducible apply keeps_reroute | with_reducible apply keeps_completeFwd
      | with_reducible apply keeps_modPort | with_reducible apply keeps_linkServe | simp -proj only [Keeps.lit_iff] | split)

theorem keeps_takeSlot {s0 : State} (n : Nat) (x : Slot) {s : State} (hs : Keeps s0 s) : Keeps s0 (takeSlot n x s) := by
  unfold takeSlot
  repeat' (first
      | with_reducible assumption | with_reducible apply keeps_linkDeliver | with_reducible apply keeps_modPort | simp -proj only [Keeps.lit_iff]
      | split)

theorem keeps_linkRetake {s0 : State} (n : Nat) {s : State} (hs : Keeps s0 s) : Keeps s0 (linkRetake n s) := by
  unfold linkRetake
  repeat' (first
      | with_reducible assumption | with_reducible apply keeps_linkServe | with_reducible apply keeps_modPort | simp -proj only [Keeps.lit_iff]
      | split)

theorem keeps_portPump {s0 : State} (n : Nat) {s : State} (hs : Keeps s0 s) : Keeps s0 (portPump n s) := by
  unfold portPump
  repeat' (first
      | with_reducible assumption | with_reducible apply keeps_linkRetake | with_reducible apply keeps_fwdNext
      | with_reducible refine Keeps.foldl (fun t x ht => ?_) _ ?_)

theorem keeps_loseEntries {s0 : State} (n : Nat) {s : State} (hs : Keeps s0 s) : Keeps s0 (loseEntries n s) := by
  unfold loseEntries
  repeat' (first | with_reducible assumption | with_reducible apply keeps_modNi)

theorem keeps_endForwards {s0 : State} (n : Nat) (resend : Bool) {s : State} (hs : Keeps s0 s) : Keeps s0 (endForwards n resend s) := by
  unfold endForwards
  repeat' (first
      | with_reducible assumption | with_reducible apply keeps_modPort | with_reducible apply keeps_endForward
      | with_reducible apply keeps_completeFwd | with_reducible refine Keeps.foldl (fun t x ht => ?_) _ ?_ | split)

theorem keeps_loseLink {s0 : State} (n : Nat) (cause : Nat) {s : State} (hs : Keeps s0 s) : Keeps s0 (loseLink n cause s) := by
  unfold loseLink
  repeat' (first
      | with_reducible assumption | with_reducible apply keeps_sendFrame | with_reducible apply keeps_modPort | with_reducible apply keeps_stick
      | with_reducible apply keeps_bump | with_reducible apply keeps_logEvent | with_reducible apply keeps_reroute
      | with_reducible apply keeps_endForwards | with_reducible apply keeps_loseEntries | split)

theorem keeps_darkPort {s0 : State} (n : Nat) {s : State} (hs : Keeps s0 s) : Keeps s0 (darkPort n s) := by
  unfold darkPort
  repeat' (first | with_reducible assumption | with_reducible apply keeps_reroute | with_reducible apply keeps_modPort)

theorem keeps_portDown {s0 : State} (n : Nat) (reason : Nat) {s : State} (hs : Keeps s0 s) : Keeps s0 (portDown n reason s) := by
  unfold portDown
  repeat' (first
      | with_reducible assumption | with_reducible apply keeps_modPort | with_reducible apply keeps_stick | with_reducible apply keeps_logEvent
      | with_reducible apply keeps_modCell)

theorem keeps_attemptFail {s0 : State} (n : Nat) (reason : Nat) {s : State} (hs : Keeps s0 s) : Keeps s0 (attemptFail n reason s) := by
  unfold attemptFail
  repeat' (first
      | with_reducible assumption | with_reducible apply keeps_modPort | with_reducible apply keeps_portDown | simp -proj only [Keeps.lit_iff]
      | split)

theorem keeps_enterState {s0 : State} (n : Nat) (t : TrainSt) {s : State} (hs : Keeps s0 s) : Keeps s0 (enterState n t s) := by
  unfold enterState
  repeat' (first
      | with_reducible assumption | with_reducible apply keeps_modPort | with_reducible apply keeps_tickFree | with_reducible apply keeps_sendTrain
      | with_reducible apply keeps_sendEmpty | split)

theorem keeps_startAttempt {s0 : State} (n : Nat) {s : State} (hs : Keeps s0 s) : Keeps s0 (startAttempt n s) := by
  unfold startAttempt
  repeat' (first | with_reducible assumption | with_reducible apply keeps_enterState | with_reducible apply keeps_modPort)

theorem keeps_openPort {s0 : State} (n : Nat) {s : State} (hs : Keeps s0 s) : Keeps s0 (openPort n s) := by
  unfold openPort
  repeat' (first
      | with_reducible assumption | with_reducible apply keeps_modPort | with_reducible apply keeps_startAttempt | simp -proj only [Keeps.lit_iff]
      | split)

end Sys2Proof.Machine
end

