-- ==== Sys2Proof/Laws/KeepWork.lean ====
section
/-!
SUPPORT. Laws/KeepWork.lean: every operation on collectives, solver, operands and partitions keeps what `Keeps` says.
-/
namespace Sys2Proof.Machine

/-! Machine/CollOps.lean -/

theorem keeps_modColl {s0 : State} (p : Nat) (f : CollPart → CollPart) {s : State} (hs : Keeps s0 s) : Keeps s0 (modColl p f s) := by
  unfold modColl
  repeat' (first | with_reducible assumption | with_reducible apply Keeps.at | simp -proj only [Keeps.lit_iff])

theorem keeps_modRun {s0 : State} (p : Nat) (f : Coll → Coll) {s : State} (hs : Keeps s0 s) : Keeps s0 (modRun p f s) := by
  unfold modRun
  repeat' (first | with_reducible assumption | with_reducible apply keeps_modColl)

theorem keeps_vecTouch {s0 : State} (p : Nat) (O : Nat) (L : Nat) (off : Nat) (n : Nat) {s : State} (hs : Keeps s0 s) :
    Keeps s0 (vecTouch p O L off n s) := by
  unfold vecTouch
  repeat' (first | with_reducible assumption | with_reducible apply keeps_touchRange | with_reducible refine Keeps.foldl (fun t x ht => ?_) _ ?_)

theorem keeps_vecWrite {s0 : State} (p : Nat) (O : Nat) (L : Nat) (off : Nat) (bs : List Byte) (bad : List Nat) {s : State} (hs : Keeps s0 s) :
    Keeps s0 (vecWrite p O L off bs bad s) := by
  unfold vecWrite
  repeat' (first
      | with_reducible assumption | with_reducible apply keeps_spWriteMarked | with_reducible apply keeps_spWrite
      | with_reducible refine Keeps.foldl (fun t x ht => ?_) _ ?_ | split)

theorem keeps_vecCopy {s0 : State} (p : Nat) (O : Nat) (L : Nat) (off : Nat) (O' : Nat) (L' : Nat) (off' : Nat) (n : Nat) {s : State}
    (hs : Keeps s0 s) :
    Keeps s0 (vecCopy p O L off O' L' off' n s) := by
  unfold vecCopy
  repeat' (first | with_reducible assumption | with_reducible apply keeps_vecWrite | with_reducible apply keeps_vecTouch)

theorem keeps_vecScramble {s0 : State} (p : Nat) (O : Nat) (L : Nat) {s : State} (hs : Keeps s0 s) : Keeps s0 (vecScramble p O L s) := by
  unfold vecScramble
  repeat' (first | with_reducible assumption | with_reducible apply keeps_vecWrite | with_reducible apply keeps_tickFree)

theorem keeps_collPut {s0 : State} (ks : List CollPkt) {s : State} (hs : Keeps s0 s) : Keeps s0 (collPut ks s) := by
  unfold collPut
  repeat' (first | with_reducible assumption | with_reducible apply Keeps.at | simp -proj only [Keeps.lit_iff])

theorem keeps_putCctl {s0 : State} (p : Nat) (c : Coll) (i : Nat) (last : Bool) (arg : List Byte) {s : State} (hs : Keeps s0 s) :
    Keeps s0 (putCctl p c i last arg s) := by
  unfold putCctl
  repeat' (first | with_reducible assumption | with_reducible apply keeps_collPut)

theorem keeps_collUnsend {s0 : State} (p : Nat) (seq : Nat) {s : State} (hs : Keeps s0 s) : Keeps s0 (collUnsend p seq s) := by
  unfold collUnsend
  repeat' (first | with_reducible assumption | with_reducible apply Keeps.at | simp -proj only [Keeps.lit_iff])

theorem keeps_collDispatch {s0 : State} (x : Nat) (e : NiEntry) {s : State} (hs : Keeps s0 s) : Keeps s0 (collDispatch x e s) := by
  unfold collDispatch
  repeat' (first
      | with_reducible assumption | with_reducible apply keeps_putEntry | with_reducible apply keeps_completeFwd
      | with_reducible apply keeps_portRequest | with_reducible apply Keeps.at | refine KeepsS.get (keeps_unheldAnswer _ ?_) (by assumption)
      | simp -proj only [Keeps.lit_iff] | split)

theorem keeps_collSend {s0 : State} (q : Packet) (data : List Byte) (use : NiUse) {s : State} (hs : Keeps s0 s) :
    Keeps s0 (collSend q data use s) := by
  unfold collSend
  repeat' (first | with_reducible assumption | with_reducible apply keeps_collDispatch)

theorem keeps_collPump {s0 : State} (a_____internal__hyg_0 : Nat) {y1 : State} (hy1 : Keeps s0 y1) :
    Keeps s0 (collPump a_____internal__hyg_0 y1) := by
  induction a_____internal__hyg_0 generalizing y1 with
  | zero => unfold collPump; repeat' (first
      | with_reducible assumption | with_reducible exact Keeps.refl _ | with_reducible apply ih | with_reducible refine Keeps1.fst (ih ?_)
      | with_reducible apply keeps_collSend | with_reducible apply Keeps.ite | with_reducible refine Keeps.foldl (fun t x ht => ?_) _ ?_
      | with_reducible apply Keeps.at | with_reducible apply Keeps.atClear | with_reducible apply Keeps.atNew | simp -proj only [Keeps.lit_iff]
      | split)
  | succ n ih => unfold collPump; repeat' (first
      | with_reducible assumption | with_reducible exact Keeps.refl _ | with_reducible apply ih | with_reducible refine Keeps1.fst (ih ?_)
      | with_reducible apply keeps_collSend | with_reducible apply Keeps.ite | with_reducible refine Keeps.foldl (fun t x ht => ?_) _ ?_
      | with_reducible apply Keeps.at | with_reducible apply Keeps.atClear | with_reducible apply Keeps.atNew | simp -proj only [Keeps.lit_iff]
      | split)

theorem keeps_collFlush {s0 : State} {s : State} (hs : Keeps s0 s) : Keeps s0 (collFlush s) := by
  unfold collFlush
  repeat' (first | with_reducible assumption | with_reducible apply keeps_collPump)

theorem keeps_collEvent {s0 : State} (p : Nat) (code : Byte) (detail : Nat) (member : Nat) (ctag : Nat) (bit : Nat) {s : State} (hs : Keeps s0 s) :
    Keeps s0 (collEvent p code detail member ctag bit s) := by
  unfold collEvent
  repeat' (first | with_reducible assumption | with_reducible apply keeps_setReg | with_reducible apply keeps_stick | split)

theorem keeps_collRecord {s0 : State} (p : Nat) (c : Coll) (code : Byte) (detail : Nat) (member : Nat) (w2 : Nat) (w4 : Nat) {s : State}
    (hs : Keeps s0 s) :
    Keeps s0 (collRecord p c code detail member w2 w4 s) := by
  unfold collRecord
  repeat' (first | with_reducible assumption | with_reducible apply keeps_spWrite | split)

theorem keeps_openGates {s0 : State} (p : Nat) (ctag : Nat) {s : State} (hs : Keeps s0 s) : Keeps s0 (openGates p ctag s) := by
  unfold openGates
  repeat' (first | with_reducible assumption | with_reducible apply keeps_modPart)

theorem keeps_collAborts {s0 : State} (p : Nat) (c : Coll) (code : Byte) {s : State} (hs : Keeps s0 s) : Keeps s0 (collAborts p c code s) := by
  unfold collAborts
  repeat' (first
      | with_reducible assumption | with_reducible apply keeps_collUnsend | with_reducible apply keeps_putCctl
      | with_reducible refine Keeps.foldl (fun t x ht => ?_) _ ?_ | split)

theorem keeps_collFinish {s0 : State} (p : Nat) (c : Coll) (code : Byte) (detail : Nat) (member : Nat) {s : State} (hs : Keeps s0 s) :
    Keeps s0 (collFinish p c code detail member s) := by
  unfold collFinish
  repeat' (first
      | with_reducible assumption | with_reducible apply keeps_vecScramble | with_reducible apply keeps_collRecord
      | with_reducible apply keeps_openGates | with_reducible apply keeps_bump | with_reducible apply keeps_modColl
      | with_reducible apply keeps_collAborts | with_reducible apply keeps_collEvent | with_reducible apply keeps_logEvent
      | with_reducible apply Keeps.ite)

theorem keeps_openFence {s0 : State} (p : Nat) {s : State} (hs : Keeps s0 s) : Keeps s0 (openFence p s) := by
  unfold openFence
  repeat' (first | with_reducible assumption | with_reducible apply keeps_modColl | split)

theorem keeps_collEnd {s0 : State} (p : Nat) (code : Byte) (detail : Nat) (member : Nat) {s : State} (hs : Keeps s0 s) :
    Keeps s0 (collEnd p code detail member s) := by
  unfold collEnd
  repeat' (first
      | with_reducible assumption | with_reducible apply keeps_collFinish | with_reducible apply keeps_modColl | with_reducible apply keeps_openFence
      | with_reducible refine Keeps.foldl (fun t x ht => ?_) _ ?_ | split)

theorem keeps_collEndAll {s0 : State} (p : Nat) (code : Byte) (detail : Nat) {s : State} (hs : Keeps s0 s) :
    Keeps s0 (collEndAll p code detail s) := by
  unfold collEndAll
  repeat' (first
      | with_reducible assumption | with_reducible apply keeps_collEnd | with_reducible apply keeps_modColl | with_reducible apply keeps_collFlush
      | with_reducible apply keeps_openFence | with_reducible apply keeps_collFinish | with_reducible refine Keeps.foldl (fun t x ht => ?_) _ ?_
      | split)

theorem keeps_putData {s0 : State} (p : Nat) (c : Coll) (i : Nat) (place : Nat → Nat) (data : List Byte) (bad : Nat → Nat → Bool) {s : State}
    (hs : Keeps s0 s) :
    Keeps s0 (putData p c i place data bad s) := by
  unfold putData
  repeat' (first | with_reducible assumption | with_reducible apply keeps_collPut)

theorem keeps_putDone {s0 : State} (p : Nat) (c : Coll) (i : Nat) {s : State} (hs : Keeps s0 s) : Keeps s0 (putDone p c i s) := by
  unfold putDone
  repeat' (first | with_reducible assumption | with_reducible apply keeps_putCctl)

theorem keeps_putReady {s0 : State} (p : Nat) (c : Coll) (i : Nat) {s : State} (hs : Keeps s0 s) : Keeps s0 (putReady p c i s) := by
  unfold putReady
  repeat' (first | with_reducible assumption | with_reducible apply keeps_putCctl)

theorem keeps_notePoison {s0 : State} (p : Nat) (b : Bool) {s : State} (hs : Keeps s0 s) : Keeps s0 (notePoison p b s) := by
  unfold notePoison
  repeat' (first | with_reducible assumption | with_reducible apply keeps_modRun | split)

theorem keeps_sendTo {s0 : State} (p : Nat) (c : Coll) (i : Nat) {s : State} (hs : Keeps s0 s) : Keeps s0 (sendTo p c i s) := by
  unfold sendTo
  repeat' (first
      | with_reducible assumption | with_reducible apply keeps_putDone | with_reducible apply keeps_putData | with_reducible apply keeps_vecTouch
      | with_reducible apply keeps_notePoison | with_reducible apply keeps_modRun | split)

theorem keeps_takeData {s0 : State} (p : Nat) (c : Coll) (d : CollData) {s : State} (hs : Keeps s0 s) : Keeps s0 (takeData p c d s) := by
  unfold takeData
  repeat' (first
      | with_reducible assumption | with_reducible apply keeps_notePoison | with_reducible apply keeps_vecWrite | with_reducible apply keeps_modRun
      | simp -proj only [Keeps.lit_iff] | split)

theorem keeps_phaseInit {s0 : State} (p : Nat) {s : State} (hs : Keeps s0 s) : Keeps s0 (phaseInit p s) := by
  unfold phaseInit
  repeat' (first
      | with_reducible assumption | with_reducible apply keeps_notePoison | with_reducible apply keeps_vecCopy | with_reducible apply keeps_vecTouch
      | with_reducible apply keeps_modRun | split)

theorem keeps_phaseFold {s0 : State} (p : Nat) (c : Coll) {s : State} (hs : Keeps s0 s) : Keeps s0 (phaseFold p c s) := by
  unfold phaseFold
  repeat' (first | with_reducible assumption | with_reducible apply keeps_modRun | with_reducible apply keeps_vecWrite | split)

theorem keeps_collMove {s0 : State} (p : Nat) {s : State} (hs : Keeps s0 s) : KeepsS s0 (collMove p s) := by
  unfold collMove
  repeat' (first
      | with_reducible assumption | with_reducible exact KeepsS.none | with_reducible apply KeepsS.some | with_reducible apply keeps_collEnd
      | with_reducible apply keeps_spWrite | with_reducible apply keeps_notePoison | with_reducible apply keeps_vecCopy
      | with_reducible apply keeps_modRun | with_reducible apply keeps_sendTo | with_reducible apply keeps_takeData
      | with_reducible apply keeps_phaseFold | simp -proj only [Keeps.lit_iff] | split)

theorem keeps_collRun {s0 : State} (a_____internal__hyg_0 : Nat) (y1 : Nat) {y2 : State} (hy2 : Keeps s0 y2) :
    Keeps s0 (collRun a_____internal__hyg_0 y1 y2) := by
  induction a_____internal__hyg_0 generalizing y1 y2 with
  | zero => unfold collRun; repeat' (first
      | with_reducible assumption | with_reducible exact Keeps.refl _ | with_reducible apply ih | with_reducible refine Keeps1.fst (ih ?_)
      | with_reducible apply keeps_collMove | with_reducible apply Keeps.ite | with_reducible refine Keeps.foldl (fun t x ht => ?_) _ ?_
      | with_reducible apply Keeps.at | with_reducible apply Keeps.atClear | with_reducible apply Keeps.atNew
      | refine KeepsS.get (keeps_collMove _ ?_) (by assumption) | simp -proj only [Keeps.lit_iff] | split)
  | succ n ih => unfold collRun; repeat' (first
      | with_reducible assumption | with_reducible exact Keeps.refl _ | with_reducible apply ih | with_reducible refine Keeps1.fst (ih ?_)
      | with_reducible apply keeps_collMove | with_reducible apply Keeps.ite | with_reducible refine Keeps.foldl (fun t x ht => ?_) _ ?_
      | with_reducible apply Keeps.at | with_reducible apply Keeps.atClear | with_reducible apply Keeps.atNew
      | refine KeepsS.get (keeps_collMove _ ?_) (by assumption) | simp -proj only [Keeps.lit_iff] | split)

theorem keeps_takeReady {s0 : State} (p : Nat) (c : Coll) (r : ReadyRec) (t : Nat) {s : State} (hs : Keeps s0 s) :
    Keeps s0 (takeReady p c r t s) := by
  unfold takeReady
  repeat' (first
      | with_reducible assumption | with_reducible apply keeps_collEnd | with_reducible apply keeps_modRun | simp -proj only [Keeps.lit_iff] | split)

theorem keeps_gatherIssue {s0 : State} (a_____internal__hyg_0 : Nat) (y1 : Nat) {y2 : State} (hy2 : Keeps s0 y2) :
    Keeps s0 (gatherIssue a_____internal__hyg_0 y1 y2) := by
  induction a_____internal__hyg_0 generalizing y1 y2 with
  | zero => unfold gatherIssue; repeat' (first
      | with_reducible assumption | with_reducible exact Keeps.refl _ | with_reducible apply ih | with_reducible refine Keeps1.fst (ih ?_)
      | with_reducible apply keeps_modRun | with_reducible apply keeps_collSend | with_reducible apply Keeps.ite
      | with_reducible refine Keeps.foldl (fun t x ht => ?_) _ ?_ | with_reducible apply Keeps.at | with_reducible apply Keeps.atClear
      | with_reducible apply Keeps.atNew | simp -proj only [Keeps.lit_iff] | split)
  | succ n ih => unfold gatherIssue; repeat' (first
      | with_reducible assumption | with_reducible exact Keeps.refl _ | with_reducible apply ih | with_reducible refine Keeps1.fst (ih ?_)
      | with_reducible apply keeps_modRun | with_reducible apply keeps_collSend | with_reducible apply Keeps.ite
      | with_reducible refine Keeps.foldl (fun t x ht => ?_) _ ?_ | with_reducible apply Keeps.at | with_reducible apply Keeps.atClear
      | with_reducible apply Keeps.atNew | simp -proj only [Keeps.lit_iff] | split)

theorem keeps_collGo {s0 : State} (p : Nat) {s : State} (hs : Keeps s0 s) : Keeps s0 (collGo p s) := by
  unfold collGo
  repeat' (first
      | with_reducible assumption | with_reducible apply keeps_gatherIssue | with_reducible apply keeps_collFlush
      | with_reducible apply keeps_collRun | with_reducible refine Keeps.foldl (fun t x ht => ?_) _ ?_ | split)

theorem keeps_pendDrop {s0 : State} (p : Nat) (ctag : Nat) {s : State} (hs : Keeps s0 s) : Keeps s0 (pendDrop p ctag s) := by
  unfold pendDrop
  repeat' (first | with_reducible assumption | with_reducible apply Keeps.at | simp -proj only [Keeps.lit_iff])

theorem keeps_collStart {s0 : State} (p : Nat) {s : State} (hs : Keeps s0 s) : Keeps s0 (collStart p s) := by
  unfold collStart
  repeat' (first
      | with_reducible assumption | with_reducible apply keeps_openFence | with_reducible apply keeps_openGates | with_reducible apply keeps_modColl
      | with_reducible apply keeps_collEnd | with_reducible apply keeps_collGo | with_reducible apply keeps_modRun
      | with_reducible apply keeps_phaseInit | with_reducible apply keeps_putReady | with_reducible apply keeps_pendDrop
      | with_reducible apply keeps_takeReady | with_reducible refine Keeps.foldl (fun t x ht => ?_) _ ?_ | simp -proj only [Keeps.lit_iff] | split)

theorem keeps_collNext {s0 : State} (a_____internal__hyg_0 : Nat) (y1 : Nat) {y2 : State} (hy2 : Keeps s0 y2) :
    Keeps s0 (collNext a_____internal__hyg_0 y1 y2) := by
  induction a_____internal__hyg_0 generalizing y1 y2 with
  | zero => unfold collNext; repeat' (first
      | with_reducible assumption | with_reducible exact Keeps.refl _ | with_reducible apply ih | with_reducible refine Keeps1.fst (ih ?_)
      | with_reducible apply keeps_collFlush | with_reducible apply keeps_collStart | with_reducible apply Keeps.ite
      | with_reducible refine Keeps.foldl (fun t x ht => ?_) _ ?_ | with_reducible apply Keeps.at | with_reducible apply Keeps.atClear
      | with_reducible apply Keeps.atNew | simp -proj only [Keeps.lit_iff] | split)
  | succ n ih => unfold collNext; repeat' (first
      | with_reducible assumption | with_reducible exact Keeps.refl _ | with_reducible apply ih | with_reducible refine Keeps1.fst (ih ?_)
      | with_reducible apply keeps_collFlush | with_reducible apply keeps_collStart | with_reducible apply Keeps.ite
      | with_reducible refine Keeps.foldl (fun t x ht => ?_) _ ?_ | with_reducible apply Keeps.at | with_reducible apply Keeps.atClear
      | with_reducible apply Keeps.atNew | simp -proj only [Keeps.lit_iff] | split)

theorem keeps_collAnswer {s0 : State} (p : Nat) (i : Nat) (seq : Nat) (code : Byte) {s : State} (hs : Keeps s0 s) :
    Keeps s0 (collAnswer p i seq code s) := by
  unfold collAnswer
  repeat' (first | with_reducible assumption | with_reducible apply keeps_collNext | with_reducible apply keeps_collEnd | split)

theorem keeps_collWake {s0 : State} {s : State} (hs : Keeps s0 s) : Keeps s0 (collWake s) := by
  unfold collWake
  repeat' (first
      | with_reducible assumption | with_reducible apply keeps_collNext | with_reducible apply keeps_collGo | with_reducible apply keeps_collFlush
      | with_reducible refine Keeps.foldl (fun t x ht => ?_) _ ?_ | split)

theorem keeps_withColl {s0 : State} (p : Nat) {f : State → State} {s : State} (hf : ∀ z0, Keeps s0 z0 → Keeps s0 (f z0)) (hs : Keeps s0 s) :
    Keeps s0 (withColl p f s) := by
  unfold withColl
  repeat' (first | with_reducible assumption | with_reducible apply keeps_collNext | with_reducible apply keeps_collGo | with_reducible apply hf)

/-! Machine/Flags.lean -/

theorem keeps_recordCvt {s0 : State} (t : Nat) (e : CvtEv) {s : State} (hs : Keeps s0 s) : Keeps s0 (recordCvt t e s) := by
  unfold recordCvt
  repeat' (first | assumption | apply keeps_bump | apply keeps_stick | split)

theorem keeps_noteSeed {s0 : State} (p : Nat) (idx : Nat) {s : State} (hs : Keeps s0 s) : Keeps s0 (noteSeed p idx s) := by
  unfold noteSeed
  repeat' (first | assumption | apply keeps_stick | split)

/-! Machine/MatrixDesc.lean -/

theorem keeps_accFault {s0 : State} (t : Nat) (k : Nat) (cause : Nat) (source : Nat) (b : SlotBind) (seq : Nat) {s : State} (hs : Keeps s0 s) :
    Keeps s0 (accFault t k cause source b seq s) := by
  unfold accFault
  repeat' (first | assumption | apply keeps_setReg | apply keeps_stick | split)

theorem keeps_placeFrees {s0 : State} (t : Nat) (mask : Word) {s : State} (hs : Keeps s0 s) : Keeps s0 (placeFrees t mask s) := by
  unfold placeFrees
  repeat' (first | assumption | apply keeps_modSlot | refine Keeps.foldl (fun t x ht => ?_) _ ?_ | split)

theorem keeps_freeEffect {s0 : State} (t : Nat) (k : Nat) {s : State} (hs : Keeps s0 s) : Keeps s0 (freeEffect t k s) := by
  unfold freeEffect
  repeat' (first | assumption | apply keeps_modSlot | split)

theorem keeps_slotEnter {s0 : State} (t : Nat) (x : Nat) (source : Nat) (seq : Nat) {s : State} (hs : Keeps s0 s) :
    Keeps1 s0 (slotEnter t x source seq s) := by
  unfold slotEnter
  repeat' (first | assumption | apply keeps_accFault | apply keeps_modSlot | split | apply Keeps1.mk)

theorem keeps_mxCheck {s0 : State} (t : Nat) (x : Nat) (seq : Nat) {s : State} (hs : Keeps s0 s) : Keeps1 s0 (mxCheck t x seq s) := by
  unfold mxCheck
  repeat' (first | assumption | refine Keeps1.fst (keeps_slotEnter _ _ _ _ ?_) | split | apply Keeps1.mk)

theorem keeps_mxEnter {s0 : State} (t : Nat) (w0 : Word) (w1 : Word) {s : State} (hs : Keeps s0 s) : Keeps s0 (mxEnter t w0 w1 s) := by
  unfold mxEnter
  repeat' (first | assumption | apply keeps_modTile | refine Keeps1.fst (keeps_mxCheck _ _ _ ?_))

theorem keeps_mxRecord {s0 : State} (t : Nat) (e : MxEntry) (code : Byte) {s : State} (hs : Keeps s0 s) : Keeps s0 (mxRecord t e code s) := by
  unfold mxRecord
  repeat' (first | assumption | apply keeps_modSlot | apply keeps_stick | apply keeps_putF | simp -proj only [Keeps.lit_iff] | split)

theorem keeps_mxComplete {s0 : State} (t : Nat) (e : MxEntry) (code : Byte) {s : State} (hs : Keeps s0 s) : Keeps s0 (mxComplete t e code s) := by
  unfold mxComplete
  repeat' (first | assumption | apply keeps_mxRecord | apply keeps_modTile)

/-! Machine/StreamDesc.lean -/

theorem keeps_stCheck {s0 : State} (t : Nat) (e : StEntry) {s : State} (hs : Keeps s0 s) : Keeps1 s0 (stCheck t e s) := by
  unfold stCheck
  repeat' (first
      | with_reducible assumption | with_reducible apply keeps_touchRange | with_reducible apply keeps_recordCvt
      | with_reducible apply keeps_accFault | with_reducible apply keeps_modSlot | simp -proj only [Keeps.lit_iff] | split
      | with_reducible apply Keeps1.mk)

theorem keeps_stEnter {s0 : State} (t : Nat) (ws : List Word) {s : State} (hs : Keeps s0 s) : Keeps s0 (stEnter t ws s) := by
  unfold stEnter
  repeat' (first | with_reducible assumption | with_reducible apply keeps_modTile | with_reducible refine Keeps1.fst (keeps_stCheck _ _ ?_))

theorem keeps_dropRead {s0 : State} (t : Nat) (e : StEntry) {s : State} (hs : Keeps s0 s) : Keeps s0 (dropRead t e s) := by
  unfold dropRead
  repeat' (first | with_reducible assumption | with_reducible apply keeps_modSlot | split)

theorem keeps_stRecord {s0 : State} (t : Nat) (e : StEntry) (code : Byte) {s : State} (hs : Keeps s0 s) : Keeps s0 (stRecord t e code s) := by
  unfold stRecord
  repeat' (first
      | with_reducible assumption | with_reducible apply keeps_dropRead | with_reducible apply keeps_putF | with_reducible apply keeps_stick | split)

theorem keeps_stComplete {s0 : State} (t : Nat) (e : StEntry) (code : Byte) {s : State} (hs : Keeps s0 s) : Keeps s0 (stComplete t e code s) := by
  unfold stComplete
  repeat' (first | with_reducible assumption | with_reducible apply keeps_stRecord | with_reducible apply keeps_modTile)

theorem keeps_stFaultInfo {s0 : State} (t : Nat) (cause : Nat) (stream : Nat) (elem : Nat) (cols : Nat) (seq : Nat) {s : State} (hs : Keeps s0 s) :
    Keeps s0 (stFaultInfo t cause stream elem cols seq s) := by
  unfold stFaultInfo
  repeat' (first | with_reducible assumption | with_reducible apply keeps_setReg | split)

/-! Machine/SeqOps.lean -/

theorem keeps_seqEnterMx {s0 : State} (d : Nat) (c : SolvCmd) (pr : Problem) (j : Nat) (k : Nat) {s : State} (hs : Keeps s0 s) :
    Keeps s0 (seqEnterMx d c pr j k s) := by
  unfold seqEnterMx
  repeat' (first | assumption | apply keeps_modTile | refine Keeps1.fst (keeps_slotEnter _ _ _ _ ?_))

theorem keeps_seqEnterSt {s0 : State} (d : Nat) (c : SolvCmd) (pr : Problem) (j : Nat) (k : Nat) {s : State} (hs : Keeps s0 s) :
    Keeps s0 (seqEnterSt d c pr j k s) := by
  unfold seqEnterSt
  repeat' (first | assumption | apply keeps_modTile)

theorem keeps_seqIssue {s0 : State} (d : Nat) (c : SolvCmd) (pr : Problem) {s : State} (hs : Keeps s0 s) : Keeps1 s0 (seqIssue d c pr s) := by
  unfold seqIssue
  repeat' (first
      | assumption | apply keeps_seqEnterMx | apply keeps_seqEnterSt | refine Keeps.foldl (fun t x ht => ?_) _ ?_ | exact Keeps1.fst ht
      | refine Keeps1.fst (Keeps1.foldl (fun t x ht => ?_) _ ?_) | apply Keeps1.mk)

theorem keeps_seqEndMx {s0 : State} (t : Nat) (e : MxEntry) (code : Byte) {s : State} (hs : Keeps s0 s) : Keeps s0 (seqEndMx t e code s) := by
  unfold seqEndMx
  repeat' (first | assumption | apply keeps_modTile | apply keeps_mxRecord | apply keeps_bump | split)

theorem keeps_seqEndSt {s0 : State} (t : Nat) (made : Nat) (e : StEntry) (code : Byte) {s : State} (hs : Keeps s0 s) :
    Keeps s0 (seqEndSt t made e code s) := by
  unfold seqEndSt
  repeat' (first | assumption | apply keeps_stRecord | apply keeps_bump | apply keeps_modTile)

theorem keeps_seqFree {s0 : State} (d : Nat) (c : SolvCmd) (t : Nat) {s : State} (hs : Keeps s0 s) : Keeps s0 (seqFree d c t s) := by
  unfold seqFree
  repeat' (first | assumption | apply keeps_placeFrees | apply keeps_freeEffect | refine Keeps.foldl (fun t x ht => ?_) _ ?_)

/-! Machine/SolvOps.lean -/

theorem keeps_modSolv {s0 : State} (d : Nat) (f : SolvSt → SolvSt) {s : State} (hs : Keeps s0 s) : Keeps s0 (modSolv d f s) := by
  unfold modSolv
  repeat' (first
      | with_reducible assumption | with_reducible exact Keeps.refl _ | with_reducible apply Keeps.ite
      | with_reducible refine Keeps.foldl (fun t x ht => ?_) _ ?_ | with_reducible apply Keeps.at | with_reducible apply Keeps.atClear
      | with_reducible apply Keeps.atNew | simp -proj only [Keeps.lit_iff] | split)

theorem keeps_modCmd {s0 : State} (d : Nat) (c : SolvCmd) (f : SolvCmd → SolvCmd) {s : State} (hs : Keeps s0 s) : Keeps s0 (modCmd d c f s) := by
  unfold modCmd
  repeat' (first
      | with_reducible assumption | with_reducible exact Keeps.refl _ | with_reducible apply keeps_modSolv | with_reducible apply Keeps.ite
      | with_reducible refine Keeps.foldl (fun t x ht => ?_) _ ?_ | with_reducible apply Keeps.at | with_reducible apply Keeps.atClear
      | with_reducible apply Keeps.atNew | simp -proj only [Keeps.lit_iff] | split)

theorem keeps_modProb {s0 : State} (d : Nat) (k : Nat) (f : ProbSlot → ProbSlot) {s : State} (hs : Keeps s0 s) : Keeps s0 (modProb d k f s) := by
  unfold modProb
  repeat' (first
      | with_reducible assumption | with_reducible exact Keeps.refl _ | with_reducible apply keeps_modSolv | with_reducible apply Keeps.ite
      | with_reducible refine Keeps.foldl (fun t x ht => ?_) _ ?_ | with_reducible apply Keeps.at | with_reducible apply Keeps.atClear
      | with_reducible apply Keeps.atNew | simp -proj only [Keeps.lit_iff] | split)

theorem keeps_readVec {s0 : State} (pr : Problem) (off : Nat) (f : Fmt) {s : State} (hs : Keeps s0 s) : Keeps1 s0 (readVec pr off f s) := by
  unfold readVec
  repeat' (first
      | with_reducible assumption | with_reducible exact Keeps.refl _ | with_reducible apply Keeps1.ite | with_reducible apply keeps_touchRange
      | with_reducible apply Keeps.ite | with_reducible refine Keeps.foldl (fun t x ht => ?_) _ ?_ | with_reducible apply Keeps.at
      | with_reducible apply Keeps.atClear | with_reducible apply Keeps.atNew | with_reducible exact Keeps1.fst ht
      | with_reducible refine Keeps1.foldl (fun t x ht => ?_) _ ?_ | with_reducible refine Keeps1.fst (Keeps1.foldl (fun t x ht => ?_) _ ?_)
      | simp -proj only [Keeps.lit_iff] | split | with_reducible apply Keeps1.mk)

theorem keeps_writeVec {s0 : State} (pr : Problem) (off : Nat) (xs : List Nat) {s : State} (hs : Keeps s0 s) : Keeps s0 (writeVec pr off xs s) := by
  unfold writeVec
  repeat' (first
      | with_reducible assumption | with_reducible exact Keeps.refl _ | with_reducible apply keeps_spWrite | with_reducible apply Keeps.ite
      | with_reducible refine Keeps.foldl (fun t x ht => ?_) _ ?_ | with_reducible apply Keeps.at | with_reducible apply Keeps.atClear
      | with_reducible apply Keeps.atNew | simp -proj only [Keeps.lit_iff] | split)

theorem keeps_scrambleStorage {s0 : State} (pr : Problem) {s : State} (hs : Keeps s0 s) : Keeps s0 (scrambleStorage pr s) := by
  unfold scrambleStorage
  repeat' (first
      | with_reducible assumption | with_reducible exact Keeps.refl _ | with_reducible apply keeps_spWrite | with_reducible apply keeps_tickFree
      | with_reducible apply Keeps.ite | with_reducible refine Keeps.foldl (fun t x ht => ?_) _ ?_ | with_reducible apply Keeps.at
      | with_reducible apply Keeps.atClear | with_reducible apply Keeps.atNew | simp -proj only [Keeps.lit_iff] | split)

theorem keeps_solvRecord {s0 : State} (c : SolvCmd) (pr : Problem) (r : SolvRec) {s : State} (hs : Keeps s0 s) : Keeps s0 (solvRecord c pr r s) := by
  unfold solvRecord
  repeat' (first
      | with_reducible assumption | with_reducible exact Keeps.refl _ | with_reducible apply keeps_spWrite | with_reducible apply Keeps.ite
      | with_reducible refine Keeps.foldl (fun t x ht => ?_) _ ?_ | with_reducible apply Keeps.at | with_reducible apply Keeps.atClear
      | with_reducible apply Keeps.atNew | simp -proj only [Keeps.lit_iff] | split)

theorem keeps_solvEvent {s0 : State} (d : Nat) (c : SolvCmd) (detail : Nat) (t : Nat) (bit : Nat) {s : State} (hs : Keeps s0 s) :
    Keeps s0 (solvEvent d c detail t bit s) := by
  unfold solvEvent
  repeat' (first
      | with_reducible assumption | with_reducible exact Keeps.refl _ | with_reducible apply keeps_setReg | with_reducible apply keeps_stick
      | with_reducible apply Keeps.ite | with_reducible refine Keeps.foldl (fun t x ht => ?_) _ ?_ | with_reducible apply Keeps.at
      | with_reducible apply Keeps.atClear | with_reducible apply Keeps.atNew | simp -proj only [Keeps.lit_iff] | split)

theorem keeps_solvFinish {s0 : State} (d : Nat) (c : SolvCmd) (r : SolvRec) {s : State} (hs : Keeps s0 s) : Keeps s0 (solvFinish d c r s) := by
  unfold solvFinish
  repeat' (first
      | with_reducible assumption | with_reducible exact Keeps.refl _ | with_reducible apply keeps_seqFree | with_reducible apply keeps_modSolv
      | with_reducible apply keeps_solvEvent | with_reducible apply keeps_bump | with_reducible apply keeps_solvRecord
      | with_reducible apply Keeps.ite | with_reducible refine Keeps.foldl (fun t x ht => ?_) _ ?_ | with_reducible apply Keeps.at
      | with_reducible apply Keeps.atClear | with_reducible apply Keeps.atNew | simp -proj only [Keeps.lit_iff] | split)

theorem keeps_dropSlot {s0 : State} (d : Nat) (k : Nat) {s : State} (hs : Keeps s0 s) : Keeps s0 (dropSlot d k s) := by
  unfold dropSlot
  repeat' (first
      | with_reducible assumption | with_reducible exact Keeps.refl _ | with_reducible apply keeps_modProb | with_reducible apply Keeps.ite
      | with_reducible refine Keeps.foldl (fun t x ht => ?_) _ ?_ | with_reducible apply Keeps.at | with_reducible apply Keeps.atClear
      | with_reducible apply Keeps.atNew | simp -proj only [Keeps.lit_iff] | split)

theorem keeps_releaseProb {s0 : State} (pr : Problem) {s : State} (hs : Keeps s0 s) : Keeps s0 (releaseProb pr s) := by
  unfold releaseProb
  repeat' (first
      | with_reducible assumption | with_reducible exact Keeps.refl _ | with_reducible apply keeps_dropSlot | with_reducible apply Keeps.ite
      | with_reducible refine Keeps.foldl (fun t x ht => ?_) _ ?_ | with_reducible apply Keeps.at | with_reducible apply Keeps.atClear
      | with_reducible apply Keeps.atNew | simp -proj only [Keeps.lit_iff] | split)

theorem keeps_solvAbort {s0 : State} (d : Nat) (c : SolvCmd) (code : Byte) {s : State} (hs : Keeps s0 s) : Keeps s0 (solvAbort d c code s) := by
  unfold solvAbort
  repeat' (first
      | with_reducible assumption | with_reducible exact Keeps.refl _ | with_reducible apply keeps_solvFinish | with_reducible apply keeps_tickFree
      | with_reducible apply Keeps.ite | with_reducible refine Keeps.foldl (fun t x ht => ?_) _ ?_ | with_reducible apply Keeps.at
      | with_reducible apply Keeps.atClear | with_reducible apply Keeps.atNew | simp -proj only [Keeps.lit_iff] | split)

theorem keeps_setupFail {s0 : State} (d : Nat) (c : SolvCmd) (code : Byte) (det : Nat) (need : Option Nat) {s : State} (hs : Keeps s0 s) :
    Keeps s0 (setupFail d c code det need s) := by
  unfold setupFail
  repeat' (first
      | with_reducible assumption | with_reducible exact Keeps.refl _ | with_reducible apply keeps_solvFinish | with_reducible apply keeps_tickFree
      | with_reducible apply Keeps.ite | with_reducible refine Keeps.foldl (fun t x ht => ?_) _ ?_ | with_reducible apply Keeps.at
      | with_reducible apply Keeps.atClear | with_reducible apply Keeps.atNew | simp -proj only [Keeps.lit_iff] | split)

theorem keeps_setupReads {s0 : State} (p : Nat) (b : List Byte) {s : State} (hs : Keeps s0 s) : Keeps1 s0 (setupReads p b s) := by
  unfold setupReads
  repeat' (first
      | with_reducible assumption | with_reducible exact Keeps.refl _ | with_reducible apply Keeps1.ite | with_reducible apply keeps_bstRead
      | with_reducible apply Keeps.ite | with_reducible refine Keeps.foldl (fun t x ht => ?_) _ ?_ | with_reducible apply Keeps.at
      | with_reducible apply Keeps.atClear | with_reducible apply Keeps.atNew | with_reducible refine Keeps1.fst (keeps_bstRead _ _ _ _ ?_)
      | refine Keeps1.get (keeps_bstRead _ _ _ _ ?_) (by assumption) | with_reducible exact Keeps1.fst ht
      | with_reducible refine Keeps1.foldl (fun t x ht => ?_) _ ?_ | with_reducible refine Keeps1.fst (Keeps1.foldl (fun t x ht => ?_) _ ?_)
      | simp -proj only [Keeps.lit_iff] | split | with_reducible apply Keeps1.mk)

theorem keeps_wakeHelper {s0 : State} (e : Nat) {s : State} (hs : Keeps s0 s) : KeepsS s0 (wakeHelper e s) := by
  unfold wakeHelper
  repeat' (first
      | with_reducible assumption | with_reducible exact Keeps.refl _ | with_reducible exact KeepsS.none | with_reducible apply KeepsS.some
      | with_reducible apply KeepsS.ite | with_reducible apply keeps_powerUp | with_reducible apply Keeps.ite
      | with_reducible refine Keeps.foldl (fun t x ht => ?_) _ ?_ | with_reducible apply Keeps.at | with_reducible apply Keeps.atClear
      | with_reducible apply Keeps.atNew | simp -proj only [Keeps.lit_iff] | split)

theorem keeps_wakeHelpers {s0 : State} (l : List Nat) {s : State} (hs : Keeps s0 s) : KeepsS s0 (wakeHelpers l s) := by
  induction l generalizing s with
  | nil => exact KeepsS.some hs
  | cons e r ih =>
    intro u hu
    unfold wakeHelpers at hu
    obtain ⟨t, ht, hu⟩ := Option.bind_eq_some_iff.1 hu
    exact KeepsS.get (ih (KeepsS.get (keeps_wakeHelper e hs) ht)) hu

theorem keeps_setupTake {s0 : State} (d : Nat) (c : SolvCmd) (b : List Byte) (arr : Nat → List Byte) (rp : List Nat) (ci : List Nat) {s : State}
    (hs : Keeps s0 s) :
    Keeps s0 (setupTake d c b arr rp ci s) := by
  unfold setupTake
  repeat' (first
      | with_reducible assumption | with_reducible exact Keeps.refl _ | with_reducible apply keeps_modProb | with_reducible apply keeps_modCmd
      | with_reducible apply Keeps.ite | with_reducible refine Keeps.foldl (fun t x ht => ?_) _ ?_ | with_reducible apply Keeps.at
      | with_reducible apply Keeps.atClear | with_reducible apply Keeps.atNew | simp -proj only [Keeps.lit_iff] | split)

theorem keeps_setupWait {s0 : State} (d : Nat) (c : SolvCmd) {s : State} (hs : Keeps s0 s) : Keeps s0 (setupWait d c s) := by
  unfold setupWait
  repeat' (first
      | with_reducible assumption | with_reducible exact Keeps.refl _ | with_reducible apply keeps_modCmd | with_reducible apply Keeps.ite
      | with_reducible refine Keeps.foldl (fun t x ht => ?_) _ ?_ | with_reducible apply Keeps.at | with_reducible apply Keeps.atClear
      | with_reducible apply Keeps.atNew | simp -proj only [Keeps.lit_iff] | split)

theorem keeps_setupSources {s0 : State} (d : Nat) (c : SolvCmd) (b : List Byte) {s : State} (hs : Keeps s0 s) : Keeps s0 (setupSources d c b s) := by
  unfold setupSources
  repeat' (first
      | with_reducible assumption | with_reducible exact Keeps.refl _ | with_reducible apply keeps_setupReads | with_reducible apply keeps_setupWait
      | with_reducible apply keeps_setupFail | with_reducible apply keeps_wakeHelpers | with_reducible apply keeps_setupTake
      | with_reducible apply Keeps.ite | with_reducible refine Keeps.foldl (fun t x ht => ?_) _ ?_ | with_reducible apply Keeps.at
      | with_reducible apply Keeps.atClear | with_reducible apply Keeps.atNew | with_reducible refine Keeps1.fst (keeps_setupReads _ _ ?_)
      | refine Keeps1.get (keeps_setupReads _ _ ?_) (by assumption) | refine KeepsS.get (keeps_wakeHelpers _ ?_) (by assumption)
      | with_reducible exact Keeps1.fst ht | with_reducible refine Keeps1.foldl (fun t x ht => ?_) _ ?_
      | with_reducible refine Keeps1.fst (Keeps1.foldl (fun t x ht => ?_) _ ?_) | simp -proj only [Keeps.lit_iff] | split)

theorem keeps_startSetup {s0 : State} (d : Nat) (c : SolvCmd) {s : State} (hs : Keeps s0 s) : Keeps s0 (startSetup d c s) := by
  unfold startSetup
  repeat' (first
      | with_reducible assumption | with_reducible exact Keeps.refl _ | with_reducible apply keeps_touchRange | with_reducible apply keeps_setupFail
      | with_reducible apply keeps_stick | with_reducible apply keeps_setupSources | with_reducible apply Keeps.ite
      | with_reducible refine Keeps.foldl (fun t x ht => ?_) _ ?_ | with_reducible apply Keeps.at | with_reducible apply Keeps.atClear
      | with_reducible apply Keeps.atNew | simp -proj only [Keeps.lit_iff] | split)

theorem keeps_convTile {s0 : State} (c : SolvCmd) (pr : Problem) (xs : List Nat) (t : Nat) (e : StEntry) {s : State} (hs : Keeps s0 s) :
    Keeps1 s0 (convTile c pr xs t e s) := by
  unfold convTile
  repeat' (first
      | with_reducible assumption | with_reducible exact Keeps.refl _ | with_reducible apply Keeps1.ite | with_reducible apply keeps_noteSeed
      | with_reducible apply keeps_recordCvt | with_reducible apply keeps_spWrite | with_reducible apply keeps_stick | with_reducible apply Keeps.ite
      | with_reducible refine Keeps.foldl (fun t x ht => ?_) _ ?_ | with_reducible apply Keeps.at | with_reducible apply Keeps.atClear
      | with_reducible apply Keeps.atNew | with_reducible exact Keeps1.fst ht | with_reducible refine Keeps1.foldl (fun t x ht => ?_) _ ?_
      | with_reducible refine Keeps1.fst (Keeps1.foldl (fun t x ht => ?_) _ ?_) | simp -proj only [Keeps.lit_iff] | split
      | with_reducible apply Keeps1.mk)

theorem keeps_endTileNow {s0 : State} (d : Nat) (c : SolvCmd) (t : Nat) (code : Byte) (detail : Nat) (failed : Bool) {s : State} (hs : Keeps s0 s) :
    Keeps s0 (endTileNow d c t code detail failed s) := by
  unfold endTileNow
  repeat' (first
      | with_reducible assumption | with_reducible exact Keeps.refl _ | with_reducible apply keeps_solvEvent | with_reducible apply keeps_logEvent
      | with_reducible apply keeps_modProb | with_reducible apply keeps_solvFinish | with_reducible apply Keeps.ite
      | with_reducible refine Keeps.foldl (fun t x ht => ?_) _ ?_ | with_reducible apply Keeps.at | with_reducible apply Keeps.atClear
      | with_reducible apply Keeps.atNew | simp -proj only [Keeps.lit_iff] | split)

theorem keeps_endByTile {s0 : State} (d : Nat) (c : SolvCmd) (t : Nat) (code : Byte) (detail : Nat) (failed : Bool) {s : State} (hs : Keeps s0 s) :
    Keeps s0 (endByTile d c t code detail failed s) := by
  unfold endByTile
  repeat' (first
      | with_reducible assumption | with_reducible exact Keeps.refl _ | with_reducible apply keeps_modCmd | with_reducible apply keeps_endTileNow
      | with_reducible apply Keeps.ite | with_reducible refine Keeps.foldl (fun t x ht => ?_) _ ?_ | with_reducible apply Keeps.at
      | with_reducible apply Keeps.atClear | with_reducible apply Keeps.atNew | simp -proj only [Keeps.lit_iff] | split)

theorem keeps_endByPoison {s0 : State} (d : Nat) (c : SolvCmd) (t : Nat) {s : State} (hs : Keeps s0 s) : Keeps s0 (endByPoison d c t s) := by
  unfold endByPoison
  repeat' (first
      | with_reducible assumption | with_reducible exact Keeps.refl _ | with_reducible apply keeps_endByTile | with_reducible apply keeps_stick
      | with_reducible apply Keeps.ite | with_reducible refine Keeps.foldl (fun t x ht => ?_) _ ?_ | with_reducible apply Keeps.at
      | with_reducible apply Keeps.atClear | with_reducible apply Keeps.atNew | simp -proj only [Keeps.lit_iff] | split)

theorem keeps_commitNow {s0 : State} (d : Nat) (c : SolvCmd) (pr : Problem) (x : List Nat) (ran : Bool) (r : SolvRec) {s : State} (hs : Keeps s0 s) :
    Keeps s0 (commitNow d c pr x ran r s) := by
  unfold commitNow
  repeat' (first
      | with_reducible assumption | with_reducible exact Keeps.refl _ | with_reducible apply keeps_writeVec | with_reducible apply keeps_modProb
      | with_reducible apply keeps_solvFinish | with_reducible apply keeps_scrambleStorage | with_reducible apply Keeps.ite
      | with_reducible refine Keeps.foldl (fun t x ht => ?_) _ ?_ | with_reducible apply Keeps.at | with_reducible apply Keeps.atClear
      | with_reducible apply Keeps.atNew | simp -proj only [Keeps.lit_iff] | split)

theorem keeps_seqPresent {s0 : State} (d : Nat) (c : SolvCmd) {s : State} (hs : Keeps s0 s) : Keeps s0 (seqPresent d c s) := by
  unfold seqPresent
  repeat' (first
      | with_reducible assumption | with_reducible exact Keeps.refl _ | with_reducible apply keeps_seqIssue | with_reducible apply keeps_modSolv
      | with_reducible apply Keeps.ite | with_reducible refine Keeps.foldl (fun t x ht => ?_) _ ?_ | with_reducible apply Keeps.at
      | with_reducible apply Keeps.atClear | with_reducible apply Keeps.atNew | with_reducible refine Keeps1.fst (keeps_seqIssue _ _ _ ?_)
      | refine Keeps1.get (keeps_seqIssue _ _ _ ?_) (by assumption) | with_reducible exact Keeps1.fst ht
      | with_reducible refine Keeps1.foldl (fun t x ht => ?_) _ ?_ | with_reducible refine Keeps1.fst (Keeps1.foldl (fun t x ht => ?_) _ ?_)
      | simp -proj only [Keeps.lit_iff] | split)

theorem keeps_solveCommit {s0 : State} (d : Nat) (c : SolvCmd) (pr : Problem) (x : List Nat) (ran : Bool) (r : SolvRec) {s : State}
    (hs : Keeps s0 s) :
    Keeps s0 (solveCommit d c pr x ran r s) := by
  unfold solveCommit
  repeat' (first
      | with_reducible assumption | with_reducible exact Keeps.refl _ | with_reducible apply keeps_seqPresent | with_reducible apply keeps_commitNow
      | with_reducible apply Keeps.ite | with_reducible refine Keeps.foldl (fun t x ht => ?_) _ ?_ | with_reducible apply Keeps.at
      | with_reducible apply Keeps.atClear | with_reducible apply Keeps.atNew | simp -proj only [Keeps.lit_iff] | split)

theorem keeps_solveEnd {s0 : State} (d : Nat) (c : SolvCmd) (late ran : Bool) {s : State} (hs : Keeps s0 s) :
    Keeps s0 (solveEnd d c late ran s) := by
  unfold solveEnd
  extract_lets pr b y
  have hr : Keeps1 s0 (if ran then (y.1, y.2.2) else (s, none)) := Keeps1.ite (Keeps1.fst (keeps_readVec _ _ _ hs)) hs
  generalize (if ran then (y.1, y.2.2) else (s, none)) = x at hr ⊢
  obtain ⟨t, o⟩ := x
  have ht : Keeps s0 t := hr
  cases o with
  | some u => exact keeps_endByPoison _ _ _ ht
  | none => exact keeps_solveCommit _ _ _ _ _ _ (keeps_tickFree ht)

theorem keeps_writeGrads {s0 : State} (pr : Problem) (lam : List Nat) (x : List Nat) (qp : List Nat) {s : State} (hs : Keeps s0 s) :
    Keeps s0 (writeGrads pr lam x qp s) := by
  unfold writeGrads
  repeat' (first
      | with_reducible assumption | with_reducible exact Keeps.refl _ | with_reducible apply keeps_spWrite | with_reducible apply Keeps.ite
      | with_reducible refine Keeps.foldl (fun t x ht => ?_) _ ?_ | with_reducible apply Keeps.at | with_reducible apply Keeps.atClear
      | with_reducible apply Keeps.atNew | simp -proj only [Keeps.lit_iff] | split)

theorem keeps_writeLam {s0 : State} (pr : Problem) (lam : List Nat) {s : State} (hs : Keeps s0 s) : Keeps s0 (writeLam pr lam s) := by
  unfold writeLam
  repeat' (first
      | with_reducible assumption | with_reducible exact Keeps.refl _ | with_reducible apply keeps_spWrite | with_reducible apply keeps_writeVec
      | with_reducible apply Keeps.ite | with_reducible refine Keeps.foldl (fun t x ht => ?_) _ ?_ | with_reducible apply Keeps.at
      | with_reducible apply Keeps.atClear | with_reducible apply Keeps.atNew | simp -proj only [Keeps.lit_iff] | split)

theorem keeps_zeroGrads {s0 : State} (pr : Problem) {s : State} (hs : Keeps s0 s) : Keeps s0 (zeroGrads pr s) := by
  unfold zeroGrads
  repeat' (first
      | with_reducible assumption | with_reducible exact Keeps.refl _ | with_reducible apply keeps_writeGrads | with_reducible apply keeps_spWrite
      | with_reducible apply Keeps.ite | with_reducible refine Keeps.foldl (fun t x ht => ?_) _ ?_ | with_reducible apply Keeps.at
      | with_reducible apply Keeps.atClear | with_reducible apply Keeps.atNew | simp -proj only [Keeps.lit_iff] | split)

theorem keeps_adjointSkip {s0 : State} (d : Nat) (c : SolvCmd) (pr : Problem) (norm : Nat) (w : Nat) {s : State} (hs : Keeps s0 s) :
    Keeps s0 (adjointSkip d c pr norm w s) := by
  unfold adjointSkip
  repeat' (first
      | with_reducible assumption | with_reducible exact Keeps.refl _ | with_reducible apply keeps_modProb | with_reducible apply keeps_writeLam
      | with_reducible apply keeps_zeroGrads | with_reducible apply keeps_solvFinish | with_reducible apply Keeps.ite
      | with_reducible refine Keeps.foldl (fun t x ht => ?_) _ ?_ | with_reducible apply Keeps.at | with_reducible apply Keeps.atClear
      | with_reducible apply Keeps.atNew | simp -proj only [Keeps.lit_iff] | split)

theorem keeps_adjointCommit {s0 : State} (d : Nat) (c : SolvCmd) (pr : Problem) (g : List Nat) (e : SolveEnd) (ran : Bool) (norm : Nat) (w : Nat)
    {s : State} (hs : Keeps s0 s) :
    Keeps s0 (adjointCommit d c pr g e ran norm w s) := by
  unfold adjointCommit
  repeat' (first
      | with_reducible assumption | with_reducible exact Keeps.refl _ | with_reducible apply keeps_modProb | with_reducible apply keeps_writeLam
      | with_reducible apply keeps_writeGrads | with_reducible apply keeps_scrambleStorage | with_reducible apply keeps_solvFinish
      | with_reducible apply Keeps.ite | with_reducible refine Keeps.foldl (fun t x ht => ?_) _ ?_ | with_reducible apply Keeps.at
      | with_reducible apply Keeps.atClear | with_reducible apply Keeps.atNew | simp -proj only [Keeps.lit_iff] | split)

theorem keeps_adjointEnd {s0 : State} (d : Nat) (c : SolvCmd) (late ran : Bool) {s : State} (hs : Keeps s0 s) :
    Keeps s0 (adjointEnd d c late ran s) := by
  unfold adjointEnd
  extract_lets pr b y g norm
  split
  · exact keeps_solvFinish _ _ _ (keeps_modProb _ _ _ hs)
  · have hr : Keeps1 s0 (if ran then (y.1, y.2.2) else (s, none)) := Keeps1.ite (Keeps1.fst (keeps_readVec _ _ _ hs)) hs
    generalize (if ran then (y.1, y.2.2) else (s, none)) = x at hr ⊢
    obtain ⟨t, o⟩ := x
    have ht : Keeps s0 t := hr
    cases o with
    | some u => exact keeps_endByPoison _ _ _ ht
    | none => exact Keeps.ite (keeps_adjointSkip _ _ _ _ _ (keeps_tickFree ht)) (keeps_adjointCommit _ _ _ _ _ _ _ _ (keeps_tickFree ht))

theorem keeps_deltaEntries {s0 : State} (c : SolvCmd) (pr : Problem) (h : List Byte) {s : State} (hs : Keeps s0 s) :
    Keeps1 s0 (deltaEntries c pr h s) := by
  unfold deltaEntries
  repeat' (first
      | with_reducible assumption | with_reducible exact Keeps.refl _ | with_reducible apply Keeps1.ite | with_reducible apply keeps_touchRange
      | with_reducible apply keeps_bstRead | with_reducible apply Keeps.ite | with_reducible refine Keeps.foldl (fun t x ht => ?_) _ ?_
      | with_reducible apply Keeps.at | with_reducible apply Keeps.atClear | with_reducible apply Keeps.atNew
      | with_reducible refine Keeps1.fst (keeps_bstRead _ _ _ _ ?_) | refine Keeps1.get (keeps_bstRead _ _ _ _ ?_) (by assumption)
      | with_reducible exact Keeps1.fst ht | with_reducible refine Keeps1.foldl (fun t x ht => ?_) _ ?_
      | with_reducible refine Keeps1.fst (Keeps1.foldl (fun t x ht => ?_) _ ?_) | simp -proj only [Keeps.lit_iff] | split
      | with_reducible apply Keeps1.mk)

theorem keeps_deltaEnd {s0 : State} (d : Nat) (c : SolvCmd) {s : State} (hs : Keeps s0 s) : Keeps s0 (deltaEnd d c s) := by
  unfold deltaEnd
  repeat' (first
      | with_reducible assumption | with_reducible exact Keeps.refl _ | with_reducible apply keeps_modProb | with_reducible apply keeps_solvFinish
      | with_reducible apply keeps_touchRange | with_reducible apply keeps_deltaEntries | with_reducible apply keeps_scrambleStorage
      | with_reducible apply Keeps.ite | with_reducible refine Keeps.foldl (fun t x ht => ?_) _ ?_ | with_reducible apply Keeps.at
      | with_reducible apply Keeps.atClear | with_reducible apply Keeps.atNew | with_reducible refine Keeps1.fst (keeps_deltaEntries _ _ _ ?_)
      | refine Keeps1.get (keeps_deltaEntries _ _ _ ?_) (by assumption) | with_reducible exact Keeps1.fst ht
      | with_reducible refine Keeps1.foldl (fun t x ht => ?_) _ ?_ | with_reducible refine Keeps1.fst (Keeps1.foldl (fun t x ht => ?_) _ ?_)
      | simp -proj only [Keeps.lit_iff] | split)

theorem keeps_setprevEnd {s0 : State} (d : Nat) (c : SolvCmd) {s : State} (hs : Keeps s0 s) : Keeps s0 (setprevEnd d c s) := by
  unfold setprevEnd
  extract_lets pr back ps
  have ht : Keeps s0 (ps.foldl (fun s x => touchRange 1 x.2.1 x.2.2 s) s) := Keeps.foldl (fun _ _ ht => keeps_touchRange _ _ _ ht) _ hs
  split
  · exact keeps_solvFinish _ _ _ (keeps_modProb _ _ _ hs)
  · split
    · exact keeps_endByPoison _ _ _ ht
    · exact keeps_solvFinish _ _ _ (keeps_modProb _ _ _ ht)

theorem keeps_seqRefill {s0 : State} {s : State} (hs : Keeps s0 s) : Keeps s0 (seqRefill s) := by
  unfold seqRefill
  repeat' (first
      | with_reducible assumption | with_reducible exact Keeps.refl _ | with_reducible apply keeps_seqPresent | with_reducible apply Keeps.ite
      | with_reducible refine Keeps.foldl (fun t x ht => ?_) _ ?_ | with_reducible apply Keeps.at | with_reducible apply Keeps.atClear
      | with_reducible apply Keeps.atNew | simp -proj only [Keeps.lit_iff] | split)

theorem keeps_startRun {s0 : State} (d : Nat) (k : Nat) (c : SolvCmd) {s : State} (hs : Keeps s0 s) : Keeps s0 (startRun d k c s) := by
  unfold startRun
  repeat' (first
      | with_reducible assumption | with_reducible exact Keeps.refl _ | with_reducible apply keeps_modProb | with_reducible apply keeps_seqPresent
      | with_reducible apply keeps_adjointEnd | with_reducible apply keeps_solveEnd | with_reducible apply Keeps.ite
      | with_reducible refine Keeps.foldl (fun t x ht => ?_) _ ?_ | with_reducible apply Keeps.at | with_reducible apply Keeps.atClear
      | with_reducible apply Keeps.atNew | simp -proj only [Keeps.lit_iff] | split)

theorem keeps_startOther {s0 : State} (d : Nat) (c : SolvCmd) {s : State} (hs : Keeps s0 s) : Keeps s0 (startOther d c s) := by
  unfold startOther
  repeat' (first
      | with_reducible assumption | with_reducible exact Keeps.refl _ | with_reducible apply keeps_solvFinish | with_reducible apply keeps_logEvent
      | with_reducible apply keeps_solvEvent | with_reducible apply keeps_startRun | with_reducible apply Keeps.ite
      | with_reducible refine Keeps.foldl (fun t x ht => ?_) _ ?_ | with_reducible apply Keeps.at | with_reducible apply Keeps.atClear
      | with_reducible apply Keeps.atNew | simp -proj only [Keeps.lit_iff] | split)

theorem keeps_solvKick {s0 : State} (a_____internal__hyg_0 : Nat) (y1 : Nat) {y2 : State} (hy2 : Keeps s0 y2) :
    Keeps s0 (solvKick a_____internal__hyg_0 y1 y2) := by
  induction a_____internal__hyg_0 generalizing y1 y2 with
  | zero => unfold solvKick; repeat' (first
      | with_reducible assumption | with_reducible exact Keeps.refl _ | with_reducible apply ih | with_reducible refine Keeps1.fst (ih ?_)
      | with_reducible apply keeps_startSetup | with_reducible apply keeps_startOther | with_reducible apply Keeps.ite
      | with_reducible refine Keeps.foldl (fun t x ht => ?_) _ ?_ | with_reducible apply Keeps.at | with_reducible apply Keeps.atClear
      | with_reducible apply Keeps.atNew | simp -proj only [Keeps.lit_iff] | split)
  | succ n ih => unfold solvKick; repeat' (first
      | with_reducible assumption | with_reducible exact Keeps.refl _ | with_reducible apply ih | with_reducible refine Keeps1.fst (ih ?_)
      | with_reducible apply keeps_startSetup | with_reducible apply keeps_startOther | with_reducible apply Keeps.ite
      | with_reducible refine Keeps.foldl (fun t x ht => ?_) _ ?_ | with_reducible apply Keeps.at | with_reducible apply Keeps.atClear
      | with_reducible apply Keeps.atNew | simp -proj only [Keeps.lit_iff] | split)

theorem keeps_solvKickAll {s0 : State} {s : State} (hs : Keeps s0 s) : Keeps s0 (solvKickAll s) := by
  unfold solvKickAll
  repeat' (first
      | with_reducible assumption | with_reducible exact Keeps.refl _ | with_reducible apply keeps_solvKick | with_reducible apply Keeps.ite
      | with_reducible refine Keeps.foldl (fun t x ht => ?_) _ ?_ | with_reducible apply Keeps.at | with_reducible apply Keeps.atClear
      | with_reducible apply Keeps.atNew | simp -proj only [Keeps.lit_iff] | split)

theorem keeps_dropLeft {s0 : State} (d : Nat) (c : SolvCmd) {s : State} (hs : Keeps s0 s) : Keeps s0 (dropLeft d c s) := by
  unfold dropLeft
  repeat' (first
      | with_reducible assumption | with_reducible exact Keeps.refl _ | with_reducible apply keeps_modCmd | with_reducible apply Keeps.ite
      | with_reducible refine Keeps.foldl (fun t x ht => ?_) _ ?_ | with_reducible apply Keeps.at | with_reducible apply Keeps.atClear
      | with_reducible apply Keeps.atNew | simp -proj only [Keeps.lit_iff] | split)

theorem keeps_solvCut {s0 : State} (d : Nat) (c : SolvCmd) (code : Byte) {s : State} (hs : Keeps s0 s) : Keeps s0 (solvCut d c code s) := by
  unfold solvCut
  repeat' (first
      | with_reducible assumption | with_reducible exact Keeps.refl _ | with_reducible apply keeps_solvAbort | with_reducible apply keeps_releaseProb
      | with_reducible apply keeps_dropLeft | with_reducible apply keeps_modProb | with_reducible apply Keeps.ite
      | with_reducible refine Keeps.foldl (fun t x ht => ?_) _ ?_ | with_reducible apply Keeps.at | with_reducible apply Keeps.atClear
      | with_reducible apply Keeps.atNew | simp -proj only [Keeps.lit_iff] | split)

theorem keeps_seqSettle {s0 : State} (d : Nat) (c : SolvCmd) {s : State} (hs : Keeps s0 s) : Keeps s0 (seqSettle d c s) := by
  unfold seqSettle
  repeat' (first
      | with_reducible assumption | with_reducible exact Keeps.refl _ | with_reducible apply keeps_solvKick | with_reducible apply keeps_endTileNow
      | with_reducible apply keeps_commitNow | with_reducible apply Keeps.ite | with_reducible refine Keeps.foldl (fun t x ht => ?_) _ ?_
      | with_reducible apply Keeps.at | with_reducible apply Keeps.atClear | with_reducible apply Keeps.atNew | simp -proj only [Keeps.lit_iff]
      | split)

theorem keeps_seqEnded {s0 : State} (o : Nat × Nat) (t : Nat) (code : Byte) (detail : Nat) (failed : Bool) {s : State} (hs : Keeps s0 s) :
    Keeps s0 (seqEnded o t code detail failed s) := by
  unfold seqEnded
  repeat' (first
      | with_reducible assumption | with_reducible exact Keeps.refl _ | with_reducible apply keeps_seqFree | with_reducible apply keeps_seqSettle
      | with_reducible apply keeps_solvKick | with_reducible apply keeps_endByTile | with_reducible apply Keeps.ite
      | with_reducible refine Keeps.foldl (fun t x ht => ?_) _ ?_ | with_reducible apply Keeps.at | with_reducible apply Keeps.atClear
      | with_reducible apply Keeps.atNew | simp -proj only [Keeps.lit_iff] | split)

theorem keeps_seqStream {s0 : State} (o : Nat × Nat) (t : Nat) (e : StEntry) {s : State} (hs : Keeps s0 s) : Keeps1 s0 (seqStream o t e s) := by
  unfold seqStream
  repeat' (first
      | with_reducible assumption | with_reducible exact Keeps.refl _ | with_reducible apply Keeps1.ite | with_reducible apply keeps_convTile
      | with_reducible apply keeps_stick | with_reducible apply keeps_touchRange | with_reducible apply Keeps.ite
      | with_reducible refine Keeps.foldl (fun t x ht => ?_) _ ?_ | with_reducible apply Keeps.at | with_reducible apply Keeps.atClear
      | with_reducible apply Keeps.atNew | with_reducible refine Keeps1.fst (keeps_convTile _ _ _ _ _ ?_)
      | refine Keeps1.get (keeps_convTile _ _ _ _ _ ?_) (by assumption) | with_reducible exact Keeps1.fst ht
      | with_reducible refine Keeps1.foldl (fun t x ht => ?_) _ ?_ | with_reducible refine Keeps1.fst (Keeps1.foldl (fun t x ht => ?_) _ ?_)
      | simp -proj only [Keeps.lit_iff] | split | with_reducible apply Keeps1.mk)

theorem keeps_solveDone {s0 : State} (d : Nat) (c : SolvCmd) {s : State} (hs : Keeps s0 s) : Keeps s0 (solveDone d c s) := by
  unfold solveDone
  repeat' (first
      | with_reducible assumption | with_reducible exact Keeps.refl _ | with_reducible apply keeps_solveEnd | with_reducible apply keeps_adjointEnd
      | with_reducible apply Keeps.ite | with_reducible refine Keeps.foldl (fun t x ht => ?_) _ ?_ | with_reducible apply Keeps.at
      | with_reducible apply Keeps.atClear | with_reducible apply Keeps.atNew | simp -proj only [Keeps.lit_iff] | split)

theorem keeps_setupAgain {s0 : State} (d : Nat) (c : SolvCmd) {s : State} (hs : Keeps s0 s) : Keeps s0 (setupAgain d c s) := by
  unfold setupAgain
  repeat' (first
      | with_reducible assumption | with_reducible exact Keeps.refl _ | with_reducible apply keeps_setupSources
      | with_reducible apply keeps_setupFail | with_reducible apply Keeps.ite | with_reducible refine Keeps.foldl (fun t x ht => ?_) _ ?_
      | with_reducible apply Keeps.at | with_reducible apply Keeps.atClear | with_reducible apply Keeps.atNew | simp -proj only [Keeps.lit_iff]
      | split)

theorem keeps_solvComplete {s0 : State} (d : Nat) (c : SolvCmd) {s : State} (hs : Keeps s0 s) : Keeps s0 (solvComplete d c s) := by
  unfold solvComplete
  repeat' (first
      | with_reducible assumption | with_reducible exact Keeps.refl _ | with_reducible apply keeps_seqSettle | with_reducible apply keeps_solvCut
      | with_reducible apply keeps_setupAgain | with_reducible apply keeps_modProb | with_reducible apply keeps_solvFinish
      | with_reducible apply keeps_scrambleStorage | with_reducible apply keeps_deltaEnd | with_reducible apply keeps_solveDone
      | with_reducible apply keeps_setprevEnd | with_reducible apply keeps_releaseProb | with_reducible apply Keeps.ite
      | with_reducible refine Keeps.foldl (fun t x ht => ?_) _ ?_ | with_reducible apply Keeps.at | with_reducible apply Keeps.atClear
      | with_reducible apply Keeps.atNew | simp -proj only [Keeps.lit_iff] | split)

theorem keeps_solvCompare {s0 : State} (d : Nat) (c : SolvCmd) {s : State} (hs : Keeps s0 s) : Keeps s0 (solvCompare d c s) := by
  unfold solvCompare
  repeat' (first
      | with_reducible assumption | with_reducible exact Keeps.refl _ | with_reducible apply keeps_seqSettle | with_reducible apply keeps_solvCut
      | with_reducible apply keeps_dropLeft | with_reducible apply keeps_solveEnd | with_reducible apply keeps_adjointEnd
      | with_reducible apply Keeps.ite | with_reducible refine Keeps.foldl (fun t x ht => ?_) _ ?_ | with_reducible apply Keeps.at
      | with_reducible apply Keeps.atClear | with_reducible apply Keeps.atNew | simp -proj only [Keeps.lit_iff] | split)

theorem keeps_solvEndPart {s0 : State} (p : Nat) (code : Byte) {s : State} (hs : Keeps s0 s) : Keeps s0 (solvEndPart p code s) := by
  unfold solvEndPart
  repeat' (first
      | with_reducible assumption | with_reducible exact Keeps.refl _ | with_reducible apply keeps_solvCut | with_reducible apply keeps_modSolv
      | with_reducible apply Keeps.ite | with_reducible refine Keeps.foldl (fun t x ht => ?_) _ ?_ | with_reducible apply Keeps.at
      | with_reducible apply Keeps.atClear | with_reducible apply Keeps.atNew | simp -proj only [Keeps.lit_iff] | split)

theorem keeps_solvDropPart {s0 : State} (p : Nat) {s : State} (hs : Keeps s0 s) : Keeps s0 (solvDropPart p s) := by
  unfold solvDropPart
  repeat' (first
      | with_reducible assumption | with_reducible exact Keeps.refl _ | with_reducible apply keeps_solvAbort | with_reducible apply keeps_dropSlot
      | with_reducible apply Keeps.ite | with_reducible refine Keeps.foldl (fun t x ht => ?_) _ ?_ | with_reducible apply Keeps.at
      | with_reducible apply Keeps.atClear | with_reducible apply Keeps.atNew | simp -proj only [Keeps.lit_iff] | split)

theorem keeps_solvReset {s0 : State} (d : Nat) {s : State} (hs : Keeps s0 s) : Keeps s0 (solvReset d s) := by
  unfold solvReset
  repeat' (first
      | with_reducible assumption | with_reducible exact Keeps.refl _ | with_reducible apply keeps_solvAbort | with_reducible apply keeps_dropSlot
      | with_reducible apply Keeps.ite | with_reducible refine Keeps.foldl (fun t x ht => ?_) _ ?_ | with_reducible apply Keeps.at
      | with_reducible apply Keeps.atClear | with_reducible apply Keeps.atNew | simp -proj only [Keeps.lit_iff] | split)

theorem keeps_solvTileReset {s0 : State} (t : Nat) {s : State} (hs : Keeps s0 s) : Keeps s0 (solvTileReset t s) := by
  unfold solvTileReset
  repeat' (first
      | with_reducible assumption | with_reducible exact Keeps.refl _ | with_reducible apply keeps_endByTile | with_reducible apply keeps_modProb
      | with_reducible apply Keeps.ite | with_reducible refine Keeps.foldl (fun t x ht => ?_) _ ?_ | with_reducible apply Keeps.at
      | with_reducible apply Keeps.atClear | with_reducible apply Keeps.atNew | simp -proj only [Keeps.lit_iff] | split)

/-! Machine/PostOps.lean -/

theorem keeps_takePost {s0 : State} (t : Nat) (k : PostKind) {s : State} (hs : Keeps s0 s) : Keeps s0 (takePost t k s) := by
  unfold takePost
  repeat' (first | assumption | apply Keeps.at | simp -proj only [Keeps.lit_iff])

theorem keeps_markPost {s0 : State} (t : Nat) (k : PostKind) (id : Nat) {s : State} (hs : Keeps s0 s) : Keeps s0 (markPost t k id s) := by
  unfold markPost
  repeat' (first | assumption | apply Keeps.at | simp -proj only [Keeps.lit_iff])

theorem keeps_postOut {s0 : State} (t : Nat) (k : PostKind) (way : Transit) {serve : Packet → State → State} {s : State}
    (hserve : ∀ z0 z1, Keeps s0 z1 → Keeps s0 (serve z0 z1)) (hs : Keeps s0 s) :
    Keeps s0 (postOut t k way serve s) := by
  unfold postOut
  repeat' (first
      | assumption | refine keeps_arrive _ _ _ (fun z0 z1 hz => ?_) ?_ | apply keeps_markPost | apply hserve | simp -proj only [Keeps.lit_iff]
      | split)

theorem keeps_postServe {s0 : State} (n : Nat) {reject : Post → Nat → Byte → State → State} {accept : Post → Nat → State → State × Byte × Nat}
    (q : Packet) {s : State} (hreject : ∀ z0 z1 z2 z3, Keeps s0 z3 → Keeps s0 (reject z0 z1 z2 z3)) (haccept : ∀ z0 z1 z2, Keeps s0 z2 → Keeps1 s0 (accept z0 z1 z2)) (hs : Keeps s0 s) :
    Keeps s0 (postServe n reject accept q s) := by
  unfold postServe
  repeat' (first
      | assumption | apply keeps_gateAnswer | apply keeps_dropPost | apply keeps_answer | apply hreject | refine Keeps1.fst (haccept _ _ _ ?_)
      | refine KeepsB.get' (keeps_unitGateFor _ _ _ ?_) (by assumption) | simp -proj only [Keeps.lit_iff] | split)

/-! Machine/Solver.lean -/

theorem keeps_solvReject {s0 : State} (d : Nat) (c : SolvCmd) (code : Byte) (hint : Nat) {s : State} (hs : Keeps s0 s) :
    Keeps s0 (solvReject d c code hint s) := by
  unfold solvReject
  repeat' (first | assumption | apply keeps_solvRecord | apply keeps_tickFree)

theorem keeps_solvRefuse {s0 : State} (d : Nat) (x : Post) (p : Nat) (code : Byte) {s : State} (hs : Keeps s0 s) :
    Keeps s0 (solvRefuse d x p code s) := by
  unfold solvRefuse
  repeat' (first | assumption | apply keeps_solvReject | split)

theorem keeps_solvAccept {s0 : State} (d : Nat) (x : Post) (p : Nat) {s : State} (hs : Keeps s0 s) : Keeps1 s0 (solvAccept d x p s) := by
  unfold solvAccept
  repeat' (first
      | assumption | apply keeps_touchRange | apply keeps_solvReject | apply keeps_tickFree | apply keeps_solvKick | apply keeps_modSolv
      | simp -proj only [Keeps.lit_iff] | split | apply Keeps1.mk)

theorem keeps_solvServe {s0 : State} (d : Nat) (q : Packet) {s : State} (hs : Keeps s0 s) : Keeps s0 (solvServe d q s) := by
  unfold solvServe
  repeat' (first
      | assumption | refine keeps_postServe _ _ (fun z0 z1 z2 z3 hz => ?_) (fun z0 z1 z2 hz => ?_) ?_ | apply keeps_solvRefuse
      | apply keeps_solvAccept)

theorem keeps_solvRow {s0 : State} (op : Nat) (t : Nat) (way : Transit) {s : State} (hs : Keeps s0 s) : Keeps s0 (solvRow op t way s) := by
  unfold solvRow
  repeat' (first
      | assumption | refine keeps_postOut _ _ _ (fun z0 z1 hz => ?_) ?_ | apply keeps_solvServe | apply keeps_takePost
      | simp -proj only [Keeps.lit_iff] | split)

theorem keeps_execSetup {s0 : State} (t : Poster) {s : State} (hs : Keeps s0 s) : KeepsO s0 (execSetup t s) := by
  unfold execSetup
  apply KeepsO.next
  repeat' (first | assumption | apply keeps_solvRow)

theorem keeps_execDelta {s0 : State} (t : Poster) {s : State} (hs : Keeps s0 s) : KeepsO s0 (execDelta t s) := by
  unfold execDelta
  apply KeepsO.next
  repeat' (first | assumption | apply keeps_solvRow)

theorem keeps_execSolve {s0 : State} (t : Poster) {s : State} (hs : Keeps s0 s) : KeepsO s0 (execSolve t s) := by
  unfold execSolve
  apply KeepsO.next
  repeat' (first | assumption | apply keeps_solvRow)

theorem keeps_execAdjoint {s0 : State} (t : Poster) {s : State} (hs : Keeps s0 s) : KeepsO s0 (execAdjoint t s) := by
  unfold execAdjoint
  apply KeepsO.next
  repeat' (first | assumption | apply keeps_solvRow)

theorem keeps_execSetprev {s0 : State} (t : Poster) {s : State} (hs : Keeps s0 s) : KeepsO s0 (execSetprev t s) := by
  unfold execSetprev
  apply KeepsO.next
  repeat' (first | assumption | apply keeps_solvRow)

theorem keeps_execRelease {s0 : State} (t : Poster) {s : State} (hs : Keeps s0 s) : KeepsO s0 (execRelease t s) := by
  unfold execRelease
  apply KeepsO.next
  repeat' (first | assumption | apply keeps_solvRow)

theorem keeps_execSolvCmdDone {s0 : State} (d : Die) (done : SolvDone) {s : State} (hs : Keeps s0 s) :
    KeepsO s0 (execSolvCmdDone d done s) := by
  unfold execSolvCmdDone
  apply KeepsO.next
  repeat' (first | assumption | apply keeps_solvKick | apply keeps_solvComplete | apply keeps_packetsHurt | split)

theorem keeps_execSolvDeadline {s0 : State} (d : Die) (seq : BitVec 16) {s : State} (hs : Keeps s0 s) : KeepsO s0 (execSolvDeadline d seq s) := by
  unfold execSolvDeadline
  apply KeepsO.next
  repeat' (first | assumption | apply keeps_solvKick | apply keeps_solvCompare | split)

theorem keeps_seqFail {s0 : State} (d : Nat) (c : SolvCmd) (t : Nat) (code : Byte) (accFault : Bool) {s : State} (hs : Keeps s0 s) :
    KeepsS s0 (seqFail d c t code accFault s) := by
  unfold seqFail
  dsimp only
  refine KeepsS.ite ?_ ?_
  · intro u hu
    obtain ⟨e, -, rfl⟩ := Option.map_eq_some_iff.1 hu
    exact keeps_seqEndMx _ _ _ hs
  · split
    · exact KeepsS.some (keeps_seqEndMx _ _ _ hs)
    · refine KeepsS.some (keeps_seqEndSt _ _ _ _ ?_)
      exact Keeps.ite (keeps_stick _ _ hs) (keeps_stick _ _ (keeps_tickFree (keeps_stFaultInfo _ _ _ _ _ _ hs)))
    · exact KeepsS.none

theorem keeps_execSolvTileFail {s0 : State} (d : Die) (seq : BitVec 16) (t : Tile) (code : Byte) (storage accFault : Bool) {s : State}
    (hs : Keeps s0 s) : KeepsO s0 (execSolvTileFail d seq t code storage accFault s) := by
  unfold execSolvTileFail
  apply KeepsO.next
  split
  · rename_i u _ h
    obtain ⟨c, -, hc⟩ := Option.bind_eq_some_iff.1 h
    have hu := KeepsS.get (keeps_seqFail _ _ _ _ _ hs) hc
    exact keeps_seqRefill (Keeps.ite (keeps_seqEnded _ _ _ _ _ hu) (keeps_seqEnded _ _ _ _ _ hu))
  · exact hs

/-! Machine/Operands.lean -/

theorem keeps_setG {s0 : State} (t : Nat) (r : GReg) (v : Word) {s : State} (hs : Keeps s0 s) : Keeps s0 (setG t r v s) := by
  unfold setG
  repeat' (first | with_reducible assumption | with_reducible apply keeps_modCore | split)

theorem keeps_setV {s0 : State} (t : Nat) (r : VReg) (v : BitVec 512) {s : State} (hs : Keeps s0 s) : Keeps s0 (setV t r v s) := by
  unfold setV
  repeat' (first | with_reducible assumption | with_reducible apply keeps_modCore)

theorem keeps_setM {s0 : State} (t : Nat) (r : MReg) (v : Word) {s : State} (hs : Keeps s0 s) : Keeps s0 (setM t r v s) := by
  unfold setM
  repeat' (first | with_reducible assumption | with_reducible apply keeps_modCore | split)

theorem keeps_setPc {s0 : State} (t : Nat) (v : Word) {s : State} (hs : Keeps s0 s) : Keeps s0 (setPc t v s) := by
  unfold setPc
  repeat' (first | with_reducible assumption | with_reducible apply keeps_modCore)

theorem keeps_nextPc {s0 : State} (t : Nat) {s : State} (hs : Keeps s0 s) : Keeps s0 (nextPc t s) := by
  unfold nextPc
  repeat' (first | with_reducible assumption | with_reducible apply keeps_setPc)

theorem keeps_enterHandler {s0 : State} (t : Nat) (code : Nat) (second : Bool) (epc : Word) (eval : Nat) {s : State} (hs : Keeps s0 s) :
    Keeps s0 (enterHandler t code second epc eval s) := by
  unfold enterHandler
  repeat' (first
      | with_reducible assumption | with_reducible apply keeps_setReg | with_reducible apply keeps_putB | with_reducible apply keeps_modCore
      | with_reducible apply keeps_setPc)

theorem keeps_raiseWith {s0 : State} (second : Bool) (t : Nat) (code : Nat) (eval : Nat) {s : State} (hs : Keeps s0 s) :
    Keeps s0 (raiseWith second t code eval s) := by
  unfold raiseWith
  repeat' (first
      | with_reducible assumption | with_reducible apply keeps_logEvent | with_reducible apply keeps_modCore | with_reducible apply keeps_stick
      | with_reducible apply keeps_enterHandler | with_reducible apply keeps_tickFree | split)

theorem keeps_raiseExc {s0 : State} (t : Nat) (code : Nat) (eval : Nat) {s : State} (hs : Keeps s0 s) : Keeps s0 (raiseExc t code eval s) := by
  unfold raiseExc
  repeat' (first | with_reducible assumption | with_reducible apply keeps_raiseWith)

theorem keeps_icPut {s0 : State} (t : Nat) (l : IcLine) {s : State} (hs : Keeps s0 s) : Keeps s0 (icPut t l s) := by
  unfold icPut
  repeat' (first | with_reducible assumption | with_reducible apply keeps_modCore)

theorem keeps_fetchWith {s0 : State} (alone : Bool) (t : Nat) {s : State} (hs : Keeps s0 s) : KeepsE s0 (fetchWith alone t s) := by
  unfold fetchWith
  repeat' (first
      | with_reducible assumption | with_reducible apply KeepsE.inl | with_reducible apply KeepsE.inr | with_reducible apply keeps_raiseWith
      | with_reducible apply keeps_icPut | with_reducible apply keeps_touchRange | simp -proj only [Keeps.lit_iff] | split)

theorem keeps_fetch {s0 : State} (t : Nat) {s : State} (hs : Keeps s0 s) : KeepsE s0 (fetch t s) := by
  unfold fetch
  repeat' (first | with_reducible assumption | with_reducible apply keeps_fetchWith)

theorem keeps_issue {s0 : State} (t : Nat) {f : State → State} {s : State} (hf : ∀ z0, Keeps s0 z0 → Keeps s0 (f z0)) (hs : Keeps s0 s) :
    Keeps s0 (issue t f s) := by
  unfold issue
  repeat' (first
      | with_reducible assumption | with_reducible apply keeps_putB | with_reducible apply keeps_modCore | with_reducible apply hf
      | refine KeepsE.getl (keeps_fetch _ ?_) (by assumption) | refine KeepsE.getr (keeps_fetch _ ?_) (by assumption) | split)

theorem keeps_issueG {s0 : State} (t : Nat) (d : GReg) {v : State → Word} {s : State} (hs : Keeps s0 s) : Keeps s0 (issueG t d v s) := by
  unfold issueG
  repeat' (first
      | with_reducible assumption | with_reducible refine keeps_issue _ (fun z0 hz => ?_) ?_ | with_reducible apply keeps_nextPc
      | with_reducible apply keeps_setG)

theorem keeps_onWord {s0 : State} (i : Instr) (t : Tile) {f : State → State} {s : State} (hf : ∀ z0, Keeps s0 z0 → Keeps s0 (f z0))
    (hs : Keeps s0 s) :
    Keeps s0 (onWord i t f s) := by
  unfold onWord
  repeat' (first
      | with_reducible assumption | with_reducible refine keeps_issue _ (fun z0 hz => ?_) ?_ | with_reducible apply keeps_raiseExc
      | with_reducible apply hf | refine KeepsE.getl (keeps_fetchWith _ _ ?_) (by assumption)
      | refine KeepsE.getr (keeps_fetchWith _ _ ?_) (by assumption) | split)

/-! Machine/PartOps.lean -/

theorem keeps_raisePart {s0 : State} (p : Nat) {s : State} (hs : Keeps s0 s) : Keeps s0 (raisePart p s) := by
  unfold raisePart
  repeat' (first | with_reducible assumption | with_reducible apply keeps_raiseVec)

theorem keeps_setPState {s0 : State} (p : Nat) (x : PState) {s : State} (hs : Keeps s0 s) : Keeps s0 (setPState p x s) := by
  unfold setPState
  repeat' (first | with_reducible assumption | with_reducible apply keeps_modPart | with_reducible apply keeps_raisePart | split)

theorem keeps_clearQueues {s0 : State} (p : Nat) {s : State} (hs : Keeps s0 s) : Keeps s0 (clearQueues p s) := by
  unfold clearQueues
  repeat' (first | with_reducible assumption | with_reducible apply keeps_modPart)

theorem keeps_tileClear {s0 : State} (t : Nat) {s : State} (hs : Keeps s0 s) : Keeps s0 (tileClear t s) := by
  unfold tileClear
  repeat' (first
      | with_reducible assumption | with_reducible apply keeps_modTile | with_reducible apply keeps_clearRegs | with_reducible apply Keeps.at
      | simp -proj only [Keeps.lit_iff])

theorem keeps_tileReset {s0 : State} (t : Nat) {s : State} (hs : Keeps s0 s) : Keeps s0 (tileReset t s) := by
  unfold tileReset
  repeat' (first
      | with_reducible assumption | with_reducible apply keeps_solvTileReset | with_reducible apply keeps_tileClear
      | with_reducible apply keeps_resetStation)

theorem keeps_startCore {s0 : State} (p : Nat) (t : Nat) {s : State} (hs : Keeps s0 s) : Keeps s0 (startCore p t s) := by
  unfold startCore
  repeat' (first
      | with_reducible assumption | with_reducible apply keeps_modCore | with_reducible apply keeps_setReg | with_reducible apply keeps_putF)

theorem keeps_powerTiles {s0 : State} (p : Nat) {s : State} (hs : Keeps s0 s) : Keeps s0 (powerTiles p s) := by
  unfold powerTiles
  repeat' (first | with_reducible assumption | with_reducible apply keeps_powerUp | with_reducible refine Keeps.foldl (fun t x ht => ?_) _ ?_)

theorem keeps_runPart {s0 : State} (p : Nat) {s : State} (hs : Keeps s0 s) : Keeps s0 (runPart p s) := by
  unfold runPart
  repeat' (first
      | with_reducible assumption | with_reducible apply keeps_modPart | with_reducible apply keeps_clearQueues
      | with_reducible apply keeps_powerTiles | with_reducible apply keeps_setPState | with_reducible apply keeps_startCore
      | with_reducible apply keeps_modCore | with_reducible refine Keeps.foldl (fun t x ht => ?_) _ ?_ | with_reducible apply Keeps.at
      | simp -proj only [Keeps.lit_iff] | split)

theorem keeps_becomeStopped {s0 : State} (p : Nat) {s : State} (hs : Keeps s0 s) : Keeps s0 (becomeStopped p s) := by
  unfold becomeStopped
  repeat' (first
      | with_reducible assumption | with_reducible apply keeps_setPState | with_reducible apply keeps_clearQueues
      | with_reducible apply keeps_modPart)

theorem keeps_haltWaiting {s0 : State} (p : Nat) {s : State} (hs : Keeps s0 s) : Keeps s0 (haltWaiting p s) := by
  unfold haltWaiting
  repeat' (first | with_reducible assumption | with_reducible apply keeps_modCore | with_reducible refine Keeps.foldl (fun t x ht => ?_) _ ?_)

theorem keeps_stopIdle {s0 : State} (p : Nat) {s : State} (hs : Keeps s0 s) : Keeps s0 (stopIdle p s) := by
  unfold stopIdle
  repeat' (first | with_reducible assumption | with_reducible apply keeps_becomeStopped | with_reducible apply keeps_modPart | split)

theorem keeps_stopPart {s0 : State} (p : Nat) {s : State} (hs : Keeps s0 s) : Keeps s0 (stopPart p s) := by
  unfold stopPart
  repeat' (first
      | with_reducible assumption | with_reducible apply keeps_haltWaiting | with_reducible apply keeps_solvEndPart
      | with_reducible apply keeps_modPart | with_reducible apply keeps_stopIdle | split)

theorem keeps_faultEnd {s0 : State} (p : Nat) (cause : Nat) (code : Byte) {s : State} (hs : Keeps s0 s) : Keeps s0 (faultEnd p cause code s) := by
  unfold faultEnd
  repeat' (first
      | with_reducible assumption | with_reducible apply keeps_modPart | with_reducible apply keeps_setPState
      | with_reducible apply keeps_timeoutRequests | with_reducible apply keeps_collEndAll | with_reducible apply keeps_solvEndPart
      | simp -proj only [Keeps.lit_iff] | split)

theorem keeps_faultPart {s0 : State} (p : Nat) (cause : Nat) (code : Byte) (r : LogRec) {s : State} (hs : Keeps s0 s) :
    Keeps s0 (faultPart p cause code r s) := by
  unfold faultPart
  repeat' (first | with_reducible assumption | with_reducible apply keeps_logEvent | with_reducible apply keeps_faultEnd | split)

theorem keeps_suspendPart {s0 : State} (p : Nat) {s : State} (hs : Keeps s0 s) : Keeps s0 (suspendPart p s) := by
  unfold suspendPart
  repeat' (first
      | with_reducible assumption | with_reducible apply keeps_solvEndPart | with_reducible apply keeps_collEndAll
      | with_reducible apply keeps_setPState | split)

theorem keeps_resumePart {s0 : State} (p : Nat) {s : State} (hs : Keeps s0 s) : Keeps s0 (resumePart p s) := by
  unfold resumePart
  repeat' (first | with_reducible assumption | with_reducible apply keeps_modPart | split)

theorem keeps_parityFault {s0 : State} (p : Nat) (q : Nat) (stn : Nat) (unit : Nat) {s : State} (hs : Keeps s0 s) :
    Keeps s0 (parityFault p q stn unit s) := by
  unfold parityFault
  repeat' (first | with_reducible assumption | with_reducible apply keeps_faultPart)

theorem keeps_stepAdvance {s0 : State} (t : Nat) {s : State} (hs : Keeps s0 s) : Keeps s0 (stepAdvance t s) := by
  unfold stepAdvance
  repeat' (first | with_reducible assumption | with_reducible apply keeps_faultPart | with_reducible apply keeps_modTile | split)

theorem keeps_hostIrqOp {s0 : State} (t : Nat) (v : Nat) {s : State} (hs : Keeps s0 s) : Keeps s0 (hostIrqOp t v s) := by
  unfold hostIrqOp
  repeat' (first | with_reducible assumption | with_reducible apply keeps_raiseVec | split)

theorem keeps_refuseItem {s0 : State} (p : Nat) (t : Nat) (off : Nat) (ev : Nat) {s : State} (hs : Keeps s0 s) :
    Keeps s0 (refuseItem p t off ev s) := by
  unfold refuseItem
  repeat' (first
      | with_reducible assumption | with_reducible apply keeps_touchRange | with_reducible apply keeps_raisePart | with_reducible apply keeps_putB
      | with_reducible apply keeps_logEvent | split)

theorem keeps_queueRecord {s0 : State} (p : Nat) (t : Nat) (off : Nat) {s : State} (hs : Keeps s0 s) : Keeps1 s0 (queueRecord p t off s) := by
  unfold queueRecord
  repeat' (first
      | with_reducible assumption | with_reducible apply keeps_modPart | with_reducible apply keeps_touchRange | split
      | with_reducible apply Keeps1.mk)

theorem keeps_answerRecord {s0 : State} (refused : Option Nat) (p : Nat) (t : Nat) (off : Nat) {s : State} (hs : Keeps s0 s) :
    Keeps1 s0 (answerRecord refused p t off s) := by
  unfold answerRecord
  repeat' (first
      | with_reducible assumption | with_reducible apply keeps_refuseItem | with_reducible refine Keeps1.fst (keeps_queueRecord _ _ _ ?_) | split
      | with_reducible apply Keeps1.mk)

theorem keeps_takeRecord {s0 : State} (p : Nat) (t : Nat) (off : Nat) {s : State} (hs : Keeps s0 s) : Keeps1 s0 (takeRecord p t off s) := by
  unfold takeRecord
  repeat' (first | with_reducible assumption | with_reducible apply keeps_answerRecord)

theorem keeps_giveItem {s0 : State} (p : Nat) (k : Nat) (c : Choice) {s : State} (hs : Keeps s0 s) : Keeps1 s0 (giveItem p k c s) := by
  unfold giveItem
  repeat' (first | with_reducible assumption | with_reducible apply keeps_modPart | with_reducible apply Keeps1.mk)

/-! Machine/Collectives.lean -/

theorem keeps_collPosted {s0 : State} (p : Nat) (b : List Byte) (c : Coll) {s : State} (hs : Keeps s0 s) : Keeps s0 (collPosted p b c s) := by
  unfold collPosted
  repeat' (first
      | with_reducible assumption | with_reducible apply keeps_modColl | with_reducible apply keeps_collFinish
      | with_reducible apply keeps_touchRange | with_reducible apply keeps_collNext | simp -proj only [Keeps.lit_iff] | split)

theorem keeps_collPost {s0 : State} (p : Nat) (b : List Byte) (c : Coll) {s : State} (hs : Keeps s0 s) : Keeps1 s0 (collPost p b c s) := by
  unfold collPost
  repeat' (first
      | with_reducible assumption | with_reducible apply keeps_collRecord | with_reducible apply keeps_tickFree
      | with_reducible apply keeps_collPosted | split | with_reducible apply Keeps1.mk)

theorem keeps_collRefuse {s0 : State} (x : Post) (p : Nat) (code : Byte) {s : State} (hs : Keeps s0 s) : Keeps s0 (collRefuse x p code s) := by
  unfold collRefuse
  repeat' (first | with_reducible assumption | with_reducible apply keeps_collRecord | split)

theorem keeps_collAccept {s0 : State} (x : Post) (p : Nat) {s : State} (hs : Keeps s0 s) : Keeps1 s0 (collAccept x p s) := by
  unfold collAccept
  repeat' (first
      | with_reducible assumption | with_reducible apply keeps_touchRange | with_reducible apply keeps_collRecord
      | with_reducible apply keeps_collPost | simp -proj only [Keeps.lit_iff] | split | with_reducible apply Keeps1.mk)

theorem keeps_collServe {s0 : State} (q : Packet) {s : State} (hs : Keeps s0 s) : Keeps s0 (collServe q s) := by
  unfold collServe
  repeat' (first
      | with_reducible assumption | with_reducible refine keeps_postServe _ _ (fun z0 z1 z2 z3 hz => ?_) (fun z0 z1 z2 hz => ?_) ?_
      | with_reducible apply keeps_collRefuse | with_reducible apply keeps_collAccept)

theorem keeps_collRow {s0 : State} (op : Nat) (t : Nat) (way : Transit) {s : State} (hs : Keeps s0 s) : Keeps s0 (collRow op t way s) := by
  unfold collRow
  repeat' (first
      | with_reducible assumption | with_reducible refine keeps_postOut _ _ _ (fun z0 z1 hz => ?_) ?_ | with_reducible apply keeps_collServe
      | with_reducible apply keeps_takePost | simp -proj only [Keeps.lit_iff] | split)

theorem keeps_execAllReduce {s0 : State} (t : Poster) {s : State} (hs : Keeps s0 s) : KeepsO s0 (execAllReduce t s) := by
  unfold execAllReduce
  apply KeepsO.next
  repeat' (first | with_reducible assumption | with_reducible apply keeps_collRow)

theorem keeps_execReduceScatter {s0 : State} (t : Poster) {s : State} (hs : Keeps s0 s) : KeepsO s0 (execReduceScatter t s) := by
  unfold execReduceScatter
  apply KeepsO.next
  repeat' (first | with_reducible assumption | with_reducible apply keeps_collRow)

theorem keeps_execAllGather {s0 : State} (t : Poster) {s : State} (hs : Keeps s0 s) : KeepsO s0 (execAllGather t s) := by
  unfold execAllGather
  apply KeepsO.next
  repeat' (first | with_reducible assumption | with_reducible apply keeps_collRow)

theorem keeps_execAllToAll {s0 : State} (t : Poster) {s : State} (hs : Keeps s0 s) : KeepsO s0 (execAllToAll t s) := by
  unfold execAllToAll
  apply KeepsO.next
  repeat' (first | with_reducible assumption | with_reducible apply keeps_collRow)

theorem keeps_execAllToAllv {s0 : State} (t : Poster) {s : State} (hs : Keeps s0 s) : KeepsO s0 (execAllToAllv t s) := by
  unfold execAllToAllv
  apply KeepsO.next
  repeat' (first | with_reducible assumption | with_reducible apply keeps_collRow)

theorem keeps_execBroadcast {s0 : State} (t : Poster) {s : State} (hs : Keeps s0 s) : KeepsO s0 (execBroadcast t s) := by
  unfold execBroadcast
  apply KeepsO.next
  repeat' (first | with_reducible assumption | with_reducible apply keeps_collRow)

theorem keeps_execBarrier {s0 : State} (t : Poster) {s : State} (hs : Keeps s0 s) : KeepsO s0 (execBarrier t s) := by
  unfold execBarrier
  apply KeepsO.next
  repeat' (first | with_reducible assumption | with_reducible apply keeps_collRow)

theorem keeps_execGatherDemand {s0 : State} (t : Poster) {s : State} (hs : Keeps s0 s) : KeepsO s0 (execGatherDemand t s) := by
  unfold execGatherDemand
  apply KeepsO.next
  repeat' (first | with_reducible assumption | with_reducible apply keeps_collRow)

theorem keeps_execFenceClose {s0 : State} (p : Part) {s : State} (hs : Keeps s0 s) : KeepsO s0 (execFenceClose p s) := by
  unfold execFenceClose
  apply KeepsO.next
  repeat' (first
      | with_reducible assumption | with_reducible apply keeps_solvKickAll | with_reducible apply keeps_collNext | with_reducible apply keeps_modColl
      | simp -proj only [Keeps.lit_iff] | split)

theorem keeps_collReply {s0 : State} (q : Packet) (code : Byte) (hint : Nat) {s : State} (hs : Keeps s0 s) : Keeps s0 (collReply q code hint s) := by
  unfold collReply
  repeat' (first | with_reducible assumption | with_reducible apply keeps_answer)

theorem keeps_collArrive {s0 : State} (p : Nat) (q : Packet) {f : State → State} {s : State} (hf : ∀ z0, Keeps s0 z0 → Keeps s0 (f z0))
    (hs : Keeps s0 s) :
    Keeps s0 (collArrive p q f s) := by
  unfold collArrive
  repeat' (first
      | with_reducible assumption | with_reducible apply keeps_countCorrected | with_reducible apply keeps_discardHeader
      | with_reducible apply keeps_collReply | with_reducible apply keeps_logEvent | with_reducible apply keeps_gateAnswer | with_reducible apply hf
      | refine KeepsB.get' (keeps_unitGateFor _ _ _ ?_) (by assumption) | simp -proj only [Keeps.lit_iff] | split)

theorem keeps_pendHold {s0 : State} (p : Nat) (q : Packet) (r : PendRec) {s : State} (hs : Keeps s0 s) : Keeps s0 (pendHold p q r s) := by
  unfold pendHold
  repeat' (first
      | with_reducible assumption | with_reducible apply keeps_collReply | with_reducible apply keeps_stick | with_reducible apply Keeps.at
      | simp -proj only [Keeps.lit_iff] | split)

theorem keeps_execReady {s0 : State} (p : Part) (r : ReadyRec) {s : State} (hs : Keeps s0 s) : KeepsO s0 (execReady p r s) := by
  unfold execReady
  apply KeepsO.next
  repeat' (first
      | with_reducible assumption | with_reducible apply keeps_solvKickAll | with_reducible refine keeps_collArrive _ _ (fun z0 hz => ?_) ?_
      | with_reducible apply keeps_collReply | with_reducible refine keeps_withColl _ (fun z0 hz => ?_) ?_ | with_reducible apply keeps_takeReady
      | with_reducible apply keeps_pendHold | simp -proj only [Keeps.lit_iff] | split)

theorem keeps_execCdata {s0 : State} (p : Part) (d : CollData) {s : State} (hs : Keeps s0 s) : KeepsO s0 (execCdata p d s) := by
  unfold execCdata
  apply KeepsO.next
  repeat' (first
      | with_reducible assumption | with_reducible apply keeps_solvKickAll | with_reducible refine keeps_collArrive _ _ (fun z0 hz => ?_) ?_
      | with_reducible apply keeps_collReply | with_reducible apply keeps_collEvent | with_reducible refine keeps_withColl _ (fun z0 hz => ?_) ?_
      | with_reducible apply keeps_modRun | simp -proj only [Keeps.lit_iff] | split)

theorem keeps_execCctlDone {s0 : State} (p : Part) (k : Sender) (ctag : BitVec 32) {s : State} (hs : Keeps s0 s) :
    KeepsO s0 (execCctlDone p k ctag s) := by
  unfold execCctlDone
  apply KeepsO.next
  repeat' (first
      | with_reducible assumption | with_reducible apply keeps_solvKickAll | with_reducible refine keeps_collArrive _ _ (fun z0 hz => ?_) ?_
      | with_reducible apply keeps_collReply | with_reducible refine keeps_withColl _ (fun z0 hz => ?_) ?_ | with_reducible apply keeps_modRun
      | simp -proj only [Keeps.lit_iff] | split)

theorem keeps_execAbort {s0 : State} (p : Part) (k : Sender) (ctag : BitVec 32) (code : Byte) {s : State} (hs : Keeps s0 s) :
    KeepsO s0 (execAbort p k ctag code s) := by
  unfold execAbort
  apply KeepsO.next
  repeat' (first
      | with_reducible assumption | with_reducible apply keeps_solvKickAll | with_reducible refine keeps_collArrive _ _ (fun z0 hz => ?_) ?_
      | with_reducible apply keeps_collNext | with_reducible apply keeps_collEnd | with_reducible apply keeps_collReply
      | with_reducible apply keeps_pendHold | split)

theorem keeps_execCollTimeout {s0 : State} (p : Part) {s : State} (hs : Keeps s0 s) : KeepsO s0 (execCollTimeout p s) := by
  unfold execCollTimeout
  apply KeepsO.next
  repeat' (first
      | with_reducible assumption | with_reducible apply keeps_solvKickAll | with_reducible apply keeps_collNext | with_reducible apply keeps_collEnd
      | split)

/-! Machine/Audit.lean -/

theorem keeps_digRecord {s0 : State} (c : DigCmd) (code : Byte) (detail : Nat) (w1 : Nat) (hashed : Nat) (digest : List Byte) (pre : List Byte)
    {s : State} (hs : Keeps s0 s) :
    Keeps s0 (digRecord c code detail w1 hashed digest pre s) := by
  unfold digRecord
  repeat' (first
      | with_reducible assumption | with_reducible apply keeps_stick | with_reducible apply keeps_spWrite | simp -proj only [Keeps.lit_iff] | split)

theorem keeps_digFailed {s0 : State} (c : DigCmd) (code : Byte) (detail : Nat) (w1 : Nat) (w : List Byte) (i : List Byte) (o : List Byte)
    {s : State} (hs : Keeps s0 s) :
    Keeps s0 (digFailed c code detail w1 w i o s) := by
  unfold digFailed
  repeat' (first | with_reducible assumption | with_reducible apply keeps_digRecord)

theorem keeps_digRefuse {s0 : State} (x : Post) (p : Nat) (code : Byte) {s : State} (hs : Keeps s0 s) : Keeps s0 (digRefuse x p code s) := by
  unfold digRefuse
  repeat' (first | with_reducible assumption | with_reducible apply keeps_digFailed | split)

theorem keeps_digAccept {s0 : State} (x : Post) (p : Nat) {s : State} (hs : Keeps s0 s) : Keeps1 s0 (digAccept x p s) := by
  unfold digAccept
  repeat' (first
      | with_reducible assumption | with_reducible apply keeps_touchRange | with_reducible apply keeps_digFailed
      | with_reducible apply keeps_tickFree | with_reducible apply keeps_modPart | with_reducible apply Keeps.at | simp -proj only [Keeps.lit_iff]
      | split | with_reducible apply Keeps1.mk)

theorem keeps_digServe {s0 : State} (q : Packet) {s : State} (hs : Keeps s0 s) : Keeps s0 (digServe q s) := by
  unfold digServe
  repeat' (first
      | with_reducible assumption | with_reducible refine keeps_postServe _ _ (fun z0 z1 z2 z3 hz => ?_) (fun z0 z1 z2 hz => ?_) ?_
      | with_reducible apply keeps_digRefuse | with_reducible apply keeps_digAccept)

theorem keeps_execDigest {s0 : State} (t : Poster) {s : State} (hs : Keeps s0 s) : KeepsO s0 (execDigest t s) := by
  unfold execDigest
  apply KeepsO.next
  repeat' (first
      | with_reducible assumption | with_reducible refine keeps_postOut _ _ _ (fun z0 z1 hz => ?_) ?_ | with_reducible apply keeps_digServe
      | with_reducible apply keeps_takePost | split)

theorem keeps_digRead {s0 : State} (p : Nat) (r : DigRegion) {s : State} (hs : Keeps s0 s) : Keeps1 s0 (digRead p r s) := by
  unfold digRead
  repeat' (first
      | with_reducible assumption | with_reducible apply keeps_touchRange | with_reducible refine Keeps1.fst (keeps_bstRead _ _ _ _ ?_)
      | with_reducible exact Keeps1.fst ht | with_reducible refine Keeps1.fst (Keeps1.foldl (fun t x ht => ?_) _ ?_) | split
      | with_reducible apply Keeps1.mk)

theorem keeps_digGroup {s0 : State} (p : Nat) (rs : List DigRegion) {s : State} (hs : Keeps s0 s) : Keeps1 s0 (digGroup p rs s) := by
  unfold digGroup
  repeat' (first
      | with_reducible assumption | with_reducible refine Keeps1.fst (keeps_digRead _ _ ?_) | with_reducible exact Keeps1.fst ht
      | with_reducible refine Keeps1.fst (Keeps1.foldl (fun t x ht => ?_) _ ?_) | split | with_reducible apply Keeps1.mk)

theorem keeps_digFinish {s0 : State} (c : DigCmd) {s : State} (hs : Keeps s0 s) : Keeps s0 (digFinish c s) := by
  unfold digFinish
  repeat' (first
      | with_reducible assumption | with_reducible apply keeps_digFailed | with_reducible apply keeps_touchRange
      | with_reducible apply keeps_digRecord | with_reducible apply keeps_modPart | with_reducible apply Keeps.at
      | with_reducible refine Keeps1.fst (keeps_digGroup _ _ ?_) | simp -proj only [Keeps.lit_iff] | split)

theorem keeps_execDigestDone {s0 : State} {s : State} (hs : Keeps s0 s) : KeepsO s0 (execDigestDone s) := by
  unfold execDigestDone
  apply KeepsO.next
  repeat' (first
      | with_reducible assumption | with_reducible apply keeps_digFinish | with_reducible apply Keeps.at | simp -proj only [Keeps.lit_iff] | split)

theorem keeps_execStepAdv {s0 : State} (t : Tile) {s : State} (hs : Keeps s0 s) : KeepsO s0 (execStepAdv t s) := by
  unfold execStepAdv
  apply KeepsO.next
  repeat' (first | with_reducible assumption | with_reducible apply keeps_stepAdvance)

theorem keeps_imgStepOp {s0 : State} (p : Nat) (v : Word) {s : State} (hs : Keeps s0 s) : Keeps s0 (imgStepOp p v s) := by
  unfold imgStepOp
  repeat' (first
      | with_reducible assumption | with_reducible apply keeps_modTile | with_reducible apply keeps_stick
      | with_reducible refine Keeps.foldl (fun t x ht => ?_) _ ?_ | split)

theorem keeps_execImgStepWrite {s0 : State} (p : Part) (v : Word) {s : State} (hs : Keeps s0 s) : KeepsO s0 (execImgStepWrite p v s) := by
  unfold execImgStepWrite
  apply KeepsO.next
  repeat' (first | with_reducible assumption | with_reducible apply keeps_imgStepOp)

end Sys2Proof.Machine
end

