-- ==== Sys2Proof/Laws/KeepLinks.lean ====
section
/-!
SUPPORT. Laws/KeepLinks.lean: every operation on links, board store, images and cells keeps what `Keeps` says.
-/
namespace Sys2Proof.Machine

/-! Machine/BoardStore.lean -/

theorem keeps_cacheRefuse {s0 : State} (q : Packet) {s : State} (hs : Keeps s0 s) : KeepsS s0 (cacheRefuse q s) := by
  unfold cacheRefuse
  repeat' (first
      | with_reducible assumption | with_reducible exact KeepsS.none | with_reducible apply KeepsS.some | with_reducible apply keeps_unitRefuse
      | with_reducible apply keeps_answer | with_reducible apply keeps_logEvent | with_reducible apply keeps_gateAnswer
      | refine KeepsB.get' (keeps_memGateFor _ _ _ ?_) (by assumption) | simp -proj only [Keeps.lit_iff] | split)

theorem keeps_serveCrd {s0 : State} (q : Packet) {s : State} (hs : Keeps s0 s) : Keeps s0 (serveCrd q s) := by
  unfold serveCrd
  repeat' (first
      | assumption | apply keeps_answer | apply keeps_endLast | refine Keeps.foldl (fun t x ht => ?_) _ ?_
      | refine KeepsS.get (keeps_cacheRefuse _ ?_) (by assumption) | refine Keeps1.fst (keeps_bstRead _ _ _ _ ?_) | simp -proj only [Keeps.lit_iff]
      | split)

theorem keeps_serveCwr {s0 : State} (q : Packet) (data : List Byte) {s : State} (hs : Keeps s0 s) : Keeps s0 (serveCwr q data s) := by
  unfold serveCwr
  repeat' (first
      | assumption | apply keeps_answer | refine KeepsS.get (keeps_cacheRefuse _ ?_) (by assumption)
      | refine Keeps1.fst (keeps_bstWrite _ _ _ _ _ ?_) | split)

theorem keeps_execCrd {s0 : State} (p : Packet) {s : State} (hs : Keeps s0 s) : KeepsO s0 (execCrd p s) := by
  unfold execCrd
  apply KeepsO.next
  repeat' (first
      | assumption | refine keeps_arrive _ _ _ (fun z0 z1 hz => ?_) ?_ | refine keeps_viaPort _ _ (fun z0 z1 hz => ?_) ?_ | apply keeps_serveCrd)

theorem keeps_execCwr {s0 : State} (p : Packet) (data : List Byte) {s : State} (hs : Keeps s0 s) : KeepsO s0 (execCwr p data s) := by
  unfold execCwr
  apply KeepsO.next
  repeat' (first
      | assumption | refine keeps_arrive _ _ _ (fun z0 z1 hz => ?_) ?_ | refine keeps_viaPort _ _ (fun z0 z1 hz => ?_) ?_ | apply keeps_serveCwr)

theorem keeps_chanRefuse {s0 : State} (q : Packet) {s : State} (hs : Keeps s0 s) : KeepsS s0 (chanRefuse q s) := by
  unfold chanRefuse
  repeat' (first
      | with_reducible assumption | with_reducible exact KeepsS.none | with_reducible apply KeepsS.some | with_reducible apply keeps_unitRefuse
      | with_reducible apply keeps_answer | refine KeepsS.get (keeps_gateUnit _ _ ?_) (by assumption) | simp -proj only [Keeps.lit_iff] | split)

theorem keeps_burstRead {s0 : State} (ep : Nat) (q : Packet) {s : State} (hs : Keeps s0 s) : Keeps s0 (burstRead ep q s) := by
  unfold burstRead
  repeat' (first | assumption | apply keeps_answerAs)

theorem keeps_burstWrite {s0 : State} (ep : Nat) (q : Packet) (data : List Byte) {s : State} (hs : Keeps s0 s) :
    Keeps s0 (burstWrite ep q data s) := by
  unfold burstWrite
  repeat' (first | assumption | apply keeps_answerAs | refine Keeps1.fst (keeps_writeAround _ _ _ _ ?_))

theorem keeps_burstWait {s0 : State} (c : Nat) (b : BurstRetry) {s : State} (hs : Keeps s0 s) : Keeps s0 (burstWait c b s) := by
  unfold burstWait
  repeat' (first | assumption | apply keeps_modBst)

theorem keeps_burstLost {s0 : State} (b : BurstRetry) {s : State} (hs : Keeps s0 s) : Keeps s0 (burstLost b s) := by
  unfold burstLost
  repeat' (first | assumption | apply keeps_stick | apply keeps_logEvent | apply keeps_answerAs | refine Keeps1.fst (keeps_loseLine _ ?_) | split)

theorem keeps_serveBrd {s0 : State} (edcOk : Bool) (q : Packet) {s : State} (hs : Keeps s0 s) : Keeps s0 (serveBrd edcOk q s) := by
  unfold serveBrd
  repeat' (first | assumption | apply keeps_burstRead | apply keeps_burstWait | refine KeepsS.get (keeps_chanRefuse _ ?_) (by assumption) | split)

theorem keeps_serveBwr {s0 : State} (data : List Byte) (edcOk : Bool) (q : Packet) {s : State} (hs : Keeps s0 s) :
    Keeps s0 (serveBwr data edcOk q s) := by
  unfold serveBwr
  repeat' (first | assumption | apply keeps_burstWrite | apply keeps_burstWait | refine KeepsS.get (keeps_chanRefuse _ ?_) (by assumption) | split)

theorem keeps_execBrd {s0 : State} (p : Packet) (edcOk : Bool) {s : State} (hs : Keeps s0 s) : KeepsO s0 (execBrd p edcOk s) := by
  unfold execBrd
  apply KeepsO.next
  repeat' (first | assumption | refine keeps_arrive _ _ _ (fun z0 z1 hz => ?_) ?_ | apply keeps_serveBrd)

theorem keeps_execBwr {s0 : State} (p : Packet) (data : List Byte) (edcOk : Bool) {s : State} (hs : Keeps s0 s) :
    KeepsO s0 (execBwr p data edcOk s) := by
  unfold execBwr
  apply KeepsO.next
  repeat' (first | assumption | refine keeps_arrive _ _ _ (fun z0 z1 hz => ?_) ?_ | apply keeps_serveBwr)

theorem keeps_execRefreshWindow {s0 : State} (c : Chan) (hot : Bool) (retryOk : List Bool) (waited : Nat) {s : State} (hs : Keeps s0 s) :
    KeepsO s0 (execRefreshWindow c hot retryOk waited s) := by
  unfold execRefreshWindow
  apply KeepsO.next
  repeat' (first
      | assumption | apply keeps_modBst | apply keeps_burstWrite | apply keeps_burstRead | apply keeps_burstWait | apply keeps_burstLost
      | apply keeps_bump | refine Keeps.foldl (fun t x ht => ?_) _ ?_ | simp -proj only [Keeps.lit_iff] | split)

theorem keeps_bstFlushWrite {s0 : State} (v : Word) {s : State} (hs : Keeps s0 s) : Keeps s0 (bstFlushWrite v s) := by
  unfold bstFlushWrite
  repeat' (first | assumption | apply keeps_modBst | split)

theorem keeps_execBstFlush {s0 : State} (v : Word) {s : State} (hs : Keeps s0 s) : KeepsO s0 (execBstFlush v s) := by
  unfold execBstFlush
  apply KeepsO.next
  repeat' (first | assumption | apply keeps_bstFlushWrite)

theorem keeps_execBstFlushDone {s0 : State} {s : State} (hs : Keeps s0 s) : KeepsO s0 (execBstFlushDone s) := by
  unfold execBstFlushDone
  apply KeepsO.next
  repeat' (first
      | assumption | apply keeps_stick | apply keeps_modBst | apply keeps_flushSets | refine KeepsS.get (keeps_flushWait _ _ ?_) (by assumption)
      | simp -proj only [Keeps.lit_iff] | split)

/-! Machine/PwrOps.lean -/

theorem keeps_modPwr {s0 : State} (f : PwrSt → PwrSt) {s : State} (hs : Keeps s0 s) : Keeps s0 (modPwr f s) := by
  unfold modPwr
  repeat' (first | assumption | apply Keeps.at | simp -proj only [Keeps.lit_iff])

theorem keeps_quietTick {s0 : State} {s : State} (hs : Keeps s0 s) : Keeps s0 (quietTick s) := by
  unfold quietTick
  repeat' (first | assumption | apply keeps_modPwr | split)

/-! Machine/ImageOps.lean -/

theorem keeps_modImg {s0 : State} (f : ImgSt → ImgSt) {s : State} (hs : Keeps s0 s) : Keeps s0 (modImg f s) := by
  unfold modImg
  repeat' (first | with_reducible assumption | with_reducible apply Keeps.at | simp -proj only [Keeps.lit_iff])

theorem keeps_rejectLoad {s0 : State} (r : Reject) {s : State} (hs : Keeps s0 s) : Keeps s0 (rejectLoad r s) := by
  unfold rejectLoad
  repeat' (first | with_reducible assumption | with_reducible apply keeps_stick | with_reducible apply keeps_modImg)

theorem keeps_loadWait {s0 : State} (b : List Byte) {s : State} (hs : Keeps s0 s) : KeepsS s0 (loadWait b s) := by
  refine KeepsS.ite (keeps_flushWait _ _ hs) ?_
  intro u hu
  obtain ⟨p, -, h⟩ := List.exists_of_findSome?_eq_some hu
  exact KeepsS.get (keeps_flushWait _ _ hs) h

theorem keeps_beginApply {s0 : State} {s : State} (hs : Keeps s0 s) : Keeps s0 (beginApply s) := by
  unfold beginApply
  repeat' (first
      | with_reducible assumption | with_reducible apply keeps_modImg | with_reducible apply keeps_powerTiles | with_reducible apply keeps_setPState
      | with_reducible apply keeps_powerUp | with_reducible refine Keeps.foldl (fun t x ht => ?_) _ ?_)

theorem keeps_emptyPart {s0 : State} (p : Nat) {s : State} (hs : Keeps s0 s) : Keeps s0 (emptyPart p s) := by
  unfold emptyPart
  repeat' (first
      | with_reducible assumption | with_reducible apply keeps_modBst | with_reducible apply keeps_modPart | with_reducible apply Keeps.at
      | simp -proj only [Keeps.lit_iff])

theorem keeps_loadEmpty {s0 : State} (p : Nat) {s : State} (hs : Keeps s0 s) : Keeps s0 (loadEmpty p s) := by
  unfold loadEmpty
  repeat' (first | with_reducible assumption | with_reducible apply keeps_emptyPart | with_reducible apply keeps_putB)

theorem keeps_fullReset {s0 : State} {s : State} (hs : Keeps s0 s) : Keeps s0 (fullReset s) := by
  unfold fullReset
  repeat' (first
      | with_reducible assumption | with_reducible apply keeps_solvDropPart | with_reducible apply keeps_collEndAll
      | with_reducible apply keeps_tileReset | with_reducible apply keeps_dropSets | with_reducible apply keeps_flushSets
      | with_reducible refine Keeps.foldl (fun t x ht => ?_) _ ?_ | with_reducible apply Keeps.atClear | simp -proj only [Keeps.lit_iff])

theorem keeps_partReset {s0 : State} (p : Nat) {s : State} (hs : Keeps s0 s) : Keeps s0 (partReset p s) := by
  unfold partReset
  repeat' (first
      | with_reducible assumption | with_reducible apply keeps_solvDropPart | with_reducible apply keeps_collEndAll
      | with_reducible apply keeps_tileReset | with_reducible apply keeps_dropSets | with_reducible apply keeps_flushSets
      | with_reducible apply keeps_zeroRange | with_reducible apply keeps_loadEmpty | with_reducible refine Keeps.foldl (fun t x ht => ?_) _ ?_
      | split)

theorem keeps_applyLinks_applyModePorts {s0 : State} (was : List Nat) {s : State} (hs : Keeps s0 s) : Keeps s0 (applyLinks.applyModePorts was s) := by
  unfold applyLinks.applyModePorts
  repeat' (first
      | with_reducible assumption | with_reducible apply keeps_modCell | with_reducible apply keeps_putB
      | with_reducible refine Keeps.foldl (fun t x ht => ?_) _ ?_ | simp -proj only [Keeps.lit_iff] | split)

theorem keeps_applyLinks {s0 : State} (b : List Byte) {y1 : State} (hy1 : Keeps s0 y1) : Keeps s0 (applyLinks b y1) := by
  unfold applyLinks
  repeat' (first
      | with_reducible assumption | with_reducible apply keeps_modPort | with_reducible apply keeps_darkPort | with_reducible apply keeps_loseLink
      | with_reducible apply keeps_powerUp | with_reducible apply keeps_applyLinks_applyModePorts
      | with_reducible refine Keeps.foldl (fun t x ht => ?_) _ ?_ | simp -proj only [Keeps.lit_iff] | split)

theorem keeps_definePart {s0 : State} (b : List Byte) (p : Nat) (r : PartRec) {s : State} (hs : Keeps s0 s) : Keeps s0 (definePart b p r s) := by
  unfold definePart
  repeat' (first
      | with_reducible assumption | with_reducible apply keeps_modPart | with_reducible apply keeps_modTile | with_reducible apply keeps_setBytes
      | with_reducible apply keeps_setPState | with_reducible refine Keeps.foldl (fun t x ht => ?_) _ ?_ | simp -proj only [Keeps.lit_iff] | split)

theorem keeps_finishLoad {s0 : State} (b : List Byte) {s : State} (hs : Keeps s0 s) : Keeps s0 (finishLoad b s) := by
  unfold finishLoad
  repeat' (first
      | with_reducible assumption | with_reducible apply keeps_stick | with_reducible apply keeps_modImg | with_reducible apply Keeps.at
      | simp -proj only [Keeps.lit_iff])

theorem keeps_applyFull {s0 : State} (b : List Byte) {s : State} (hs : Keeps s0 s) : Keeps s0 (applyFull b s) := by
  unfold applyFull
  repeat' (first
      | with_reducible assumption | with_reducible apply keeps_fullReset | with_reducible apply keeps_loadEmpty | with_reducible apply keeps_modBst
      | with_reducible apply keeps_setReg | with_reducible apply keeps_applyLinks | with_reducible apply keeps_openPort
      | with_reducible apply keeps_finishLoad | with_reducible apply keeps_definePart | with_reducible refine Keeps.foldl (fun t x ht => ?_) _ ?_
      | with_reducible apply Keeps.at | simp -proj only [Keeps.lit_iff])

theorem keeps_applyPartial {s0 : State} (b : List Byte) {s : State} (hs : Keeps s0 s) : Keeps s0 (applyPartial b s) := by
  unfold applyPartial
  repeat' (first
      | with_reducible assumption | with_reducible apply keeps_partReset | with_reducible apply keeps_modBst | with_reducible apply keeps_zeroRange
      | with_reducible apply keeps_tileReset | with_reducible apply keeps_finishLoad | with_reducible apply keeps_definePart
      | with_reducible refine Keeps.foldl (fun t x ht => ?_) _ ?_ | split)

theorem keeps_failApply {s0 : State} (b : List Byte) (r : Reject) {s : State} (hs : Keeps s0 s) : Keeps s0 (failApply b r s) := by
  unfold failApply
  repeat' (first
      | with_reducible assumption | with_reducible apply keeps_loadEmpty | with_reducible apply keeps_fullReset | with_reducible apply keeps_darkPort
      | with_reducible apply keeps_loseLink | with_reducible apply keeps_rejectLoad | with_reducible apply keeps_setReg
      | with_reducible apply keeps_modBst | with_reducible apply keeps_partReset | with_reducible refine Keeps.foldl (fun t x ht => ?_) _ ?_ | split)

/-! Machine/MgtOps.lean -/

theorem keeps_modMgt {s0 : State} (f : MgtSt → MgtSt) {s : State} (hs : Keeps s0 s) : Keeps s0 (modMgt f s) := by
  unfold modMgt
  repeat' (first | with_reducible assumption | with_reducible apply Keeps.at | simp -proj only [Keeps.lit_iff])

theorem keeps_noteSensor {s0 : State} (i : Nat) {s : State} (hs : Keeps s0 s) : Keeps s0 (noteSensor i s) := by
  unfold noteSensor
  repeat' (first
      | with_reducible assumption | with_reducible apply keeps_modMgt | with_reducible apply Keeps.at | simp -proj only [Keeps.lit_iff] | split)

theorem keeps_noteLinkDown {s0 : State} {s : State} (hs : Keeps s0 s) : Keeps s0 (noteLinkDown s) := by
  unfold noteLinkDown
  repeat' (first
      | with_reducible assumption | with_reducible apply keeps_modMgt | with_reducible apply Keeps.at | simp -proj only [Keeps.lit_iff] | split)

theorem keeps_noteSensors {s0 : State} {s : State} (hs : Keeps s0 s) : Keeps s0 (noteSensors s) := by
  unfold noteSensors
  repeat' (first | with_reducible assumption | with_reducible apply keeps_noteSensor | with_reducible refine Keeps.foldl (fun t x ht => ?_) _ ?_)

theorem keeps_mgmtReply {s0 : State} (type : Nat) (body : List Byte) {s : State} (hs : Keeps s0 s) : Keeps s0 (mgmtReply type body s) := by
  unfold mgmtReply
  repeat' (first | with_reducible assumption | with_reducible apply Keeps.at | simp -proj only [Keeps.lit_iff])

theorem keeps_vdmReply {s0 : State} (cmd : Nat) (result : Nat) (rest : List Byte) {s : State} (hs : Keeps s0 s) :
    Keeps s0 (vdmReply cmd result rest s) := by
  unfold vdmReply
  repeat' (first | with_reducible assumption | with_reducible apply keeps_mgmtReply)

/-! Machine/Links.lean -/

theorem keeps_frameCounts {s0 : State} (n : Nat) (f : Frame) {s : State} (hs : Keeps s0 s) : Keeps s0 (frameCounts n f s) := by
  unfold frameCounts
  repeat' (first
      | with_reducible assumption | with_reducible apply keeps_logEvent | with_reducible apply keeps_bump | with_reducible apply keeps_modPort
      | with_reducible apply keeps_loseLink | simp -proj only [Keeps.lit_iff] | split)

theorem keeps_resendAll {s0 : State} (n : Nat) {s : State} (hs : Keeps s0 s) : Keeps s0 (resendAll n s) := by
  unfold resendAll
  repeat' (first
      | with_reducible assumption | with_reducible apply keeps_logEvent | with_reducible apply keeps_bump | with_reducible apply keeps_sendFrame
      | with_reducible refine Keeps.foldl (fun t x ht => ?_) _ ?_ | simp -proj only [Keeps.lit_iff] | split)

theorem keeps_frameControl {s0 : State} (n : Nat) (f : Frame) {s : State} (hs : Keeps s0 s) : Keeps s0 (frameControl n f s) := by
  unfold frameControl
  repeat' (first
      | with_reducible assumption | with_reducible apply keeps_modPort | with_reducible apply keeps_sendEmpty | with_reducible apply keeps_resendAll
      | with_reducible apply keeps_linkPump | split)

theorem keeps_rxSwitch {s0 : State} (n : Nat) (q : Nat) {s : State} (hs : Keeps s0 s) : Keeps s0 (rxSwitch n q s) := by
  unfold rxSwitch
  repeat' (first
      | with_reducible assumption | with_reducible apply keeps_stick | with_reducible apply keeps_logEvent | with_reducible apply keeps_modPort
      | split)

theorem keeps_sendNak {s0 : State} (n : Nat) {s : State} (hs : Keeps s0 s) : Keeps s0 (sendNak n s) := by
  unfold sendNak
  repeat' (first | with_reducible assumption | with_reducible apply keeps_sendEmpty | with_reducible apply keeps_modPort | split)

theorem keeps_execDataFrame {s0 : State} (n : Port) (f : Frame) {s : State} (hs : Keeps s0 s) : KeepsO s0 (execDataFrame n f s) := by
  unfold execDataFrame
  apply KeepsO.next
  repeat' (first
      | with_reducible assumption | with_reducible apply keeps_frameCounts | with_reducible apply keeps_sendNak
      | with_reducible apply keeps_frameControl | with_reducible apply keeps_modPort | with_reducible apply keeps_rxSwitch
      | with_reducible apply keeps_sendEmpty | with_reducible apply keeps_takeSlot | with_reducible refine Keeps.foldl (fun t x ht => ?_) _ ?_
      | simp -proj only [Keeps.lit_iff] | split)

theorem keeps_execEmptyFrame {s0 : State} (n : Port) (f : Frame) {s : State} (hs : Keeps s0 s) : KeepsO s0 (execEmptyFrame n f s) := by
  unfold execEmptyFrame
  apply KeepsO.next
  repeat' (first
      | with_reducible assumption | with_reducible apply keeps_frameCounts | with_reducible apply keeps_frameControl
      | simp -proj only [Keeps.lit_iff] | split)

theorem keeps_execTrainFrame {s0 : State} (n : Port) (rec : List Byte) (keyOk : Bool) {s : State} (hs : Keeps s0 s) :
    KeepsO s0 (execTrainFrame n rec keyOk s) := by
  unfold execTrainFrame
  apply KeepsO.next
  repeat' (first
      | with_reducible assumption | with_reducible apply keeps_loseLink | with_reducible apply keeps_modPort | with_reducible apply keeps_attemptFail
      | split)

theorem keeps_execCloseFrame {s0 : State} (n : Port) (f : Frame) {s : State} (hs : Keeps s0 s) : KeepsO s0 (execCloseFrame n f s) := by
  unfold execCloseFrame
  apply KeepsO.next
  repeat' (first
      | with_reducible assumption | with_reducible apply keeps_frameCounts | with_reducible apply keeps_loseLink | simp -proj only [Keeps.lit_iff]
      | split)

theorem keeps_execNakResend {s0 : State} (n : Port) {s : State} (hs : Keeps s0 s) : KeepsO s0 (execNakResend n s) := by
  unfold execNakResend
  apply KeepsO.next
  repeat' (first | with_reducible assumption | with_reducible apply keeps_sendEmpty | split)

theorem keeps_execReplayResend {s0 : State} (n : Port) {s : State} (hs : Keeps s0 s) : KeepsO s0 (execReplayResend n s) := by
  unfold execReplayResend
  apply KeepsO.next
  repeat' (first | with_reducible assumption | with_reducible apply keeps_resendAll | split)

theorem keeps_execReplayTimeout {s0 : State} (n : Port) {s : State} (hs : Keeps s0 s) : KeepsO s0 (execReplayTimeout n s) := by
  unfold execReplayTimeout
  apply KeepsO.next
  repeat' (first | with_reducible assumption | with_reducible apply keeps_loseLink | split)

theorem keeps_execLaneRetire {s0 : State} (n : Port) (lane : Fin 10) {s : State} (hs : Keeps s0 s) : KeepsO s0 (execLaneRetire n lane s) := by
  unfold execLaneRetire
  apply KeepsO.next
  repeat' (first
      | with_reducible assumption | with_reducible apply keeps_modPort | with_reducible apply keeps_sendEmpty | with_reducible apply keeps_loseLink
      | simp -proj only [Keeps.lit_iff] | split)

theorem keeps_execPresenceGained {s0 : State} (n : Port) {s : State} (hs : Keeps s0 s) : KeepsO s0 (execPresenceGained n s) := by
  unfold execPresenceGained
  apply KeepsO.next
  repeat' (first
      | with_reducible assumption | with_reducible apply keeps_modPort | with_reducible apply keeps_endForwards | with_reducible apply keeps_bump
      | with_reducible apply keeps_modNi | with_reducible apply keeps_reroute | with_reducible apply keeps_startAttempt
      | simp -proj only [Keeps.lit_iff] | split)

theorem keeps_execPresenceLost {s0 : State} (n : Port) {s : State} (hs : Keeps s0 s) : KeepsO s0 (execPresenceLost n s) := by
  unfold execPresenceLost
  apply KeepsO.next
  repeat' (first
      | with_reducible assumption | with_reducible apply keeps_modPort | with_reducible apply keeps_loseLink | simp -proj only [Keeps.lit_iff]
      | split)

theorem keeps_execTrainStateDone {s0 : State} (n : Port) (rx : BitVec 10) (tx : BitVec 10) {s : State} (hs : Keeps s0 s) :
    KeepsO s0 (execTrainStateDone n rx tx s) := by
  unfold execTrainStateDone
  apply KeepsO.next
  repeat' (first
      | with_reducible assumption | with_reducible apply keeps_startAttempt | with_reducible apply keeps_enterState
      | with_reducible apply keeps_attemptFail | with_reducible apply keeps_modPort | with_reducible apply keeps_portDown
      | with_reducible apply keeps_modCell | with_reducible apply keeps_reroute | simp -proj only [Keeps.lit_iff] | split)

theorem keeps_execTrainStateLimit {s0 : State} (n : Port) {s : State} (hs : Keeps s0 s) : KeepsO s0 (execTrainStateLimit n s) := by
  unfold execTrainStateLimit
  apply KeepsO.next
  repeat' (first | with_reducible assumption | with_reducible apply keeps_attemptFail | split)

theorem keeps_execTrainAttemptLimit {s0 : State} (n : Port) {s : State} (hs : Keeps s0 s) : KeepsO s0 (execTrainAttemptLimit n s) := by
  unfold execTrainAttemptLimit
  apply KeepsO.next
  repeat' (first | with_reducible assumption | with_reducible apply keeps_attemptFail | split)

theorem keeps_execBeaconEnd {s0 : State} (n : Port) {s : State} (hs : Keeps s0 s) : KeepsO s0 (execBeaconEnd n s) := by
  unfold execBeaconEnd
  apply KeepsO.next
  repeat' (first | with_reducible assumption | with_reducible apply keeps_startAttempt | split)

theorem keeps_retrainPort {s0 : State} (n : Nat) {s : State} (hs : Keeps s0 s) : Keeps s0 (retrainPort n s) := by
  unfold retrainPort
  repeat' (first
      | with_reducible assumption | with_reducible apply keeps_modPort | with_reducible apply keeps_loseLink
      | with_reducible apply keeps_startAttempt | split)

theorem keeps_execRetrain {s0 : State} (n : Port) {s : State} (hs : Keeps s0 s) : KeepsO s0 (execRetrain n s) := by
  unfold execRetrain
  apply KeepsO.next
  repeat' (first | with_reducible assumption | with_reducible apply keeps_retrainPort)

/-! Machine/Cell.lean -/

theorem keeps_sendRec {s0 : State} (k : Nat) (rec : List Byte) {s : State} (hs : Keeps s0 s) : Keeps s0 (sendRec k rec s) := by
  unfold sendRec
  repeat' (first | with_reducible assumption | with_reducible apply keeps_modCell | with_reducible apply Keeps.at | simp -proj only [Keeps.lit_iff])

theorem keeps_recSend {s0 : State} {s : State} (hs : Keeps s0 s) : Keeps s0 (recSend s) := by
  unfold recSend
  repeat' (first
      | with_reducible assumption | with_reducible apply keeps_modCell | with_reducible apply keeps_forward | with_reducible apply keeps_putEntry
      | simp -proj only [Keeps.lit_iff] | split)

theorem keeps_recPump {s0 : State} {s : State} (hs : Keeps s0 s) : Keeps s0 (recPump s) := by
  unfold recPump
  repeat' (first | with_reducible assumption | with_reducible apply keeps_recSend | with_reducible refine Keeps.foldl (fun t x ht => ?_) _ ?_)

theorem keeps_recTake {s0 : State} (from_ : Nat → Bool) (rec : List Byte) {f : State → State} {s : State} (hf : ∀ z0, Keeps s0 z0 → Keeps s0 (f z0))
    (hs : Keeps s0 s) :
    Keeps s0 (recTake from_ rec f s) := by
  unfold recTake
  repeat' (first | with_reducible assumption | with_reducible apply keeps_answer | with_reducible apply hf | split)

theorem keeps_sendAll {s0 : State} (rec : List Byte) {s : State} (hs : Keeps s0 s) : Keeps s0 (sendAll rec s) := by
  unfold sendAll
  repeat' (first | with_reducible assumption | with_reducible apply keeps_sendRec | with_reducible refine Keeps.foldl (fun t x ht => ?_) _ ?_)

theorem keeps_stopParts {s0 : State} (mask : Nat) {s : State} (hs : Keeps s0 s) : Keeps s0 (stopParts mask s) := by
  unfold stopParts
  repeat' (first | with_reducible assumption | with_reducible apply keeps_stopPart | with_reducible refine Keeps.foldl (fun t x ht => ?_) _ ?_)

theorem keeps_applyMode {s0 : State} (was : Bool) (full : Bool) {s : State} (hs : Keeps s0 s) : Keeps s0 (applyMode was full s) := by
  unfold applyMode
  repeat' (first
      | with_reducible assumption | with_reducible apply keeps_putB | with_reducible apply keeps_modCell
      | with_reducible refine Keeps.foldl (fun t x ht => ?_) _ ?_ | split)

theorem keeps_noteManager {s0 : State} {s : State} (hs : Keeps s0 s) : Keeps s0 (noteManager s) := by
  unfold noteManager
  repeat' (first
      | with_reducible assumption | with_reducible apply keeps_stick | with_reducible apply keeps_modCell | simp -proj only [Keeps.lit_iff] | split)

theorem keeps_capToBase {s0 : State} (inCell : Bool) {s : State} (hs : Keeps s0 s) : Keeps s0 (capToBase inCell s) := by
  unfold capToBase
  repeat' (first | with_reducible assumption | with_reducible apply keeps_modPwr)

theorem keeps_adoptMap {s0 : State} (m : CellMap) {s : State} (hs : Keeps s0 s) : Keeps s0 (adoptMap m s) := by
  unfold adoptMap
  repeat' (first
      | with_reducible assumption | with_reducible apply keeps_modCell | with_reducible apply keeps_stopParts | with_reducible apply keeps_applyMode
      | with_reducible apply keeps_capToBase | with_reducible apply keeps_noteManager | with_reducible apply keeps_reroute
      | with_reducible apply Keeps.at | simp -proj only [Keeps.lit_iff] | split)

theorem keeps_issueMap {s0 : State} (m : CellMap) (sw : SwitchSt) {s : State} (hs : Keeps s0 s) : Keeps s0 (issueMap m sw s) := by
  unfold issueMap
  repeat' (first
      | with_reducible assumption | with_reducible apply keeps_sendAll | with_reducible apply keeps_modCell | with_reducible apply keeps_adoptMap)

theorem keeps_settleRanks {s0 : State} {s : State} (hs : Keeps s0 s) : Keeps s0 (settleRanks s) := by
  unfold settleRanks
  repeat' (first
      | with_reducible assumption | with_reducible apply keeps_stick | with_reducible apply keeps_modCell | simp -proj only [Keeps.lit_iff] | split)

theorem keeps_manage {s0 : State} {s : State} (hs : Keeps s0 s) : Keeps s0 (manage s) := by
  unfold manage
  repeat' (first
      | with_reducible assumption | with_reducible apply keeps_issueMap | with_reducible apply keeps_modCell | with_reducible apply keeps_settleRanks
      | simp -proj only [Keeps.lit_iff] | split)

theorem keeps_cellStep {s0 : State} {s : State} (hs : Keeps s0 s) : Keeps s0 (cellStep s) := by
  unfold cellStep
  repeat' (first
      | with_reducible assumption | with_reducible apply keeps_noteSensors | with_reducible apply keeps_settleRanks
      | with_reducible apply keeps_manage | with_reducible apply keeps_noteManager | with_reducible apply keeps_reroute)

theorem keeps_locReply {s0 : State} (cmd : Nat) (result : Nat) {s : State} (hs : Keeps s0 s) : Keeps s0 (locReply cmd result s) := by
  unfold locReply
  repeat' (first | with_reducible assumption | with_reducible apply keeps_vdmReply)

theorem keeps_openCellPorts {s0 : State} {s : State} (hs : Keeps s0 s) : Keeps s0 (openCellPorts s) := by
  unfold openCellPorts
  repeat' (first
      | with_reducible assumption | with_reducible apply keeps_modPort | with_reducible apply keeps_startAttempt
      | with_reducible refine Keeps.foldl (fun t x ht => ?_) _ ?_ | simp -proj only [Keeps.lit_iff] | split)

theorem keeps_takeCoords {s0 : State} (tier : Nat) (cell : Nat) (slot : Nat) {s : State} (hs : Keeps s0 s) :
    Keeps s0 (takeCoords tier cell slot s) := by
  unfold takeCoords
  repeat' (first | with_reducible assumption | with_reducible apply keeps_openCellPorts | with_reducible apply keeps_modCell)

theorem keeps_leaveCell {s0 : State} {s : State} (hs : Keeps s0 s) : Keeps s0 (leaveCell s) := by
  unfold leaveCell
  repeat' (first
      | with_reducible assumption | with_reducible apply keeps_collEndAll | with_reducible apply keeps_stopParts
      | with_reducible apply keeps_applyMode | with_reducible apply keeps_modCell | with_reducible apply keeps_loseLink
      | with_reducible refine Keeps.foldl (fun t x ht => ?_) _ ?_ | with_reducible apply Keeps.at | simp -proj only [Keeps.lit_iff] | split)

theorem keeps_execLocationAssign {s0 : State} (flags : Byte) (tier : Byte) (cell : Byte) (slot : SlotBytes) {s : State}
    (hs : Keeps s0 s) :
    KeepsO s0 (execLocationAssign flags tier cell slot s) := by
  unfold execLocationAssign
  apply KeepsO.next
  repeat' (first
      | with_reducible assumption | with_reducible apply keeps_locReply | with_reducible apply keeps_cellStep | with_reducible apply keeps_takeCoords
      | with_reducible apply keeps_leaveCell | simp -proj only [Keeps.lit_iff] | split)

theorem keeps_execLocationQuery {s0 : State} (msg : VdmBytes) {s : State} (hs : Keeps s0 s) :
    KeepsO s0 (execLocationQuery msg s) := by
  unfold execLocationQuery
  apply KeepsO.next
  repeat' (first | with_reducible assumption | with_reducible apply keeps_locReply | split)

theorem keeps_sendCap {s0 : State} (k : Nat) (w : Nat) {s : State} (hs : Keeps s0 s) : Keeps s0 (sendCap k w s) := by
  unfold sendCap
  repeat' (first | with_reducible assumption | with_reducible apply keeps_modPwr | with_reducible apply keeps_sendRec | split)

theorem keeps_capStep {s0 : State} {s : State} (hs : Keeps s0 s) : Keeps s0 (capStep s) := by
  unfold capStep
  repeat' (first
      | with_reducible assumption | with_reducible apply keeps_modCell | with_reducible apply keeps_sendCap
      | with_reducible refine Keeps.foldl (fun t x ht => ?_) _ ?_ | split)

theorem keeps_agreeStart {s0 : State} {s : State} (hs : Keeps s0 s) : Keeps s0 (agreeStart s) := by
  unfold agreeStart
  repeat' (first
      | with_reducible assumption | with_reducible apply keeps_sendAll | with_reducible apply keeps_modPwr | simp -proj only [Keeps.lit_iff] | split)

theorem keeps_execMemberSend {s0 : State} {s : State} (hs : Keeps s0 s) : KeepsO s0 (execMemberSend s) := by
  unfold execMemberSend
  apply KeepsO.next
  repeat' (first | with_reducible assumption | with_reducible apply keeps_sendRec | with_reducible refine Keeps.foldl (fun t x ht => ?_) _ ?_ | split)

theorem keeps_resendMap {s0 : State} (k : Nat) (newly : Bool) (old : Option CellMap) {s : State} (hs : Keeps s0 s) :
    Keeps s0 (resendMap k newly old s) := by
  unfold resendMap
  repeat' (first | with_reducible assumption | with_reducible apply keeps_sendRec | simp -proj only [Keeps.lit_iff] | split)

theorem keeps_formMap {s0 : State} {s : State} (hs : Keeps s0 s) : Keeps s0 (formMap s) := by
  unfold formMap
  repeat' (first | with_reducible assumption | with_reducible apply keeps_noteSensors | with_reducible apply keeps_issueMap | split)

theorem keeps_takeMember {s0 : State} (n : Nat) (rec : List Byte) {s : State} (hs : Keeps s0 s) : Keeps s0 (takeMember n rec s) := by
  unfold takeMember
  repeat' (first
      | with_reducible assumption | with_reducible apply keeps_modCell | with_reducible apply keeps_stick | with_reducible apply keeps_noteLinkDown
      | with_reducible apply keeps_wakeCause | with_reducible apply keeps_agreeStart | with_reducible apply keeps_capStep
      | with_reducible apply keeps_formMap | with_reducible apply keeps_resendMap | with_reducible apply keeps_cellStep
      | simp -proj only [Keeps.lit_iff] | split)

theorem keeps_execMember {s0 : State} (n : Port) (rec : List Byte) {s : State} (hs : Keeps s0 s) : KeepsO s0 (execMember n rec s) := by
  unfold execMember
  apply KeepsO.next
  repeat' (first | with_reducible assumption | with_reducible refine keeps_recTake _ _ (fun z0 hz => ?_) ?_ | with_reducible apply keeps_takeMember)

theorem keeps_execSlotLost {s0 : State} (slot : CellSlot) {s : State} (hs : Keeps s0 s) : KeepsO s0 (execSlotLost slot s) := by
  unfold execSlotLost
  apply KeepsO.next
  repeat' (first | with_reducible assumption | with_reducible apply keeps_cellStep | with_reducible apply keeps_modCell | split)

theorem keeps_execMapFormation {s0 : State} {s : State} (hs : Keeps s0 s) : KeepsO s0 (execMapFormation s) := by
  unfold execMapFormation
  apply KeepsO.next
  repeat' (first | with_reducible assumption | with_reducible apply keeps_formMap)

theorem keeps_takeMap {s0 : State} (rec : List Byte) {s : State} (hs : Keeps s0 s) : Keeps s0 (takeMap rec s) := by
  unfold takeMap
  repeat' (first
      | with_reducible assumption | with_reducible apply keeps_adoptMap | with_reducible apply keeps_modCell | with_reducible apply keeps_noteSensors
      | with_reducible apply keeps_settleRanks | with_reducible apply keeps_sendRec | simp -proj only [Keeps.lit_iff] | split)

theorem keeps_execRankMap {s0 : State} (rec : List Byte) {s : State} (hs : Keeps s0 s) : KeepsO s0 (execRankMap rec s) := by
  unfold execRankMap
  apply KeepsO.next
  repeat' (first | with_reducible assumption | with_reducible refine keeps_recTake _ _ (fun z0 hz => ?_) ?_ | with_reducible apply keeps_takeMap)

theorem keeps_takeAck {s0 : State} (rec : List Byte) {s : State} (hs : Keeps s0 s) : Keeps s0 (takeAck rec s) := by
  unfold takeAck
  repeat' (first
      | with_reducible assumption | with_reducible apply keeps_cellStep | with_reducible apply keeps_modCell | simp -proj only [Keeps.lit_iff]
      | split)

theorem keeps_execMapAck {s0 : State} (rec : List Byte) {s : State} (hs : Keeps s0 s) : KeepsO s0 (execMapAck rec s) := by
  unfold execMapAck
  apply KeepsO.next
  repeat' (first | with_reducible assumption | with_reducible refine keeps_recTake _ _ (fun z0 hz => ?_) ?_ | with_reducible apply keeps_takeAck)

theorem keeps_execUplinkSwap {s0 : State} (n : Port) {s : State} (hs : Keeps s0 s) : KeepsO s0 (execUplinkSwap n s) := by
  unfold execUplinkSwap
  apply KeepsO.next
  repeat' (first
      | with_reducible assumption | with_reducible apply keeps_putB | with_reducible apply keeps_stick | with_reducible apply keeps_modCell | split)

end Sys2Proof.Machine
end

