-- ==== Sys2Proof/Laws/KeepPower.lean ====
section
/-!
SUPPORT. Laws/KeepPower.lean: every operation on power, heat, boot, clocks and partitions keeps what `Keeps` says.
-/
namespace Sys2Proof.Machine

/-! Machine/DomOps.lean -/

theorem keeps_domainOff {s0 : State} (n : Nat) {s : State} (hs : Keeps s0 s) : Keeps s0 (domainOff n s) := by
  unfold domainOff
  repeat' (first
      | with_reducible assumption | with_reducible apply keeps_darkPort | with_reducible apply keeps_loseLink | with_reducible apply keeps_modDom
      | with_reducible refine Keeps.foldl (fun t x ht => ?_) _ ?_ | with_reducible apply Keeps.at | simp -proj only [Keeps.lit_iff] | split)

theorem keeps_drainDone {s0 : State} (n : Nat) {s : State} (hs : Keeps s0 s) : Keeps s0 (drainDone n s) := by
  unfold drainDone
  repeat' (first
      | with_reducible assumption | with_reducible apply keeps_loseLink | with_reducible apply keeps_domainOff
      | with_reducible refine Keeps.foldl (fun t x ht => ?_) _ ?_ | split)

theorem keeps_tileCycle {s0 : State} (t : Nat) {s : State} (hs : Keeps s0 s) : Keeps s0 (tileCycle t s) := by
  unfold tileCycle
  repeat' (first | with_reducible assumption | with_reducible apply keeps_modTile | with_reducible apply keeps_tileClear)

theorem keeps_domainOn {s0 : State} (n : Nat) {s : State} (hs : Keeps s0 s) : Keeps s0 (domainOn n s) := by
  unfold domainOn
  repeat' (first
      | with_reducible assumption | with_reducible apply keeps_modDom | with_reducible apply keeps_tileCycle | with_reducible apply keeps_startCore
      | with_reducible apply keeps_solvKickAll | with_reducible apply keeps_openPort | with_reducible apply keeps_moveChans
      | with_reducible refine Keeps.foldl (fun t x ht => ?_) _ ?_ | split)

theorem keeps_dropChannels {s0 : State} {s : State} (hs : Keeps s0 s) : Keeps s0 (dropChannels s) := by
  unfold dropChannels
  repeat' (first | with_reducible assumption | with_reducible apply keeps_modBst)

theorem keeps_domainFault {s0 : State} (p : Nat) {s : State} (hs : Keeps s0 s) : Keeps s0 (domainFault p s) := by
  unfold domainFault
  repeat' (first
      | with_reducible assumption | with_reducible apply keeps_faultEnd | with_reducible apply keeps_modPart | with_reducible apply keeps_setPState
      | split)

theorem keeps_faultQuad {s0 : State} (q : Nat) {s : State} (hs : Keeps s0 s) : Keeps s0 (faultQuad q s) := by
  unfold faultQuad
  repeat' (first
      | with_reducible assumption | with_reducible apply keeps_domainFault | with_reducible refine Keeps.foldl (fun t x ht => ?_) _ ?_ | split)

theorem keeps_failOne {s0 : State} (n : Nat) {s : State} (hs : Keeps s0 s) : Keeps s0 (failOne n s) := by
  unfold failOne
  repeat' (first
      | with_reducible assumption | with_reducible apply keeps_endStation | with_reducible apply keeps_modDom | with_reducible apply keeps_faultQuad
      | with_reducible apply keeps_solvReset | with_reducible apply keeps_darkPort | with_reducible apply keeps_loseLink
      | with_reducible apply keeps_dropChannels | with_reducible apply keeps_collEndAll | with_reducible apply keeps_solvKickAll
      | with_reducible refine Keeps.foldl (fun t x ht => ?_) _ ?_ | with_reducible apply Keeps.at | simp -proj only [Keeps.lit_iff] | split)

theorem keeps_failDomain {s0 : State} (n : Nat) {s : State} (hs : Keeps s0 s) : Keeps s0 (failDomain n s) := by
  unfold failDomain
  repeat' (first | with_reducible assumption | with_reducible apply keeps_failOne | with_reducible refine Keeps.foldl (fun t x ht => ?_) _ ?_ | split)

theorem keeps_repairRows {s0 : State} {s : State} (hs : Keeps s0 s) : Keeps s0 (repairRows s) := by
  unfold repairRows
  repeat' (first
      | with_reducible assumption | with_reducible apply keeps_failOne | with_reducible refine Keeps.foldl (fun t x ht => ?_) _ ?_
      | with_reducible apply Keeps.at | simp -proj only [Keeps.lit_iff])

theorem keeps_domFail {s0 : State} (n : Nat) {s : State} (hs : Keeps s0 s) : Keeps s0 (domFail n s) := by
  unfold domFail
  repeat' (first
      | with_reducible assumption | with_reducible apply keeps_journalFail | with_reducible apply keeps_failDomain
      | with_reducible apply keeps_logEvent | with_reducible apply keeps_stick)

/-! Machine/Thermal.lean -/

theorem keeps_emptyAll {s0 : State} (code : Byte) {s : State} (hs : Keeps s0 s) : Keeps s0 (emptyAll code s) := by
  unfold emptyAll
  repeat' (first
      | with_reducible assumption | with_reducible apply keeps_collEndAll | with_reducible apply keeps_solvReset
      | with_reducible apply keeps_emptyPart | with_reducible apply keeps_setReg | with_reducible refine Keeps.foldl (fun t x ht => ?_) _ ?_
      | with_reducible apply Keeps.at | simp -proj only [Keeps.lit_iff])

theorem keeps_loseScratch {s0 : State} {s : State} (hs : Keeps s0 s) : Keeps s0 (loseScratch s) := by
  unfold loseScratch
  repeat' (first
      | with_reducible assumption | with_reducible apply keeps_tileClear | with_reducible apply keeps_modBst
      | with_reducible refine Keeps.foldl (fun t x ht => ?_) _ ?_ | with_reducible apply Keeps.atClear | simp -proj only [Keeps.lit_iff])

theorem keeps_loseDevices {s0 : State} {s : State} (hs : Keeps s0 s) : Keeps s0 (loseDevices s) := by
  unfold loseDevices
  repeat' (first | with_reducible assumption | with_reducible apply keeps_tickFree | with_reducible apply keeps_modBst)

theorem keeps_allOff {s0 : State} {s : State} (hs : Keeps s0 s) : Keeps s0 (allOff s) := by
  unfold allOff
  repeat' (first
      | with_reducible assumption | with_reducible apply keeps_resetStation | with_reducible apply keeps_darkPort
      | with_reducible apply keeps_loseLink | with_reducible refine Keeps.foldl (fun t x ht => ?_) _ ?_ | with_reducible apply Keeps.at
      | simp -proj only [Keeps.lit_iff])

theorem keeps_pauseStart {s0 : State} {s : State} (hs : Keeps s0 s) : Keeps s0 (pauseStart s) := by
  unfold pauseStart
  repeat' (first
      | with_reducible assumption | with_reducible apply keeps_modPwr | with_reducible apply keeps_saveRec | with_reducible apply Keeps.at
      | simp -proj only [Keeps.lit_iff])

theorem keeps_stopAll {s0 : State} (cause : Nat) {s : State} (hs : Keeps s0 s) : Keeps s0 (stopAll cause s) := by
  unfold stopAll
  repeat' (first
      | with_reducible assumption | with_reducible apply keeps_loseDevices | with_reducible apply keeps_loseScratch
      | with_reducible apply keeps_emptyAll | with_reducible apply keeps_allOff | with_reducible apply keeps_modImg
      | with_reducible apply keeps_modPwr | with_reducible apply keeps_putF | with_reducible apply keeps_stick | with_reducible apply keeps_logEvent
      | with_reducible apply keeps_noteSensors | with_reducible apply keeps_pauseStart | split)

theorem keeps_thermalCap {s0 : State} {s : State} (hs : Keeps s0 s) : Keeps s0 (thermalCap s) := by
  unfold thermalCap
  repeat' (first
      | with_reducible assumption | with_reducible apply keeps_putB | with_reducible apply keeps_modPwr | simp -proj only [Keeps.lit_iff] | split)

theorem keeps_execThermalRead {s0 : State} (temps : Temps) {s : State} (hs : Keeps s0 s) : KeepsO s0 (execThermalRead temps s) := by
  unfold execThermalRead
  apply KeepsO.next
  repeat' (first
      | with_reducible assumption | with_reducible apply keeps_thermalCap | with_reducible apply keeps_modPwr | with_reducible apply keeps_stopAll
      | with_reducible apply keeps_noteSensors | with_reducible apply Keeps.at | simp -proj only [Keeps.lit_iff] | split)

theorem keeps_execCoolantFall {s0 : State} {s : State} (hs : Keeps s0 s) : KeepsO s0 (execCoolantFall s) := by
  unfold execCoolantFall
  apply KeepsO.next
  repeat' (first
      | with_reducible assumption | with_reducible apply keeps_stopAll | with_reducible apply Keeps.at | simp -proj only [Keeps.lit_iff] | split)

theorem keeps_execCoolantRise {s0 : State} {s : State} (hs : Keeps s0 s) : KeepsO s0 (execCoolantRise s) := by
  unfold execCoolantRise
  apply KeepsO.next
  repeat' (first
      | with_reducible assumption | with_reducible apply keeps_noteSensors | with_reducible apply keeps_modPwr | with_reducible apply Keeps.at
      | simp -proj only [Keeps.lit_iff] | split)

theorem keeps_beginRamps {s0 : State} (k : Nat) {s : State} (hs : Keeps s0 s) : Keeps s0 (beginRamps k s) := by
  unfold beginRamps
  repeat' (first | with_reducible assumption | with_reducible apply keeps_modDom | with_reducible refine Keeps.foldl (fun t x ht => ?_) _ ?_ | split)

theorem keeps_beginStep {s0 : State} (k : Nat) {s : State} (hs : Keeps s0 s) : Keeps s0 (beginStep k s) := by
  unfold beginStep
  repeat' (first
      | with_reducible assumption | with_reducible apply keeps_saveRec | with_reducible apply keeps_beginRamps
      | with_reducible apply keeps_beginTraining | with_reducible apply Keeps.at | simp -proj only [Keeps.lit_iff] | split)

theorem keeps_thermClearOp {s0 : State} {s : State} (hs : Keeps s0 s) : Keeps s0 (thermClearOp s) := by
  unfold thermClearOp
  repeat' (first
      | with_reducible assumption | with_reducible apply keeps_putF | with_reducible apply keeps_putB | with_reducible apply keeps_noteSensors
      | with_reducible apply keeps_beginStep | with_reducible apply keeps_modPwr | with_reducible apply keeps_beginExit | split)

theorem keeps_execThermStopClear {s0 : State} {s : State} (hs : Keeps s0 s) : KeepsO s0 (execThermStopClear s) := by
  unfold execThermStopClear
  apply KeepsO.next
  repeat' (first | with_reducible assumption | with_reducible apply keeps_thermClearOp)

theorem keeps_execHaltAssert {s0 : State} {s : State} (hs : Keeps s0 s) : KeepsO s0 (execHaltAssert s) := by
  unfold execHaltAssert
  apply KeepsO.next
  repeat' (first
      | with_reducible assumption | with_reducible apply keeps_stick | with_reducible apply keeps_modPart | with_reducible apply keeps_suspendPart
      | with_reducible refine Keeps.foldl (fun t x ht => ?_) _ ?_ | with_reducible apply Keeps.at | simp -proj only [Keeps.lit_iff] | split)

theorem keeps_execHaltDeassert {s0 : State} {s : State} (hs : Keeps s0 s) : KeepsO s0 (execHaltDeassert s) := by
  unfold execHaltDeassert
  apply KeepsO.next
  repeat' (first
      | with_reducible assumption | with_reducible apply keeps_modPart | with_reducible apply keeps_resumePart
      | with_reducible refine Keeps.foldl (fun t x ht => ?_) _ ?_ | with_reducible apply Keeps.at | simp -proj only [Keeps.lit_iff] | split)

/-! Machine/ResetOps.lean -/

theorem keeps_hostReset {s0 : State} {s : State} (hs : Keeps s0 s) : Keeps s0 (hostReset s) := by
  unfold hostReset
  repeat' (first
      | assumption | apply keeps_setReg | apply keeps_putB | apply keeps_rejectLoad | apply keeps_failApply | apply Keeps.at
      | simp -proj only [Keeps.lit_iff] | split)

theorem keeps_startBoot {s0 : State} (step : Nat) (cause : Nat) (cold : Bool) (retry : Bool) {s : State} (hs : Keeps s0 s) :
    Keeps s0 (startBoot step cause cold retry s) := by
  unfold startBoot
  repeat' (first | assumption | apply keeps_beginStep | apply Keeps.at | simp -proj only [Keeps.lit_iff])

theorem keeps_warmReset {s0 : State} (cause : Nat) {s : State} (hs : Keeps s0 s) : Keeps s0 (warmReset cause s) := by
  unfold warmReset
  repeat' (first
      | with_reducible assumption | with_reducible apply keeps_resetStation | with_reducible apply keeps_darkPort
      | with_reducible apply keeps_loseLink | with_reducible apply keeps_startBoot | with_reducible apply keeps_putF
      | with_reducible refine Keeps.foldl (fun t x ht => ?_) _ ?_ | with_reducible apply Keeps.atClear | simp -proj only [Keeps.lit_iff])

theorem keeps_coldReset {s0 : State} (cause : Nat) (keep : Bool) {s : State} (hs : Keeps s0 s) : Keeps s0 (coldReset cause keep s) := by
  unfold coldReset
  repeat' (first | assumption | apply keeps_startBoot | apply keeps_putF | apply Keeps.atNew | simp -proj only [Keeps.lit_iff])

theorem keeps_unpowered {s0 : State} {s : State} (hs : Keeps s0 s) : Keeps s0 (unpowered s) := by
  unfold unpowered
  repeat' (first | assumption | apply Keeps.atNew | simp -proj only [Keeps.lit_iff])

theorem keeps_resetUnit {s0 : State} (u : Nat) {s : State} (hs : Keeps s0 s) : Keeps s0 (resetUnit u s) := by
  unfold resetUnit
  repeat' (first
      | with_reducible assumption | with_reducible apply keeps_faultEnd | with_reducible apply keeps_tileReset | with_reducible apply keeps_solvReset
      | with_reducible apply keeps_resetStation | with_reducible refine Keeps.foldl (fun t x ht => ?_) _ ?_ | with_reducible apply Keeps.at
      | simp -proj only [Keeps.lit_iff] | split)

theorem keeps_requestReset {s0 : State} (u : Nat) (who : Option (Nat × Nat)) {s : State} (hs : Keeps s0 s) : Keeps s0 (requestReset u who s) := by
  unfold requestReset
  repeat' (first
      | with_reducible assumption | with_reducible apply keeps_resetUnit | with_reducible apply Keeps.at | simp -proj only [Keeps.lit_iff] | split)

/-! Machine/Partitions.lean -/

theorem keeps_imgStartOp {s0 : State} (img : List Byte) (srcErr : Bool) (flash : Bool) {s : State} (hs : Keeps s0 s) :
    Keeps s0 (imgStartOp img srcErr flash s) := by
  unfold imgStartOp
  repeat' (first
      | with_reducible assumption | with_reducible apply keeps_stick | with_reducible apply Keeps.at | simp -proj only [Keeps.lit_iff] | split)

theorem keeps_execImgStart {s0 : State} (img : List Byte) (srcErr : Bool) {s : State} (hs : Keeps s0 s) : KeepsO s0 (execImgStart img srcErr s) := by
  unfold execImgStart
  apply KeepsO.next
  repeat' (first | with_reducible assumption | with_reducible apply keeps_imgStartOp)

theorem keeps_imgAbortOp {s0 : State} {s : State} (hs : Keeps s0 s) : Keeps s0 (imgAbortOp s) := by
  unfold imgAbortOp
  repeat' (first | with_reducible assumption | with_reducible apply keeps_rejectLoad | split)

theorem keeps_execImgAbort {s0 : State} {s : State} (hs : Keeps s0 s) : KeepsO s0 (execImgAbort s) := by
  unfold execImgAbort
  apply KeepsO.next
  repeat' (first | with_reducible assumption | with_reducible apply keeps_imgAbortOp)

theorem keeps_verifyEndOp {s0 : State} {s : State} (hs : Keeps s0 s) : Keeps s0 (verifyEndOp s) := by
  unfold verifyEndOp
  repeat' (first | with_reducible assumption | with_reducible apply keeps_rejectLoad | with_reducible apply keeps_beginApply | split)

theorem keeps_execVerifyEnd {s0 : State} {s : State} (hs : Keeps s0 s) : KeepsO s0 (execVerifyEnd s) := by
  unfold execVerifyEnd
  apply KeepsO.next
  repeat' (first | with_reducible assumption | with_reducible apply keeps_verifyEndOp)

theorem keeps_applyEndOp {s0 : State} (img : List Byte) (srcErr : Bool) {s : State} (hs : Keeps s0 s) : Keeps s0 (applyEndOp img srcErr s) := by
  unfold applyEndOp
  repeat' (first
      | with_reducible assumption | with_reducible apply keeps_failApply | with_reducible apply keeps_applyFull
      | with_reducible apply keeps_applyPartial | with_reducible apply Keeps.ite | refine KeepsS.get (keeps_loadWait _ ?_) (by assumption) | split)

theorem keeps_execApplyEnd {s0 : State} (img : List Byte) (srcErr : Bool) {s : State} (hs : Keeps s0 s) : KeepsO s0 (execApplyEnd img srcErr s) := by
  unfold execApplyEnd
  apply KeepsO.next
  repeat' (first | with_reducible assumption | with_reducible apply keeps_applyEndOp)

theorem keeps_partRunOp {s0 : State} (p : Nat) {s : State} (hs : Keeps s0 s) : Keeps s0 (partRunOp p s) := by
  unfold partRunOp
  repeat' (first
      | with_reducible assumption | with_reducible apply keeps_runPart | with_reducible apply keeps_modPart | with_reducible apply keeps_suspendPart
      | simp -proj only [Keeps.lit_iff] | split)

theorem keeps_execPartRun {s0 : State} (p : Part) {s : State} (hs : Keeps s0 s) : KeepsO s0 (execPartRun p s) := by
  unfold execPartRun
  apply KeepsO.next
  repeat' (first | with_reducible assumption | with_reducible apply keeps_partRunOp)

theorem keeps_execPartStop {s0 : State} (p : Part) {s : State} (hs : Keeps s0 s) : KeepsO s0 (execPartStop p s) := by
  unfold execPartStop
  apply KeepsO.next
  repeat' (first | with_reducible assumption | with_reducible apply keeps_stopPart)

theorem keeps_execPartStopped {s0 : State} (p : Part) {s : State} (hs : Keeps s0 s) : KeepsO s0 (execPartStopped p s) := by
  unfold execPartStopped
  apply KeepsO.next
  repeat' (first | with_reducible assumption | with_reducible apply keeps_becomeStopped | split)

theorem keeps_execPartWdogExpire {s0 : State} (t : Tile) {s : State} (hs : Keeps s0 s) : KeepsO s0 (execPartWdogExpire t s) := by
  unfold execPartWdogExpire
  apply KeepsO.next
  repeat' (first
      | with_reducible assumption | with_reducible apply keeps_faultPart | with_reducible apply keeps_resetUnit | simp -proj only [Keeps.lit_iff]
      | split)

/-! Machine/Power.lean -/

theorem keeps_setPwrPart {s0 : State} (p : Nat) (x : PartPwr) {s : State} (hs : Keeps s0 s) : Keeps s0 (setPwrPart p x s) := by
  unfold setPwrPart
  repeat' (first | with_reducible assumption | with_reducible apply keeps_modPwr)

theorem keeps_dutyStep {s0 : State} (low : Bool) {s : State} (hs : Keeps s0 s) : Keeps s0 (dutyStep low s) := by
  unfold dutyStep
  repeat' (first
      | with_reducible assumption | with_reducible apply keeps_modPwr | with_reducible apply keeps_stick | with_reducible apply keeps_putB
      | simp -proj only [Keeps.lit_iff] | split)

theorem keeps_windowStep {s0 : State} (acts : List Activity) (frames : Nat) {s : State} (hs : Keeps s0 s) : Keeps s0 (windowStep acts frames s) := by
  unfold windowStep
  repeat' (first | with_reducible assumption | with_reducible apply keeps_modPwr)

theorem keeps_execControlPeriod {s0 : State} (acts : List Activity) (frames : Nat) {s : State} (hs : Keeps s0 s) :
    KeepsO s0 (execControlPeriod acts frames s) := by
  unfold execControlPeriod
  apply KeepsO.next
  repeat' (first
      | with_reducible assumption | with_reducible apply keeps_windowStep | with_reducible apply keeps_modPwr | with_reducible apply keeps_setPwrPart
      | with_reducible apply keeps_dutyStep | with_reducible refine Keeps.foldl (fun t x ht => ?_) _ ?_ | split)

theorem keeps_execAvsSample {s0 : State} (rails : Rails) {s : State} (hs : Keeps s0 s) : KeepsO s0 (execAvsSample rails s) := by
  unfold execAvsSample
  apply KeepsO.next
  repeat' (first
      | with_reducible assumption | with_reducible apply keeps_noteSensors | with_reducible apply keeps_tickFree | with_reducible apply keeps_modPwr)

theorem keeps_execCalibrationWindow {s0 : State} {s : State} (hs : Keeps s0 s) : KeepsO s0 (execCalibrationWindow s) := by
  unfold execCalibrationWindow
  apply KeepsO.next
  repeat' (first
      | with_reducible assumption | with_reducible apply keeps_stick | with_reducible apply keeps_putB | with_reducible apply keeps_putF
      | with_reducible apply keeps_modPwr | with_reducible apply Keeps.at | simp -proj only [Keeps.lit_iff] | split)

theorem keeps_execPowerSuspend {s0 : State} {s : State} (hs : Keeps s0 s) : KeepsO s0 (execPowerSuspend s) := by
  unfold execPowerSuspend
  apply KeepsO.next
  repeat' (first
      | with_reducible assumption | with_reducible apply keeps_modPart | with_reducible apply keeps_suspendPart | with_reducible apply keeps_logEvent
      | with_reducible apply keeps_stick | simp -proj only [Keeps.lit_iff] | split)

theorem keeps_execPowerResume {s0 : State} {s : State} (hs : Keeps s0 s) : KeepsO s0 (execPowerResume s) := by
  unfold execPowerResume
  apply KeepsO.next
  repeat' (first
      | with_reducible assumption | with_reducible apply keeps_modPart | with_reducible apply keeps_resumePart | simp -proj only [Keeps.lit_iff]
      | split)

theorem keeps_pwrCapOp {s0 : State} (v : Word) {s : State} (hs : Keeps s0 s) : Keeps s0 (pwrCapOp v s) := by
  unfold pwrCapOp
  repeat' (first | with_reducible assumption | with_reducible apply keeps_capToBase | with_reducible apply keeps_putF)

theorem keeps_execPwrCapWrite {s0 : State} (v : Word) {s : State} (hs : Keeps s0 s) : KeepsO s0 (execPwrCapWrite v s) := by
  unfold execPwrCapWrite
  apply KeepsO.next
  repeat' (first | with_reducible assumption | with_reducible apply keeps_pwrCapOp)

theorem keeps_opMaxOp {s0 : State} (p : Nat) (v : Word) {s : State} (hs : Keeps s0 s) : Keeps s0 (opMaxOp p v s) := by
  unfold opMaxOp
  repeat' (first
      | with_reducible assumption | with_reducible apply keeps_stick | with_reducible apply keeps_putF | simp -proj only [Keeps.lit_iff] | split)

theorem keeps_execOpMaxWrite {s0 : State} (p : Part) (v : Word) {s : State} (hs : Keeps s0 s) : KeepsO s0 (execOpMaxWrite p v s) := by
  unfold execOpMaxWrite
  apply KeepsO.next
  repeat' (first | with_reducible assumption | with_reducible apply keeps_opMaxOp)

theorem keeps_waitStep {s0 : State} {s : State} (hs : Keeps s0 s) : Keeps s0 (waitStep s) := by
  unfold waitStep
  repeat' (first | with_reducible assumption | with_reducible apply keeps_modCell)

theorem keeps_shiftStep {s0 : State} {s : State} (hs : Keeps s0 s) : Keeps s0 (shiftStep s) := by
  unfold shiftStep
  repeat' (first
      | with_reducible assumption | with_reducible apply keeps_modCell | with_reducible apply keeps_sendCap
      | with_reducible refine Keeps.foldl (fun t x ht => ?_) _ ?_ | simp -proj only [Keeps.lit_iff] | split)

theorem keeps_baseStep {s0 : State} {s : State} (hs : Keeps s0 s) : Keeps s0 (baseStep s) := by
  unfold baseStep
  repeat' (first
      | with_reducible assumption | with_reducible apply keeps_modCell | with_reducible apply keeps_sendCap
      | with_reducible refine Keeps.foldl (fun t x ht => ?_) _ ?_)

theorem keeps_execBudgetShift {s0 : State} {s : State} (hs : Keeps s0 s) : KeepsO s0 (execBudgetShift s) := by
  unfold execBudgetShift
  apply KeepsO.next
  repeat' (first
      | with_reducible assumption | with_reducible apply keeps_waitStep | with_reducible apply keeps_modCell | with_reducible apply keeps_capStep
      | with_reducible apply keeps_baseStep | with_reducible apply keeps_shiftStep | simp -proj only [Keeps.lit_iff] | split)

theorem keeps_takeCap {s0 : State} (rec : List Byte) {s : State} (hs : Keeps s0 s) : Keeps s0 (takeCap rec s) := by
  unfold takeCap
  repeat' (first | with_reducible assumption | with_reducible apply keeps_modPwr | simp -proj only [Keeps.lit_iff] | split)

theorem keeps_execCapSet {s0 : State} (rec : List Byte) {s : State} (hs : Keeps s0 s) : KeepsO s0 (execCapSet rec s) := by
  unfold execCapSet
  apply KeepsO.next
  repeat' (first | with_reducible assumption | with_reducible refine keeps_recTake _ _ (fun z0 hz => ?_) ?_ | with_reducible apply keeps_takeCap)

/-! Machine/Boot.lean -/

theorem keeps_modNow {s0 : State} (f : JRec → JRec) {s : State} (hs : Keeps s0 s) : Keeps s0 (modNow f s) := by
  unfold modNow
  repeat' (first | with_reducible assumption | with_reducible apply keeps_saveRec)

theorem keeps_lowerOps {s0 : State} (dies : List Nat) {s : State} (hs : Keeps s0 s) : Keeps s0 (lowerOps dies s) := by
  unfold lowerOps
  repeat' (first | with_reducible assumption | with_reducible apply keeps_stick | with_reducible apply keeps_modNow | split)

theorem keeps_deriveSlot {s0 : State} (k : Nat) {s : State} (hs : Keeps s0 s) : Keeps s0 (deriveSlot k s) := by
  unfold deriveSlot
  repeat' (first | with_reducible assumption | with_reducible apply Keeps.at | simp -proj only [Keeps.lit_iff])

theorem keeps_bootJournal {s0 : State} {s : State} (hs : Keeps s0 s) : Keeps s0 (bootJournal s) := by
  unfold bootJournal
  repeat' (first
      | with_reducible assumption | with_reducible apply keeps_modBst | with_reducible apply keeps_modPwr | with_reducible apply Keeps.at
      | simp -proj only [Keeps.lit_iff])

theorem keeps_trainChannels {s0 : State} (bad : Nat) (fails : List (Nat × Nat)) {s : State} (hs : Keeps s0 s) :
    Keeps s0 (trainChannels bad fails s) := by
  unfold trainChannels
  repeat' (first | with_reducible assumption | with_reducible apply keeps_modBst)

theorem keeps_rampStands {s0 : State} (n : Nat) {s : State} (hs : Keeps s0 s) : Keeps s0 (rampStands n s) := by
  unfold rampStands
  repeat' (first | with_reducible assumption | with_reducible apply keeps_domainOn | split)

theorem keeps_bootOptics {s0 : State} (bad : Nat) {s : State} (hs : Keeps s0 s) : Keeps s0 (bootOptics bad s) := by
  unfold bootOptics
  repeat' (first
      | with_reducible assumption | with_reducible apply keeps_putB | with_reducible apply keeps_modPort | with_reducible apply keeps_rampStands
      | with_reducible apply keeps_failDomain | with_reducible refine Keeps.foldl (fun t x ht => ?_) _ ?_ | split)

theorem keeps_bootImage {s0 : State} (alt : Bool) {s : State} (hs : Keeps s0 s) : Keeps1 s0 (bootImage alt s) := by
  unfold bootImage
  repeat' (first
      | with_reducible assumption | with_reducible apply keeps_applyEndOp | with_reducible apply keeps_verifyEndOp
      | with_reducible apply keeps_imgStartOp | split | with_reducible apply Keeps1.mk)

theorem keeps_bootWork {s0 : State} (k : Nat) (bad : Nat) (r : BootReport) {s : State} (hs : Keeps s0 s) : Keeps s0 (bootWork k bad r s) := by
  unfold bootWork
  repeat' (first
      | with_reducible assumption | with_reducible apply keeps_modNow | with_reducible apply keeps_bootJournal | with_reducible apply keeps_putF
      | with_reducible apply keeps_lowerOps | with_reducible apply keeps_failDomain | with_reducible apply keeps_rampStands
      | with_reducible apply keeps_trainChannels | with_reducible apply keeps_deriveSlot | with_reducible apply keeps_bootOptics
      | with_reducible refine Keeps.foldl (fun t x ht => ?_) _ ?_ | with_reducible apply Keeps.at | simp -proj only [Keeps.lit_iff] | split)

theorem keeps_safeState {s0 : State} {s : State} (hs : Keeps s0 s) : Keeps s0 (safeState s) := by
  unfold safeState
  repeat' (first
      | with_reducible assumption | with_reducible apply keeps_loseScratch | with_reducible apply keeps_emptyAll | with_reducible apply keeps_allOff
      | with_reducible apply keeps_noteSensors | with_reducible apply keeps_modNow | with_reducible apply Keeps.at | simp -proj only [Keeps.lit_iff])

theorem keeps_handoff {s0 : State} {s : State} (hs : Keeps s0 s) : Keeps s0 (handoff s) := by
  unfold handoff
  repeat' (first
      | with_reducible assumption | with_reducible apply keeps_modNow | with_reducible apply keeps_noteSensors | with_reducible apply Keeps.at
      | simp -proj only [Keeps.lit_iff])

theorem keeps_nextStep {s0 : State} (k : Nat) {s : State} (hs : Keeps s0 s) : Keeps s0 (nextStep k s) := by
  unfold nextStep
  repeat' (first
      | with_reducible assumption | with_reducible apply keeps_handoff | with_reducible apply keeps_putF | with_reducible apply keeps_stick
      | with_reducible apply keeps_noteSensors | with_reducible apply keeps_modPwr | with_reducible apply keeps_beginStep
      | with_reducible apply Keeps.at | simp -proj only [Keeps.lit_iff] | split)

theorem keeps_endStep {s0 : State} (r : BootReport) {s : State} (hs : Keeps s0 s) : Keeps s0 (endStep r s) := by
  unfold endStep
  repeat' (first
      | with_reducible assumption | with_reducible apply keeps_bootWork | with_reducible apply keeps_modNow | with_reducible apply keeps_safeState
      | with_reducible apply keeps_nextStep | with_reducible apply Keeps.ite | with_reducible apply Keeps.at
      | with_reducible refine Keeps1.fst (keeps_bootImage _ ?_) | simp -proj only [Keeps.lit_iff] | split)

theorem keeps_execBootStepDone {s0 : State} (r : BootReport) {s : State} (hs : Keeps s0 s) : KeepsO s0 (execBootStepDone r s) := by
  unfold execBootStepDone
  apply KeepsO.next
  repeat' (first | with_reducible assumption | with_reducible apply keeps_endStep | split)

theorem keeps_execBootStepLimit {s0 : State} {s : State} (hs : Keeps s0 s) : KeepsO s0 (execBootStepLimit s) := by
  unfold execBootStepLimit
  apply KeepsO.next
  repeat' (first | with_reducible assumption | with_reducible apply keeps_endStep | split)

theorem keeps_execPowerOnRelease {s0 : State} (sa : BitVec 3) {s : State} (hs : Keeps s0 s) : KeepsO s0 (execPowerOnRelease sa s) := by
  unfold execPowerOnRelease
  apply KeepsO.next
  repeat' (first
      | with_reducible assumption | with_reducible apply keeps_coldReset | with_reducible apply Keeps.at | simp -proj only [Keeps.lit_iff] | split)

theorem keeps_execAuxFail {s0 : State} {s : State} (hs : Keeps s0 s) : KeepsO s0 (execAuxFail s) := by
  unfold execAuxFail
  apply KeepsO.next
  repeat' (first | with_reducible assumption | with_reducible apply keeps_unpowered | split)

theorem keeps_execRefclkLoss {s0 : State} {s : State} (hs : Keeps s0 s) : KeepsO s0 (execRefclkLoss s) := by
  unfold execRefclkLoss
  apply KeepsO.next
  repeat' (first | with_reducible assumption | with_reducible apply keeps_unpowered | split)

theorem keeps_execCoreRailFail {s0 : State} (d : Die) {s : State} (hs : Keeps s0 s) : KeepsO s0 (execCoreRailFail d s) := by
  unfold execCoreRailFail
  apply KeepsO.next
  repeat' (first
      | with_reducible assumption | with_reducible apply keeps_domFail | with_reducible refine Keeps.foldl (fun t x ht => ?_) _ ?_
      | simp -proj only [Keeps.lit_iff] | split)

theorem keeps_execVddqFail {s0 : State} {s : State} (hs : Keeps s0 s) : KeepsO s0 (execVddqFail s) := by
  unfold execVddqFail
  apply KeepsO.next
  repeat' (first | with_reducible assumption | with_reducible apply keeps_domFail | split)

/-! Machine/Clocks.lean -/

theorem keeps_faultDie {s0 : State} (d : Nat) {s : State} (hs : Keeps s0 s) : Keeps s0 (faultDie d s) := by
  unfold faultDie
  repeat' (first
      | with_reducible assumption | with_reducible apply keeps_domainFault | with_reducible refine Keeps.foldl (fun t x ht => ?_) _ ?_ | split)

theorem keeps_clockJournal {s0 : State} (bit : Nat) {s : State} (hs : Keeps s0 s) : Keeps s0 (clockJournal bit s) := by
  unfold clockJournal
  repeat' (first | with_reducible assumption | with_reducible apply keeps_journalFail | with_reducible apply keeps_saveRec)

theorem keeps_clockLog {s0 : State} (bit : Nat) {s : State} (hs : Keeps s0 s) : Keeps s0 (clockLog bit s) := by
  unfold clockLog
  repeat' (first | with_reducible assumption | with_reducible apply keeps_logEvent)

theorem keeps_failStations {s0 : State} (lo : Nat) (hi : Nat) {s : State} (hs : Keeps s0 s) : Keeps s0 (failStations lo hi s) := by
  unfold failStations
  repeat' (first | with_reducible assumption | with_reducible apply keeps_failStation | with_reducible refine Keeps.foldl (fun t x ht => ?_) _ ?_)

theorem keeps_execClockStopped {s0 : State} (bit : Fin 45) {s : State} (hs : Keeps s0 s) : KeepsO s0 (execClockStopped bit s) := by
  unfold execClockStopped
  apply KeepsO.next
  repeat' (first
      | with_reducible assumption | with_reducible apply keeps_stick | with_reducible apply keeps_clockLog | with_reducible apply keeps_clockJournal
      | with_reducible apply keeps_faultDie | with_reducible apply keeps_failStations | with_reducible apply keeps_noteSensors
      | with_reducible apply keeps_warmReset | with_reducible apply keeps_failDomain | with_reducible apply keeps_hostReset
      | with_reducible apply keeps_loseLink | simp -proj only [Keeps.lit_iff] | split)

theorem keeps_execTimeExchange {s0 : State} {s : State} (hs : Keeps s0 s) : KeepsO s0 (execTimeExchange s) := by
  unfold execTimeExchange
  apply KeepsO.next
  repeat' (first | with_reducible assumption | with_reducible apply keeps_sendRec | split)

theorem keeps_takeTimeReq {s0 : State} (rec : List Byte) {s : State} (hs : Keeps s0 s) : Keeps s0 (takeTimeReq rec s) := by
  unfold takeTimeReq
  repeat' (first | with_reducible assumption | with_reducible apply keeps_sendRec | simp -proj only [Keeps.lit_iff] | split)

theorem keeps_execTimeReq {s0 : State} (rec : List Byte) {s : State} (hs : Keeps s0 s) : KeepsO s0 (execTimeReq rec s) := by
  unfold execTimeReq
  apply KeepsO.next
  repeat' (first | with_reducible assumption | with_reducible refine keeps_recTake _ _ (fun z0 hz => ?_) ?_ | with_reducible apply keeps_takeTimeReq)

theorem keeps_takeTimeRsp {s0 : State} (rec : List Byte) {s : State} (hs : Keeps s0 s) : Keeps s0 (takeTimeRsp rec s) := by
  unfold takeTimeRsp
  repeat' (first
      | with_reducible assumption | with_reducible apply keeps_putF | with_reducible apply Keeps.at | simp -proj only [Keeps.lit_iff] | split)

theorem keeps_execTimeRsp {s0 : State} (rec : List Byte) {s : State} (hs : Keeps s0 s) : KeepsO s0 (execTimeRsp rec s) := by
  unfold execTimeRsp
  apply KeepsO.next
  repeat' (first | with_reducible assumption | with_reducible refine keeps_recTake _ _ (fun z0 hz => ?_) ?_ | with_reducible apply keeps_takeTimeRsp)

theorem keeps_execTickSlew {s0 : State} {s : State} (hs : Keeps s0 s) : KeepsO s0 (execTickSlew s) := by
  unfold execTickSlew
  apply KeepsO.next
  repeat' (first | with_reducible assumption | with_reducible apply Keeps.at | simp -proj only [Keeps.lit_iff] | split)

end Sys2Proof.Machine
end

