-- ==== Sys2Proof/Laws/KeepCore.lean ====
section
/-!
SUPPORT. Laws/KeepCore.lean: every operation on the control core, matrix and stream engines keeps what `Keeps` says.
-/
namespace Sys2Proof.Machine

/-! Machine/CoreAlu.lean -/

theorem keeps_aluOp {s0 : State} (t : Tile) (d : GReg) (a : GReg) (b : GReg) (f : Word → Word → Word) {s : State} (hs : Keeps s0 s) :
    Keeps s0 (aluOp t d a b f s) := by
  unfold aluOp
  repeat' (first | assumption | apply keeps_issueG)

theorem keeps_immOp {s0 : State} (t : Tile) (d : GReg) (a : GReg) (imm : BitVec 16) (f : Word → Word → Word) {s : State} (hs : Keeps s0 s) :
    Keeps s0 (immOp t d a imm f s) := by
  unfold immOp
  repeat' (first | assumption | apply keeps_issueG)

theorem keeps_unOp {s0 : State} (t : Tile) (d : GReg) (a : GReg) (f : Word → Word) {s : State} (hs : Keeps s0 s) : Keeps s0 (unOp t d a f s) := by
  unfold unOp
  repeat' (first | assumption | apply keeps_issueG)

theorem keeps_execAdd {s0 : State} (t : Tile) (d : GReg) (a : GReg) (b : GReg) {s : State} (hs : Keeps s0 s) : KeepsO s0 (execAdd t d a b s) := by
  unfold execAdd
  apply KeepsO.next
  repeat' (first | assumption | refine keeps_onWord _ _ (fun z0 hz => ?_) ?_ | apply keeps_aluOp)

theorem keeps_execSub {s0 : State} (t : Tile) (d : GReg) (a : GReg) (b : GReg) {s : State} (hs : Keeps s0 s) : KeepsO s0 (execSub t d a b s) := by
  unfold execSub
  apply KeepsO.next
  repeat' (first | assumption | refine keeps_onWord _ _ (fun z0 hz => ?_) ?_ | apply keeps_aluOp)

theorem keeps_execAnd {s0 : State} (t : Tile) (d : GReg) (a : GReg) (b : GReg) {s : State} (hs : Keeps s0 s) : KeepsO s0 (execAnd t d a b s) := by
  unfold execAnd
  apply KeepsO.next
  repeat' (first | assumption | refine keeps_onWord _ _ (fun z0 hz => ?_) ?_ | apply keeps_aluOp)

theorem keeps_execOr {s0 : State} (t : Tile) (d : GReg) (a : GReg) (b : GReg) {s : State} (hs : Keeps s0 s) : KeepsO s0 (execOr t d a b s) := by
  unfold execOr
  apply KeepsO.next
  repeat' (first | assumption | refine keeps_onWord _ _ (fun z0 hz => ?_) ?_ | apply keeps_aluOp)

theorem keeps_execXor {s0 : State} (t : Tile) (d : GReg) (a : GReg) (b : GReg) {s : State} (hs : Keeps s0 s) : KeepsO s0 (execXor t d a b s) := by
  unfold execXor
  apply KeepsO.next
  repeat' (first | assumption | refine keeps_onWord _ _ (fun z0 hz => ?_) ?_ | apply keeps_aluOp)

theorem keeps_execSll {s0 : State} (t : Tile) (d : GReg) (a : GReg) (b : GReg) {s : State} (hs : Keeps s0 s) : KeepsO s0 (execSll t d a b s) := by
  unfold execSll
  apply KeepsO.next
  repeat' (first | assumption | refine keeps_onWord _ _ (fun z0 hz => ?_) ?_ | apply keeps_aluOp)

theorem keeps_execSrl {s0 : State} (t : Tile) (d : GReg) (a : GReg) (b : GReg) {s : State} (hs : Keeps s0 s) : KeepsO s0 (execSrl t d a b s) := by
  unfold execSrl
  apply KeepsO.next
  repeat' (first | assumption | refine keeps_onWord _ _ (fun z0 hz => ?_) ?_ | apply keeps_aluOp)

theorem keeps_execSra {s0 : State} (t : Tile) (d : GReg) (a : GReg) (b : GReg) {s : State} (hs : Keeps s0 s) : KeepsO s0 (execSra t d a b s) := by
  unfold execSra
  apply KeepsO.next
  repeat' (first | assumption | refine keeps_onWord _ _ (fun z0 hz => ?_) ?_ | apply keeps_aluOp)

theorem keeps_execSlt {s0 : State} (t : Tile) (d : GReg) (a : GReg) (b : GReg) {s : State} (hs : Keeps s0 s) : KeepsO s0 (execSlt t d a b s) := by
  unfold execSlt
  apply KeepsO.next
  repeat' (first | assumption | refine keeps_onWord _ _ (fun z0 hz => ?_) ?_ | apply keeps_aluOp)

theorem keeps_execSltu {s0 : State} (t : Tile) (d : GReg) (a : GReg) (b : GReg) {s : State} (hs : Keeps s0 s) : KeepsO s0 (execSltu t d a b s) := by
  unfold execSltu
  apply KeepsO.next
  repeat' (first | assumption | refine keeps_onWord _ _ (fun z0 hz => ?_) ?_ | apply keeps_aluOp)

theorem keeps_execMin {s0 : State} (t : Tile) (d : GReg) (a : GReg) (b : GReg) {s : State} (hs : Keeps s0 s) : KeepsO s0 (execMin t d a b s) := by
  unfold execMin
  apply KeepsO.next
  repeat' (first | assumption | refine keeps_onWord _ _ (fun z0 hz => ?_) ?_ | apply keeps_aluOp)

theorem keeps_execMax {s0 : State} (t : Tile) (d : GReg) (a : GReg) (b : GReg) {s : State} (hs : Keeps s0 s) : KeepsO s0 (execMax t d a b s) := by
  unfold execMax
  apply KeepsO.next
  repeat' (first | assumption | refine keeps_onWord _ _ (fun z0 hz => ?_) ?_ | apply keeps_aluOp)

theorem keeps_execMinu {s0 : State} (t : Tile) (d : GReg) (a : GReg) (b : GReg) {s : State} (hs : Keeps s0 s) : KeepsO s0 (execMinu t d a b s) := by
  unfold execMinu
  apply KeepsO.next
  repeat' (first | assumption | refine keeps_onWord _ _ (fun z0 hz => ?_) ?_ | apply keeps_aluOp)

theorem keeps_execMaxu {s0 : State} (t : Tile) (d : GReg) (a : GReg) (b : GReg) {s : State} (hs : Keeps s0 s) : KeepsO s0 (execMaxu t d a b s) := by
  unfold execMaxu
  apply KeepsO.next
  repeat' (first | assumption | refine keeps_onWord _ _ (fun z0 hz => ?_) ?_ | apply keeps_aluOp)

theorem keeps_execMul {s0 : State} (t : Tile) (d : GReg) (a : GReg) (b : GReg) {s : State} (hs : Keeps s0 s) : KeepsO s0 (execMul t d a b s) := by
  unfold execMul
  apply KeepsO.next
  repeat' (first | assumption | refine keeps_onWord _ _ (fun z0 hz => ?_) ?_ | apply keeps_aluOp)

theorem keeps_execMulhi {s0 : State} (t : Tile) (d : GReg) (a : GReg) (b : GReg) {s : State} (hs : Keeps s0 s) : KeepsO s0 (execMulhi t d a b s) := by
  unfold execMulhi
  apply KeepsO.next
  repeat' (first | assumption | refine keeps_onWord _ _ (fun z0 hz => ?_) ?_ | apply keeps_aluOp)

theorem keeps_execMulhiu {s0 : State} (t : Tile) (d : GReg) (a : GReg) (b : GReg) {s : State} (hs : Keeps s0 s) :
    KeepsO s0 (execMulhiu t d a b s) := by
  unfold execMulhiu
  apply KeepsO.next
  repeat' (first | assumption | refine keeps_onWord _ _ (fun z0 hz => ?_) ?_ | apply keeps_aluOp)

theorem keeps_execMulhim {s0 : State} (t : Tile) (d : GReg) (a : GReg) (b : GReg) {s : State} (hs : Keeps s0 s) :
    KeepsO s0 (execMulhim t d a b s) := by
  unfold execMulhim
  apply KeepsO.next
  repeat' (first | assumption | refine keeps_onWord _ _ (fun z0 hz => ?_) ?_ | apply keeps_aluOp)

theorem keeps_execDiv {s0 : State} (t : Tile) (d : GReg) (a : GReg) (b : GReg) {s : State} (hs : Keeps s0 s) : KeepsO s0 (execDiv t d a b s) := by
  unfold execDiv
  apply KeepsO.next
  repeat' (first | assumption | refine keeps_onWord _ _ (fun z0 hz => ?_) ?_ | apply keeps_aluOp)

theorem keeps_execDivu {s0 : State} (t : Tile) (d : GReg) (a : GReg) (b : GReg) {s : State} (hs : Keeps s0 s) : KeepsO s0 (execDivu t d a b s) := by
  unfold execDivu
  apply KeepsO.next
  repeat' (first | assumption | refine keeps_onWord _ _ (fun z0 hz => ?_) ?_ | apply keeps_aluOp)

theorem keeps_execRem {s0 : State} (t : Tile) (d : GReg) (a : GReg) (b : GReg) {s : State} (hs : Keeps s0 s) : KeepsO s0 (execRem t d a b s) := by
  unfold execRem
  apply KeepsO.next
  repeat' (first | assumption | refine keeps_onWord _ _ (fun z0 hz => ?_) ?_ | apply keeps_aluOp)

theorem keeps_execRemu {s0 : State} (t : Tile) (d : GReg) (a : GReg) (b : GReg) {s : State} (hs : Keeps s0 s) : KeepsO s0 (execRemu t d a b s) := by
  unfold execRemu
  apply KeepsO.next
  repeat' (first | assumption | refine keeps_onWord _ _ (fun z0 hz => ?_) ?_ | apply keeps_aluOp)

theorem keeps_execSext8 {s0 : State} (t : Tile) (d : GReg) (a : GReg) {s : State} (hs : Keeps s0 s) : KeepsO s0 (execSext8 t d a s) := by
  unfold execSext8
  apply KeepsO.next
  repeat' (first | assumption | refine keeps_onWord _ _ (fun z0 hz => ?_) ?_ | apply keeps_unOp)

theorem keeps_execSext16 {s0 : State} (t : Tile) (d : GReg) (a : GReg) {s : State} (hs : Keeps s0 s) : KeepsO s0 (execSext16 t d a s) := by
  unfold execSext16
  apply KeepsO.next
  repeat' (first | assumption | refine keeps_onWord _ _ (fun z0 hz => ?_) ?_ | apply keeps_unOp)

theorem keeps_execSext32 {s0 : State} (t : Tile) (d : GReg) (a : GReg) {s : State} (hs : Keeps s0 s) : KeepsO s0 (execSext32 t d a s) := by
  unfold execSext32
  apply KeepsO.next
  repeat' (first | assumption | refine keeps_onWord _ _ (fun z0 hz => ?_) ?_ | apply keeps_unOp)

theorem keeps_execAddi {s0 : State} (t : Tile) (d : GReg) (a : GReg) (imm : BitVec 16) {s : State} (hs : Keeps s0 s) :
    KeepsO s0 (execAddi t d a imm s) := by
  unfold execAddi
  apply KeepsO.next
  repeat' (first | assumption | refine keeps_onWord _ _ (fun z0 hz => ?_) ?_ | apply keeps_immOp)

theorem keeps_execAndi {s0 : State} (t : Tile) (d : GReg) (a : GReg) (imm : BitVec 16) {s : State} (hs : Keeps s0 s) :
    KeepsO s0 (execAndi t d a imm s) := by
  unfold execAndi
  apply KeepsO.next
  repeat' (first | assumption | refine keeps_onWord _ _ (fun z0 hz => ?_) ?_ | apply keeps_immOp)

theorem keeps_execOri {s0 : State} (t : Tile) (d : GReg) (a : GReg) (imm : BitVec 16) {s : State} (hs : Keeps s0 s) :
    KeepsO s0 (execOri t d a imm s) := by
  unfold execOri
  apply KeepsO.next
  repeat' (first | assumption | refine keeps_onWord _ _ (fun z0 hz => ?_) ?_ | apply keeps_immOp)

theorem keeps_execXori {s0 : State} (t : Tile) (d : GReg) (a : GReg) (imm : BitVec 16) {s : State} (hs : Keeps s0 s) :
    KeepsO s0 (execXori t d a imm s) := by
  unfold execXori
  apply KeepsO.next
  repeat' (first | assumption | refine keeps_onWord _ _ (fun z0 hz => ?_) ?_ | apply keeps_immOp)

theorem keeps_execSlti {s0 : State} (t : Tile) (d : GReg) (a : GReg) (imm : BitVec 16) {s : State} (hs : Keeps s0 s) :
    KeepsO s0 (execSlti t d a imm s) := by
  unfold execSlti
  apply KeepsO.next
  repeat' (first | assumption | refine keeps_onWord _ _ (fun z0 hz => ?_) ?_ | apply keeps_immOp)

theorem keeps_execSltiu {s0 : State} (t : Tile) (d : GReg) (a : GReg) (imm : BitVec 16) {s : State} (hs : Keeps s0 s) :
    KeepsO s0 (execSltiu t d a imm s) := by
  unfold execSltiu
  apply KeepsO.next
  repeat' (first | assumption | refine keeps_onWord _ _ (fun z0 hz => ?_) ?_ | apply keeps_immOp)

theorem keeps_execUpperImmediate {s0 : State} (t : Tile) (d : GReg) (imm : BitVec 21) {s : State} (hs : Keeps s0 s) :
    KeepsO s0 (execUpperImmediate t d imm s) := by
  unfold execUpperImmediate
  apply KeepsO.next
  repeat' (first | assumption | refine keeps_onWord _ _ (fun z0 hz => ?_) ?_ | apply keeps_issueG)

theorem keeps_execSlli {s0 : State} (t : Tile) (d : GReg) (a : GReg) (amt : BitVec 6) {s : State} (hs : Keeps s0 s) :
    KeepsO s0 (execSlli t d a amt s) := by
  unfold execSlli
  apply KeepsO.next
  repeat' (first | assumption | refine keeps_onWord _ _ (fun z0 hz => ?_) ?_ | apply keeps_unOp)

theorem keeps_execSrli {s0 : State} (t : Tile) (d : GReg) (a : GReg) (amt : BitVec 6) {s : State} (hs : Keeps s0 s) :
    KeepsO s0 (execSrli t d a amt s) := by
  unfold execSrli
  apply KeepsO.next
  repeat' (first | assumption | refine keeps_onWord _ _ (fun z0 hz => ?_) ?_ | apply keeps_unOp)

theorem keeps_execSrai {s0 : State} (t : Tile) (d : GReg) (a : GReg) (amt : BitVec 6) {s : State} (hs : Keeps s0 s) :
    KeepsO s0 (execSrai t d a amt s) := by
  unfold execSrai
  apply KeepsO.next
  repeat' (first | assumption | refine keeps_onWord _ _ (fun z0 hz => ?_) ?_ | apply keeps_unOp)

/-! Machine/CoreControl.lean -/

theorem keeps_branchOp {s0 : State} (t : Tile) (a : GReg) (b : GReg) (off : BitVec 8) (f : Word → Word → Bool) {s : State} (hs : Keeps s0 s) :
    Keeps s0 (branchOp t a b off f s) := by
  unfold branchOp
  repeat' (first | assumption | refine keeps_issue _ (fun z0 hz => ?_) ?_ | apply keeps_setPc | apply keeps_nextPc | split)

theorem keeps_execBeq {s0 : State} (t : Tile) (a : GReg) (b : GReg) (off : BitVec 8) {s : State} (hs : Keeps s0 s) :
    KeepsO s0 (execBeq t a b off s) := by
  unfold execBeq
  apply KeepsO.next
  repeat' (first | assumption | refine keeps_onWord _ _ (fun z0 hz => ?_) ?_ | apply keeps_branchOp)

theorem keeps_execBne {s0 : State} (t : Tile) (a : GReg) (b : GReg) (off : BitVec 8) {s : State} (hs : Keeps s0 s) :
    KeepsO s0 (execBne t a b off s) := by
  unfold execBne
  apply KeepsO.next
  repeat' (first | assumption | refine keeps_onWord _ _ (fun z0 hz => ?_) ?_ | apply keeps_branchOp)

theorem keeps_execBlt {s0 : State} (t : Tile) (a : GReg) (b : GReg) (off : BitVec 8) {s : State} (hs : Keeps s0 s) :
    KeepsO s0 (execBlt t a b off s) := by
  unfold execBlt
  apply KeepsO.next
  repeat' (first | assumption | refine keeps_onWord _ _ (fun z0 hz => ?_) ?_ | apply keeps_branchOp)

theorem keeps_execBge {s0 : State} (t : Tile) (a : GReg) (b : GReg) (off : BitVec 8) {s : State} (hs : Keeps s0 s) :
    KeepsO s0 (execBge t a b off s) := by
  unfold execBge
  apply KeepsO.next
  repeat' (first | assumption | refine keeps_onWord _ _ (fun z0 hz => ?_) ?_ | apply keeps_branchOp)

theorem keeps_execBltu {s0 : State} (t : Tile) (a : GReg) (b : GReg) (off : BitVec 8) {s : State} (hs : Keeps s0 s) :
    KeepsO s0 (execBltu t a b off s) := by
  unfold execBltu
  apply KeepsO.next
  repeat' (first | assumption | refine keeps_onWord _ _ (fun z0 hz => ?_) ?_ | apply keeps_branchOp)

theorem keeps_execBgeu {s0 : State} (t : Tile) (a : GReg) (b : GReg) (off : BitVec 8) {s : State} (hs : Keeps s0 s) :
    KeepsO s0 (execBgeu t a b off s) := by
  unfold execBgeu
  apply KeepsO.next
  repeat' (first | assumption | refine keeps_onWord _ _ (fun z0 hz => ?_) ?_ | apply keeps_branchOp)

theorem keeps_execJal {s0 : State} (t : Tile) (d : GReg) (imm : BitVec 21) {s : State} (hs : Keeps s0 s) : KeepsO s0 (execJal t d imm s) := by
  unfold execJal
  apply KeepsO.next
  repeat' (first
      | assumption | refine keeps_onWord _ _ (fun z0 hz => ?_) ?_ | refine keeps_issue _ (fun z0 hz => ?_) ?_ | apply keeps_setPc | apply keeps_setG)

theorem keeps_execJr {s0 : State} (t : Tile) (d : GReg) (a : GReg) (imm : BitVec 16) {s : State} (hs : Keeps s0 s) :
    KeepsO s0 (execJr t d a imm s) := by
  unfold execJr
  apply KeepsO.next
  repeat' (first
      | assumption | refine keeps_onWord _ _ (fun z0 hz => ?_) ?_ | refine keeps_issue _ (fun z0 hz => ?_) ?_ | apply keeps_raiseExc
      | apply keeps_setPc | apply keeps_setG | simp -proj only [Keeps.lit_iff] | split)

/-! Machine/CoreMemory.lean -/

theorem keeps_loadOp {s0 : State} (n : Nat) (t : Tile) (d : GReg) (a : GReg) (imm : BitVec 16) {s : State} (hs : Keeps s0 s) :
    Keeps s0 (loadOp n t d a imm s) := by
  unfold loadOp
  repeat' (first
      | assumption | refine keeps_issue _ (fun z0 hz => ?_) ?_ | apply keeps_raiseExc | apply keeps_touchRange | apply keeps_nextPc
      | apply keeps_setG | simp -proj only [Keeps.lit_iff] | split)

theorem keeps_storeOp {s0 : State} (n : Nat) (t : Tile) (d : GReg) (a : GReg) (imm : BitVec 16) {s : State} (hs : Keeps s0 s) :
    Keeps s0 (storeOp n t d a imm s) := by
  unfold storeOp
  repeat' (first
      | assumption | refine keeps_issue _ (fun z0 hz => ?_) ?_ | apply keeps_raiseExc | apply keeps_spWrite | apply keeps_nextPc
      | simp -proj only [Keeps.lit_iff] | split)

theorem keeps_execLoad64 {s0 : State} (t : Tile) (d : GReg) (a : GReg) (imm : BitVec 16) {s : State} (hs : Keeps s0 s) :
    KeepsO s0 (execLoad64 t d a imm s) := by
  unfold execLoad64
  apply KeepsO.next
  repeat' (first | assumption | refine keeps_onWord _ _ (fun z0 hz => ?_) ?_ | apply keeps_loadOp)

theorem keeps_execLoad32 {s0 : State} (t : Tile) (d : GReg) (a : GReg) (imm : BitVec 16) {s : State} (hs : Keeps s0 s) :
    KeepsO s0 (execLoad32 t d a imm s) := by
  unfold execLoad32
  apply KeepsO.next
  repeat' (first | assumption | refine keeps_onWord _ _ (fun z0 hz => ?_) ?_ | apply keeps_loadOp)

theorem keeps_execLoad16 {s0 : State} (t : Tile) (d : GReg) (a : GReg) (imm : BitVec 16) {s : State} (hs : Keeps s0 s) :
    KeepsO s0 (execLoad16 t d a imm s) := by
  unfold execLoad16
  apply KeepsO.next
  repeat' (first | assumption | refine keeps_onWord _ _ (fun z0 hz => ?_) ?_ | apply keeps_loadOp)

theorem keeps_execLoad8 {s0 : State} (t : Tile) (d : GReg) (a : GReg) (imm : BitVec 16) {s : State} (hs : Keeps s0 s) :
    KeepsO s0 (execLoad8 t d a imm s) := by
  unfold execLoad8
  apply KeepsO.next
  repeat' (first | assumption | refine keeps_onWord _ _ (fun z0 hz => ?_) ?_ | apply keeps_loadOp)

theorem keeps_execStore64 {s0 : State} (t : Tile) (d : GReg) (a : GReg) (imm : BitVec 16) {s : State} (hs : Keeps s0 s) :
    KeepsO s0 (execStore64 t d a imm s) := by
  unfold execStore64
  apply KeepsO.next
  repeat' (first | assumption | refine keeps_onWord _ _ (fun z0 hz => ?_) ?_ | apply keeps_storeOp)

theorem keeps_execStore32 {s0 : State} (t : Tile) (d : GReg) (a : GReg) (imm : BitVec 16) {s : State} (hs : Keeps s0 s) :
    KeepsO s0 (execStore32 t d a imm s) := by
  unfold execStore32
  apply KeepsO.next
  repeat' (first | assumption | refine keeps_onWord _ _ (fun z0 hz => ?_) ?_ | apply keeps_storeOp)

theorem keeps_execStore16 {s0 : State} (t : Tile) (d : GReg) (a : GReg) (imm : BitVec 16) {s : State} (hs : Keeps s0 s) :
    KeepsO s0 (execStore16 t d a imm s) := by
  unfold execStore16
  apply KeepsO.next
  repeat' (first | assumption | refine keeps_onWord _ _ (fun z0 hz => ?_) ?_ | apply keeps_storeOp)

theorem keeps_execStore8 {s0 : State} (t : Tile) (d : GReg) (a : GReg) (imm : BitVec 16) {s : State} (hs : Keeps s0 s) :
    KeepsO s0 (execStore8 t d a imm s) := by
  unfold execStore8
  apply KeepsO.next
  repeat' (first | assumption | refine keeps_onWord _ _ (fun z0 hz => ?_) ?_ | apply keeps_storeOp)

/-! Machine/Matrix.lean -/

theorem keeps_chunkEnd {s0 : State} (t : Nat) (e : MxEntry) (r : MxRun) {s : State} (hs : Keeps s0 s) : Keeps s0 (chunkEnd t e r s) := by
  unfold chunkEnd
  repeat' (first
      | with_reducible assumption | with_reducible apply keeps_touchWords | with_reducible apply keeps_modSlot | with_reducible apply keeps_stick
      | with_reducible apply keeps_recordCvt | with_reducible apply keeps_noteSeed | with_reducible apply keeps_bump
      | with_reducible apply keeps_modTile | with_reducible apply Keeps.ite | with_reducible refine Keeps.foldl (fun t x ht => ?_) _ ?_)

theorem keeps_mxStart {s0 : State} (t : Nat) (parity : Bool) {s : State} (hs : Keeps s0 s) : Keeps s0 (mxStart t parity s) := by
  unfold mxStart
  repeat' (first
      | with_reducible assumption | with_reducible apply keeps_modTile | with_reducible apply keeps_seqRefill | with_reducible apply keeps_modSlot
      | with_reducible apply keeps_parityFault | simp -proj only [Keeps.lit_iff] | split)

theorem keeps_execMxDescStart {s0 : State} (t : Tile) (parity : Bool) {s : State} (hs : Keeps s0 s) : KeepsO s0 (execMxDescStart t parity s) := by
  unfold execMxDescStart
  apply KeepsO.next
  repeat' (first | with_reducible assumption | with_reducible apply keeps_mxStart)

theorem keeps_execMxChunkEnd {s0 : State} (t : Tile) {s : State} (hs : Keeps s0 s) : KeepsO s0 (execMxChunkEnd t s) := by
  unfold execMxChunkEnd
  apply KeepsO.next
  repeat' (first | with_reducible assumption | with_reducible apply keeps_chunkEnd | split)

theorem keeps_seqMxDone {s0 : State} (t : Nat) (e : MxEntry) (o : Nat × Nat) {s : State} (hs : Keeps s0 s) : Keeps s0 (seqMxDone t e o s) := by
  unfold seqMxDone
  repeat' (first
      | with_reducible assumption | with_reducible apply keeps_seqEnded | with_reducible apply keeps_seqEndMx | with_reducible apply keeps_modSlot)

theorem keeps_execMxDescDone {s0 : State} (t : Tile) (stall : Nat) {s : State} (hs : Keeps s0 s) : KeepsO s0 (execMxDescDone t stall s) := by
  unfold execMxDescDone
  apply KeepsO.next
  repeat' (first
      | with_reducible assumption | with_reducible apply keeps_bump | with_reducible apply keeps_seqRefill | with_reducible apply keeps_seqMxDone
      | with_reducible apply keeps_mxComplete | split)

theorem keeps_seqMxSkip {s0 : State} (t : Nat) (e : MxEntry) (code : Byte) (o : Nat × Nat) {s : State} (hs : Keeps s0 s) :
    Keeps s0 (seqMxSkip t e code o s) := by
  unfold seqMxSkip
  repeat' (first | with_reducible assumption | with_reducible apply keeps_seqEnded | with_reducible apply keeps_seqEndMx)

theorem keeps_execMxSkipDone {s0 : State} (t : Tile) {s : State} (hs : Keeps s0 s) : KeepsO s0 (execMxSkipDone t s) := by
  unfold execMxSkipDone
  apply KeepsO.next
  repeat' (first
      | with_reducible assumption | with_reducible apply keeps_seqRefill | with_reducible apply keeps_mxComplete
      | with_reducible apply keeps_seqMxSkip | split)

theorem keeps_execAccSlotFree {s0 : State} (t : Tile) (mask : Word) {s : State} (hs : Keeps s0 s) : KeepsO s0 (execAccSlotFree t mask s) := by
  unfold execAccSlotFree
  apply KeepsO.next
  repeat' (first | with_reducible assumption | with_reducible apply keeps_placeFrees)

theorem keeps_execAccFreeEffect {s0 : State} (t : Tile) (slot : Fin 64) {s : State} (hs : Keeps s0 s) : KeepsO s0 (execAccFreeEffect t slot s) := by
  unfold execAccFreeEffect
  apply KeepsO.next
  repeat' (first | with_reducible assumption | with_reducible apply keeps_freeEffect)

/-! Machine/Stream.lean -/

theorem keeps_remoteAnswer {s0 : State} {s : State} (c : StCtx) (tgt : Nat) (a : Nat) (hs : Keeps s0 s) : Keeps1 s0 (remoteAnswer s c tgt a) := by
  unfold remoteAnswer
  repeat' (first
      | with_reducible assumption | with_reducible apply keeps_logEvent | refine KeepsB.get' (keeps_unitGate _ _ ?_) (by assumption) | split
      | with_reducible apply Keeps1.mk)

theorem keeps_bstPut {s0 : State} (c : StCtx) (p : Piece) {s : State} (hs : Keeps s0 s) : Keeps s0 (bstPut c p s) := by
  unfold bstPut
  repeat' (first
      | with_reducible assumption | with_reducible apply keeps_putWay | with_reducible apply keeps_spWriteMarked | with_reducible apply keeps_spWrite
      | with_reducible apply keeps_writeDev | simp -proj only [Keeps.lit_iff] | split)

theorem keeps_fetchRow {s0 : State} (c : StCtx) (j : Nat) (r : StreamRec) (need : List (Nat × List (Nat × Nat))) (y : StSeen) (h : Keeps s0 y.s) :
    Keeps s0 (fetchRow c j r need y).s := by
  unfold fetchRow
  split
  · exact h
  · dsimp only
    split
    · refine foldl_keeps (fun y : StSeen => Keeps s0 y.s) (fun y A hy => ?_) _ h
      have hz := Keeps1.fst (keeps_bstReadLine c.part r.hint A hy)
      repeat' (first | with_reducible assumption | split)
    · have hg : Keeps s0 (if r.kind = 1 then remoteAnswer y.s c (recTile r) (((need.flatMap (·.2)).head?.map (·.1)).getD 0) else (y.s, cDone)).1 := by
        split
        · exact Keeps1.fst (keeps_remoteAnswer c _ _ h)
        · exact h
      repeat' (first | with_reducible assumption | with_reducible apply keeps_touchWords | split)
      all_goals first | exact hg | exact keeps_touchWords _ _ hg | simp_all
theorem keeps_fetchStream {s0 : State} (c : StCtx) (j : Nat) (need : List (Nat × Nat)) (y : StSeen) (h : Keeps s0 y.s) :
    Keeps s0 (fetchStream c j need y).s := by
  unfold fetchStream
  dsimp only
  split
  · exact h
  · exact foldl_keeps (fun y : StSeen => Keeps s0 y.s) (fun y n hy => keeps_fetchRow _ _ _ _ _ hy) _ h
theorem keeps_evalTo {s0 : State} (c : StCtx) (cut : Option StEnding) {s : State} (h : Keeps s0 s) : Keeps s0 (evalTo c cut s).seen.s := by
  unfold evalTo
  extract_lets limit y lim act need used z rows gath ending tables w cvtd cells ev
  have hy : Keeps s0 y.s := by
    show Keeps s0 (if 4 ≤ stMask c.x then fetchStream c (stMsrc c.x) (needed cut (ctxCols c) (stMsrc c.x) (elemsBelow c limit (maskPos c.x))) { s := s } else { s := s }).s
    split
    · exact keeps_fetchStream _ _ _ _ h
    · exact h
  have hz : Keeps s0 z.s := by
    refine foldl_keeps (fun y : StSeen => Keeps s0 y.s) (fun y j hy => ?_) _ hy
    exact keeps_fetchStream c j (needed cut (ctxCols c) j need) { y with ending := none } hy
  split
  · exact hz
  · show Keeps s0 w.s
    refine foldl_keeps (fun y : StSeen => Keeps s0 y.s) (fun y j hy => ?_) _ hz
    exact keeps_touchWords _ _ hy
theorem keeps_writePiece {s0 : State} (c : StCtx) (n : Nat) (o : StreamRec) (w : StWritten) (p : Piece) (h : Keeps s0 w.s) :
    Keeps s0 (writePiece c n o w p).s := by
  unfold writePiece
  dsimp only
  have hz := Keeps1.fst (keeps_bstWrite c.part o.hint (ctxBst w.s c + p.addr) p.bytes p.mark h)
  have hr : ∀ t a, Keeps s0 (remoteAnswer w.s c t a).1 := fun t a => Keeps1.fst (keeps_remoteAnswer c t a h)
  repeat' split
  all_goals first | exact h | exact hz | exact keeps_bstPut _ _ h | exact hr _ _ | exact keeps_spWrite _ _ _ h | exact keeps_spWrite _ _ _ (hr _ _)
theorem keeps_emitTo {s0 : State} (c : StCtx) (limit : Nat) (v : StEval) (h : Keeps s0 v.seen.s) : Keeps s0 (emitTo c limit v).1.s := by
  have hw : ∀ n o (l : List Piece) (w : StWritten), Keeps s0 w.s → Keeps s0 (l.foldl (writePiece c n o) w).s :=
    fun n o l w hw => foldl_keeps (fun w : StWritten => Keeps s0 w.s) (fun w p hw => keeps_writePiece _ _ _ _ _ hw) _ hw
  unfold emitTo
  dsimp only
  refine Keeps.foldl (fun _ _ ht => keeps_markWord _ ht) _ ?_
  refine foldl_keeps (fun y : StWritten × CvtEv => Keeps s0 y.1.s) (fun y no hy => ?_) _
    (foldl_keeps (fun y : StWritten × CvtEv => Keeps s0 y.1.s) (fun y row hy =>
      foldl_keeps (fun y : StWritten × CvtEv => Keeps s0 y.1.s) (fun y no hy => ?_) _ hy) _ h)
  · split
    · exact hy
    · exact hw _ _ _ _ hy
  · split
    · exact hy
    · exact hw _ _ _ _ hy
theorem keeps_refuseAgain {s0 : State} (c : StCtx) (n : StEnding) {s : State} (hs : Keeps s0 s) : Keeps s0 (refuseAgain c n s) := by
  unfold refuseAgain
  split
  · exact hs
  · refine Keeps.ite (Keeps1.fst (keeps_remoteAnswer _ _ _ hs)) ?_
    exact Keeps.ite (Keeps1.fst (keeps_bstWrite _ _ _ _ _ hs)) hs
theorem keeps_stExecute {s0 : State} (c : StCtx) (forced : Option StEnding) {s : State} (hs : Keeps s0 s) : Keeps s0 (stExecute c forced s).s := by
  have he : ∀ n, Keeps s0 (evalTo c n s).seen.s := fun n => keeps_evalTo c n hs
  unfold stExecute
  extract_lets total v0 end0 out v1 w1
  have h1 : Keeps s0 v1.seen.s := by
    show Keeps s0 (if end0.isSome then evalTo c end0 s else v0).seen.s
    split <;> exact he _
  have hw1 : Keeps s0 w1.1.s := keeps_emitTo _ _ _ h1
  split
  · exact h1
  · split
    · exact hw1
    · split
      · exact hw1
      · exact keeps_refuseAgain _ _ (keeps_emitTo _ _ _ (he _))

theorem keeps_stDefer {s0 : State} (c : StCtx) (w : StWait) {s : State} (hs : Keeps s0 s) : Keeps s0 (stDefer c w s) := by
  unfold stDefer
  repeat' (first
      | with_reducible assumption | with_reducible apply keeps_putEntry | with_reducible refine Keeps1.fst (keeps_remoteAnswer _ _ _ ?_)
      | with_reducible refine Keeps1.fst (keeps_bstReadLine _ _ _ ?_) | with_reducible refine Keeps1.fst (keeps_bstWrite _ _ _ _ _ ?_) | split)

theorem keeps_stFreeNi {s0 : State} (t : Nat) (seq : Nat) {s : State} (hs : Keeps s0 s) : Keeps s0 (stFreeNi t seq s) := by
  unfold stFreeNi
  repeat' (first | with_reducible assumption | with_reducible apply keeps_freeEntry | split)

theorem keeps_stFinishSolv {s0 : State} (t : Nat) (stall : Nat) (forced : Option StEnding) (o : Nat × Nat) (e : StEntry) {s : State}
    (hs : Keeps s0 s) :
    Keeps s0 (stFinishSolv t stall forced o e s) := by
  unfold stFinishSolv
  repeat' (first
      | with_reducible assumption | with_reducible apply keeps_bump | with_reducible apply keeps_stick | with_reducible apply keeps_stFaultInfo
      | with_reducible apply keeps_seqRefill | with_reducible apply keeps_seqEnded | with_reducible apply keeps_seqEndSt
      | with_reducible refine Keeps1.fst (keeps_seqStream _ _ _ ?_) | split)

theorem keeps_stFinish {s0 : State} (t : Nat) (stall : Nat) (forced : Option StEnding) (net : StreamNet) {s : State} (hs : Keeps s0 s) :
    Keeps s0 (stFinish t stall forced net s) := by
  unfold stFinish
  split
  · rename_i e r _
    refine Keeps.ite hs ?_
    have hp : ∀ n l, Keeps s0 (packetsHurt n l s) := fun n l => keeps_packetsHurt n l hs
    split
    · exact keeps_stFinishSolv _ _ _ _ _ (hp _ _)
    · dsimp only
      refine Keeps.ite hs ?_
      have hd := keeps_stExecute { stCtx s t e with forced := forced.isSome, ue := net.ue } forced (hp (tileStation s t) net.hurt)
      generalize stExecute _ forced _ = d at hd ⊢
      split
      · exact keeps_stDefer _ _ (hp _ _)
      · repeat' (first
          | with_reducible assumption | with_reducible apply keeps_seqRefill | with_reducible apply keeps_stComplete
          | with_reducible apply keeps_stick | with_reducible apply keeps_stFaultInfo | with_reducible apply keeps_bump
          | with_reducible apply keeps_endLast | with_reducible apply keeps_noteSeed | with_reducible apply keeps_recordCvt
          | with_reducible apply keeps_stFreeNi | with_reducible apply Keeps.ite | with_reducible refine Keeps.foldl (fun t x ht => ?_) _ ?_ | split)
  · exact hs

theorem keeps_stSkipped {s0 : State} (t : Nat) {s : State} (hs : Keeps s0 s) : Keeps s0 (stSkipped t s) := by
  unfold stSkipped
  repeat' (first
      | with_reducible assumption | with_reducible apply keeps_stick | with_reducible apply keeps_stFaultInfo | with_reducible apply keeps_seqRefill
      | with_reducible apply keeps_stComplete | split)

theorem keeps_stStart {s0 : State} (t : Nat) (parity : Bool) {s : State} (hs : Keeps s0 s) : Keeps s0 (stStart t parity s) := by
  unfold stStart
  repeat' (first
      | with_reducible assumption | with_reducible apply keeps_seqRefill | with_reducible apply keeps_dropRead | with_reducible apply keeps_modTile
      | with_reducible apply keeps_parityFault | simp -proj only [Keeps.lit_iff] | split)

theorem keeps_execStrmDescStart {s0 : State} (t : Tile) (parity : Bool) {s : State} (hs : Keeps s0 s) : KeepsO s0 (execStrmDescStart t parity s) := by
  unfold execStrmDescStart
  apply KeepsO.next
  repeat' (first | with_reducible assumption | with_reducible apply keeps_stStart)

theorem keeps_execStrmDescDone {s0 : State} (t : Tile) (run : StreamRun) {s : State} (hs : Keeps s0 s) :
    KeepsO s0 (execStrmDescDone t run s) := by
  unfold execStrmDescDone
  apply KeepsO.next
  repeat' (first | with_reducible assumption | with_reducible apply keeps_stFinish)

theorem keeps_execStrmDescFaultEnd {s0 : State} (t : Tile) (ending : StreamEnd) (place : StreamPlace) (run : StreamRun)
    {s : State} (hs : Keeps s0 s) :
    KeepsO s0 (execStrmDescFaultEnd t ending place run s) := by
  unfold execStrmDescFaultEnd
  apply KeepsO.next
  repeat' (first | with_reducible assumption | with_reducible apply keeps_stFinish | split)

theorem keeps_execStrmSkipDone {s0 : State} (t : Tile) {s : State} (hs : Keeps s0 s) : KeepsO s0 (execStrmSkipDone t s) := by
  unfold execStrmSkipDone
  apply KeepsO.next
  repeat' (first | with_reducible assumption | with_reducible apply keeps_stSkipped)

/-! Machine/CoreSystem.lean -/

theorem keeps_sendPost {s0 : State} (t : Nat) (k : PostKind) (v : Word) {s : State} (hs : Keeps s0 s) : Keeps s0 (sendPost t k v s) := by
  unfold sendPost
  repeat' (first | assumption | apply Keeps.at | simp -proj only [Keeps.lit_iff])

theorem keeps_sysWrite {s0 : State} (t : Nat) (n : Nat) (v : Word) {s : State} (hs : Keeps s0 s) : Keeps s0 (sysWrite t n v s) := by
  unfold sysWrite
  repeat' (first
      | assumption | apply keeps_placeFrees | apply keeps_sendPost | apply keeps_modCore | apply keeps_stepAdvance | apply keeps_hostIrqOp
      | apply keeps_writeStored | simp -proj only [Keeps.lit_iff] | split)

theorem keeps_execSysr {s0 : State} (t : Tile) (d : GReg) (a : GReg) {s : State} (hs : Keeps s0 s) : KeepsO s0 (execSysr t d a s) := by
  unfold execSysr
  apply KeepsO.next
  repeat' (first
      | assumption | refine keeps_onWord _ _ (fun z0 hz => ?_) ?_ | refine keeps_issue _ (fun z0 hz => ?_) ?_ | apply keeps_nextPc | apply keeps_setG
      | apply keeps_raiseExc | simp -proj only [Keeps.lit_iff] | split)

theorem keeps_execSysw {s0 : State} (t : Tile) (a : GReg) (b : GReg) {s : State} (hs : Keeps s0 s) : KeepsO s0 (execSysw t a b s) := by
  unfold execSysw
  apply KeepsO.next
  repeat' (first
      | assumption | refine keeps_onWord _ _ (fun z0 hz => ?_) ?_ | refine keeps_issue _ (fun z0 hz => ?_) ?_ | apply keeps_sysWrite
      | apply keeps_nextPc | apply keeps_raiseExc | simp -proj only [Keeps.lit_iff] | split)

theorem keeps_execRetx {s0 : State} (t : Tile) {s : State} (hs : Keeps s0 s) : KeepsO s0 (execRetx t s) := by
  unfold execRetx
  apply KeepsO.next
  repeat' (first
      | assumption | refine keeps_onWord _ _ (fun z0 hz => ?_) ?_ | refine keeps_issue _ (fun z0 hz => ?_) ?_ | apply keeps_modCore
      | apply keeps_setPc | apply keeps_putB)

theorem keeps_execBrk {s0 : State} (t : Tile) {s : State} (hs : Keeps s0 s) : KeepsO s0 (execBrk t s) := by
  unfold execBrk
  apply KeepsO.next
  repeat' (first | assumption | refine keeps_onWord _ _ (fun z0 hz => ?_) ?_ | refine keeps_issue _ (fun z0 hz => ?_) ?_ | apply keeps_raiseExc)

theorem keeps_execIsync {s0 : State} (t : Tile) {s : State} (hs : Keeps s0 s) : KeepsO s0 (execIsync t s) := by
  unfold execIsync
  apply KeepsO.next
  repeat' (first
      | assumption | refine keeps_onWord _ _ (fun z0 hz => ?_) ?_ | refine keeps_issue _ (fun z0 hz => ?_) ?_ | apply keeps_nextPc
      | apply keeps_modCore)

theorem keeps_execWnext {s0 : State} (t : Tile) (d : GReg) {s : State} (hs : Keeps s0 s) : KeepsO s0 (execWnext t d s) := by
  unfold execWnext
  apply KeepsO.next
  repeat' (first | assumption | refine keeps_onWord _ _ (fun z0 hz => ?_) ?_ | refine keeps_issue _ (fun z0 hz => ?_) ?_ | apply keeps_modCore)

theorem keeps_waitOp {s0 : State} (t : Tile) (d : GReg) (a : GReg) (l : CoreSt → List (Nat × Option Byte)) {s : State} (hs : Keeps s0 s) :
    Keeps s0 (waitOp t d a l s) := by
  unfold waitOp
  repeat' (first | assumption | refine keeps_issue _ (fun z0 hz => ?_) ?_ | apply keeps_nextPc | apply keeps_setG | split)

theorem keeps_execWaitm {s0 : State} (t : Tile) (d : GReg) (a : GReg) {s : State} (hs : Keeps s0 s) : KeepsO s0 (execWaitm t d a s) := by
  unfold execWaitm
  apply KeepsO.next
  repeat' (first | assumption | refine keeps_onWord _ _ (fun z0 hz => ?_) ?_ | apply keeps_waitOp)

theorem keeps_execWaits {s0 : State} (t : Tile) (d : GReg) (a : GReg) {s : State} (hs : Keeps s0 s) : KeepsO s0 (execWaits t d a s) := by
  unfold execWaits
  apply KeepsO.next
  repeat' (first | assumption | refine keeps_onWord _ _ (fun z0 hz => ?_) ?_ | apply keeps_waitOp)

theorem keeps_execWaitall {s0 : State} (t : Tile) {s : State} (hs : Keeps s0 s) : KeepsO s0 (execWaitall t s) := by
  unfold execWaitall
  apply KeepsO.next
  repeat' (first | assumption | refine keeps_onWord _ _ (fun z0 hz => ?_) ?_ | refine keeps_issue _ (fun z0 hz => ?_) ?_ | apply keeps_nextPc | split)

theorem keeps_execMxi {s0 : State} (t : Tile) (d : GReg) (a : GReg) (b : GReg) {s : State} (hs : Keeps s0 s) : KeepsO s0 (execMxi t d a b s) := by
  unfold execMxi
  apply KeepsO.next
  repeat' (first
      | assumption | refine keeps_onWord _ _ (fun z0 hz => ?_) ?_ | refine keeps_issue _ (fun z0 hz => ?_) ?_ | apply keeps_nextPc | apply keeps_setG
      | apply keeps_mxEnter | split)

theorem keeps_execSti {s0 : State} (t : Tile) (d : GReg) (a : GReg) {s : State} (hs : Keeps s0 s) : KeepsO s0 (execSti t d a s) := by
  unfold execSti
  apply KeepsO.next
  repeat' (first
      | assumption | refine keeps_onWord _ _ (fun z0 hz => ?_) ?_ | refine keeps_issue _ (fun z0 hz => ?_) ?_ | apply keeps_raiseExc
      | apply keeps_nextPc | apply keeps_setG | apply keeps_stEnter | split)

theorem keeps_execInterruptEntry {s0 : State} (t : Tile) {s : State} (hs : Keeps s0 s) : KeepsO s0 (execInterruptEntry t s) := by
  unfold execInterruptEntry
  apply KeepsO.next
  repeat' (first | assumption | apply keeps_enterHandler | split)

/-! Machine/CoreVector.lean -/

theorem keeps_issueLegal {s0 : State} (t : Tile) (ok : Bool) {f : State → State} {s : State} (hf : ∀ z0, Keeps s0 z0 → Keeps s0 (f z0))
    (hs : Keeps s0 s) :
    Keeps s0 (issueLegal t ok f s) := by
  unfold issueLegal
  repeat' (first | assumption | refine keeps_issue _ (fun z0 hz => ?_) ?_ | apply keeps_nextPc | apply keeps_raiseExc | apply hf | split)

theorem keeps_vecOp {s0 : State} (t : Tile) (vd : VReg) (va : VReg) (vb : VReg) (m : MReg) (sew : Sew) (ok : Bool) (f : Nat → Nat → Nat → Nat)
    {s : State} (hs : Keeps s0 s) :
    Keeps s0 (vecOp t vd va vb m sew ok f s) := by
  unfold vecOp
  repeat' (first | assumption | refine keeps_issueLegal _ _ (fun z0 hz => ?_) ?_ | apply keeps_setV)

theorem keeps_vintOp {s0 : State} (t : Tile) (vd : VReg) (va : VReg) (vb : VReg) (m : MReg) (sew : Sew) (f : Nat → Nat → Nat → Nat) {s : State}
    (hs : Keeps s0 s) :
    Keeps s0 (vintOp t vd va vb m sew f s) := by
  unfold vintOp
  repeat' (first | assumption | apply keeps_vecOp)

theorem keeps_vcmpOp {s0 : State} (t : Tile) (vd : VReg) (va : VReg) (vb : VReg) (m : MReg) (sew : Sew) (ok : Bool) (f : Nat → Nat → Bool)
    {s : State} (hs : Keeps s0 s) :
    Keeps s0 (vcmpOp t vd va vb m sew ok f s) := by
  unfold vcmpOp
  repeat' (first | assumption | refine keeps_issueLegal _ _ (fun z0 hz => ?_) ?_ | apply keeps_setM)

theorem keeps_vfpOp {s0 : State} (t : Tile) (vd : VReg) (va : VReg) (vb : VReg) (m : MReg) (sew : Sew) (f : Val → Val → Val → Val) {s : State}
    (hs : Keeps s0 s) :
    Keeps s0 (vfpOp t vd va vb m sew f s) := by
  unfold vfpOp
  repeat' (first | assumption | apply keeps_vecOp)

theorem keeps_execVadd {s0 : State} (t : Tile) (vd : VReg) (va : VReg) (vb : VReg) (m : MReg) (sew : Sew) {s : State} (hs : Keeps s0 s) :
    KeepsO s0 (execVadd t vd va vb m sew s) := by
  unfold execVadd
  apply KeepsO.next
  repeat' (first | assumption | refine keeps_onWord _ _ (fun z0 hz => ?_) ?_ | apply keeps_vintOp)

theorem keeps_execVsub {s0 : State} (t : Tile) (vd : VReg) (va : VReg) (vb : VReg) (m : MReg) (sew : Sew) {s : State} (hs : Keeps s0 s) :
    KeepsO s0 (execVsub t vd va vb m sew s) := by
  unfold execVsub
  apply KeepsO.next
  repeat' (first | assumption | refine keeps_onWord _ _ (fun z0 hz => ?_) ?_ | apply keeps_vintOp)

theorem keeps_execVmul {s0 : State} (t : Tile) (vd : VReg) (va : VReg) (vb : VReg) (m : MReg) (sew : Sew) {s : State} (hs : Keeps s0 s) :
    KeepsO s0 (execVmul t vd va vb m sew s) := by
  unfold execVmul
  apply KeepsO.next
  repeat' (first | assumption | refine keeps_onWord _ _ (fun z0 hz => ?_) ?_ | apply keeps_vintOp)

theorem keeps_execVmin {s0 : State} (t : Tile) (vd : VReg) (va : VReg) (vb : VReg) (m : MReg) (sew : Sew) {s : State} (hs : Keeps s0 s) :
    KeepsO s0 (execVmin t vd va vb m sew s) := by
  unfold execVmin
  apply KeepsO.next
  repeat' (first | assumption | refine keeps_onWord _ _ (fun z0 hz => ?_) ?_ | apply keeps_vintOp)

theorem keeps_execVminu {s0 : State} (t : Tile) (vd : VReg) (va : VReg) (vb : VReg) (m : MReg) (sew : Sew) {s : State} (hs : Keeps s0 s) :
    KeepsO s0 (execVminu t vd va vb m sew s) := by
  unfold execVminu
  apply KeepsO.next
  repeat' (first | assumption | refine keeps_onWord _ _ (fun z0 hz => ?_) ?_ | apply keeps_vintOp)

theorem keeps_execVmax {s0 : State} (t : Tile) (vd : VReg) (va : VReg) (vb : VReg) (m : MReg) (sew : Sew) {s : State} (hs : Keeps s0 s) :
    KeepsO s0 (execVmax t vd va vb m sew s) := by
  unfold execVmax
  apply KeepsO.next
  repeat' (first | assumption | refine keeps_onWord _ _ (fun z0 hz => ?_) ?_ | apply keeps_vintOp)

theorem keeps_execVmaxu {s0 : State} (t : Tile) (vd : VReg) (va : VReg) (vb : VReg) (m : MReg) (sew : Sew) {s : State} (hs : Keeps s0 s) :
    KeepsO s0 (execVmaxu t vd va vb m sew s) := by
  unfold execVmaxu
  apply KeepsO.next
  repeat' (first | assumption | refine keeps_onWord _ _ (fun z0 hz => ?_) ?_ | apply keeps_vintOp)

theorem keeps_execVand {s0 : State} (t : Tile) (vd : VReg) (va : VReg) (vb : VReg) (m : MReg) (sew : Sew) {s : State} (hs : Keeps s0 s) :
    KeepsO s0 (execVand t vd va vb m sew s) := by
  unfold execVand
  apply KeepsO.next
  repeat' (first | assumption | refine keeps_onWord _ _ (fun z0 hz => ?_) ?_ | apply keeps_vintOp)

theorem keeps_execVor {s0 : State} (t : Tile) (vd : VReg) (va : VReg) (vb : VReg) (m : MReg) (sew : Sew) {s : State} (hs : Keeps s0 s) :
    KeepsO s0 (execVor t vd va vb m sew s) := by
  unfold execVor
  apply KeepsO.next
  repeat' (first | assumption | refine keeps_onWord _ _ (fun z0 hz => ?_) ?_ | apply keeps_vintOp)

theorem keeps_execVxor {s0 : State} (t : Tile) (vd : VReg) (va : VReg) (vb : VReg) (m : MReg) (sew : Sew) {s : State} (hs : Keeps s0 s) :
    KeepsO s0 (execVxor t vd va vb m sew s) := by
  unfold execVxor
  apply KeepsO.next
  repeat' (first | assumption | refine keeps_onWord _ _ (fun z0 hz => ?_) ?_ | apply keeps_vintOp)

theorem keeps_execVsll {s0 : State} (t : Tile) (vd : VReg) (va : VReg) (vb : VReg) (m : MReg) (sew : Sew) {s : State} (hs : Keeps s0 s) :
    KeepsO s0 (execVsll t vd va vb m sew s) := by
  unfold execVsll
  apply KeepsO.next
  repeat' (first | assumption | refine keeps_onWord _ _ (fun z0 hz => ?_) ?_ | apply keeps_vintOp)

theorem keeps_execVsrl {s0 : State} (t : Tile) (vd : VReg) (va : VReg) (vb : VReg) (m : MReg) (sew : Sew) {s : State} (hs : Keeps s0 s) :
    KeepsO s0 (execVsrl t vd va vb m sew s) := by
  unfold execVsrl
  apply KeepsO.next
  repeat' (first | assumption | refine keeps_onWord _ _ (fun z0 hz => ?_) ?_ | apply keeps_vintOp)

theorem keeps_execVsra {s0 : State} (t : Tile) (vd : VReg) (va : VReg) (vb : VReg) (m : MReg) (sew : Sew) {s : State} (hs : Keeps s0 s) :
    KeepsO s0 (execVsra t vd va vb m sew s) := by
  unfold execVsra
  apply KeepsO.next
  repeat' (first | assumption | refine keeps_onWord _ _ (fun z0 hz => ?_) ?_ | apply keeps_vintOp)

theorem keeps_execVcmpeq {s0 : State} (t : Tile) (vd : VReg) (va : VReg) (vb : VReg) (m : MReg) (sew : Sew) {s : State} (hs : Keeps s0 s) :
    KeepsO s0 (execVcmpeq t vd va vb m sew s) := by
  unfold execVcmpeq
  apply KeepsO.next
  repeat' (first | assumption | refine keeps_onWord _ _ (fun z0 hz => ?_) ?_ | apply keeps_vcmpOp)

theorem keeps_execVcmplt {s0 : State} (t : Tile) (vd : VReg) (va : VReg) (vb : VReg) (m : MReg) (sew : Sew) {s : State} (hs : Keeps s0 s) :
    KeepsO s0 (execVcmplt t vd va vb m sew s) := by
  unfold execVcmplt
  apply KeepsO.next
  repeat' (first | assumption | refine keeps_onWord _ _ (fun z0 hz => ?_) ?_ | apply keeps_vcmpOp)

theorem keeps_execVcmpltu {s0 : State} (t : Tile) (vd : VReg) (va : VReg) (vb : VReg) (m : MReg) (sew : Sew) {s : State} (hs : Keeps s0 s) :
    KeepsO s0 (execVcmpltu t vd va vb m sew s) := by
  unfold execVcmpltu
  apply KeepsO.next
  repeat' (first | assumption | refine keeps_onWord _ _ (fun z0 hz => ?_) ?_ | apply keeps_vcmpOp)

theorem keeps_execVfadd {s0 : State} (t : Tile) (vd : VReg) (va : VReg) (vb : VReg) (m : MReg) (sew : Sew) {s : State} (hs : Keeps s0 s) :
    KeepsO s0 (execVfadd t vd va vb m sew s) := by
  unfold execVfadd
  apply KeepsO.next
  repeat' (first | assumption | refine keeps_onWord _ _ (fun z0 hz => ?_) ?_ | apply keeps_vfpOp)

theorem keeps_execVfsub {s0 : State} (t : Tile) (vd : VReg) (va : VReg) (vb : VReg) (m : MReg) (sew : Sew) {s : State} (hs : Keeps s0 s) :
    KeepsO s0 (execVfsub t vd va vb m sew s) := by
  unfold execVfsub
  apply KeepsO.next
  repeat' (first | assumption | refine keeps_onWord _ _ (fun z0 hz => ?_) ?_ | apply keeps_vfpOp)

theorem keeps_execVfmul {s0 : State} (t : Tile) (vd : VReg) (va : VReg) (vb : VReg) (m : MReg) (sew : Sew) {s : State} (hs : Keeps s0 s) :
    KeepsO s0 (execVfmul t vd va vb m sew s) := by
  unfold execVfmul
  apply KeepsO.next
  repeat' (first | assumption | refine keeps_onWord _ _ (fun z0 hz => ?_) ?_ | apply keeps_vfpOp)

theorem keeps_execVffma {s0 : State} (t : Tile) (vd : VReg) (va : VReg) (vb : VReg) (m : MReg) (sew : Sew) {s : State} (hs : Keeps s0 s) :
    KeepsO s0 (execVffma t vd va vb m sew s) := by
  unfold execVffma
  apply KeepsO.next
  repeat' (first | assumption | refine keeps_onWord _ _ (fun z0 hz => ?_) ?_ | apply keeps_vfpOp)

theorem keeps_execVfmin {s0 : State} (t : Tile) (vd : VReg) (va : VReg) (vb : VReg) (m : MReg) (sew : Sew) {s : State} (hs : Keeps s0 s) :
    KeepsO s0 (execVfmin t vd va vb m sew s) := by
  unfold execVfmin
  apply KeepsO.next
  repeat' (first | assumption | refine keeps_onWord _ _ (fun z0 hz => ?_) ?_ | apply keeps_vfpOp)

theorem keeps_execVfmax {s0 : State} (t : Tile) (vd : VReg) (va : VReg) (vb : VReg) (m : MReg) (sew : Sew) {s : State} (hs : Keeps s0 s) :
    KeepsO s0 (execVfmax t vd va vb m sew s) := by
  unfold execVfmax
  apply KeepsO.next
  repeat' (first | assumption | refine keeps_onWord _ _ (fun z0 hz => ?_) ?_ | apply keeps_vfpOp)

theorem keeps_execVfcmpeq {s0 : State} (t : Tile) (vd : VReg) (va : VReg) (vb : VReg) (m : MReg) (sew : Sew) {s : State} (hs : Keeps s0 s) :
    KeepsO s0 (execVfcmpeq t vd va vb m sew s) := by
  unfold execVfcmpeq
  apply KeepsO.next
  repeat' (first | assumption | refine keeps_onWord _ _ (fun z0 hz => ?_) ?_ | apply keeps_vcmpOp)

theorem keeps_execVfcmplt {s0 : State} (t : Tile) (vd : VReg) (va : VReg) (vb : VReg) (m : MReg) (sew : Sew) {s : State} (hs : Keeps s0 s) :
    KeepsO s0 (execVfcmplt t vd va vb m sew s) := by
  unfold execVfcmplt
  apply KeepsO.next
  repeat' (first | assumption | refine keeps_onWord _ _ (fun z0 hz => ?_) ?_ | apply keeps_vcmpOp)

theorem keeps_vwideOp {s0 : State} (add : Bool) (t : Tile) (vd : VReg) (va : VReg) (vb : VReg) (m : MReg) (sew : Sew) (sa : Bool) (sb : Bool)
    {s : State} (hs : Keeps s0 s) :
    Keeps s0 (vwideOp add t vd va vb m sew sa sb s) := by
  unfold vwideOp
  repeat' (first | assumption | refine keeps_issueLegal _ _ (fun z0 hz => ?_) ?_ | apply keeps_setV)

theorem keeps_execVwideMul {s0 : State} (t : Tile) (vd : VReg) (va : VReg) (vb : VReg) (m : MReg) (sew : Sew) (sa : Bool) (sb : Bool) {s : State}
    (hs : Keeps s0 s) :
    KeepsO s0 (execVwideMul t vd va vb m sew sa sb s) := by
  unfold execVwideMul
  apply KeepsO.next
  repeat' (first | assumption | refine keeps_onWord _ _ (fun z0 hz => ?_) ?_ | apply keeps_vwideOp)

theorem keeps_execVwideMuladd {s0 : State} (t : Tile) (vd : VReg) (va : VReg) (vb : VReg) (m : MReg) (sew : Sew) (sa : Bool) (sb : Bool) {s : State}
    (hs : Keeps s0 s) :
    KeepsO s0 (execVwideMuladd t vd va vb m sew sa sb s) := by
  unfold execVwideMuladd
  apply KeepsO.next
  repeat' (first | assumption | refine keeps_onWord _ _ (fun z0 hz => ?_) ?_ | apply keeps_vwideOp)

theorem keeps_execVdotInt8 {s0 : State} (t : Tile) (vd : VReg) (va : VReg) (vb : VReg) (m : MReg) (sew : Sew) (sa : Bool) (sb : Bool) {s : State}
    (hs : Keeps s0 s) :
    KeepsO s0 (execVdotInt8 t vd va vb m sew sa sb s) := by
  unfold execVdotInt8
  apply KeepsO.next
  repeat' (first
      | assumption | refine keeps_onWord _ _ (fun z0 hz => ?_) ?_ | refine keeps_issueLegal _ _ (fun z0 hz => ?_) ?_ | apply keeps_stick
      | apply keeps_setV | split)

theorem keeps_vdotFp {s0 : State} (g : FloatFmt) (t : Tile) (vd : VReg) (va : VReg) (vb : VReg) (m : MReg) (sew : Sew) {s : State} (hs : Keeps s0 s) :
    Keeps s0 (vdotFp g t vd va vb m sew s) := by
  unfold vdotFp
  repeat' (first | assumption | refine keeps_issueLegal _ _ (fun z0 hz => ?_) ?_ | apply keeps_setV)

theorem keeps_execVdotBf16 {s0 : State} (t : Tile) (vd : VReg) (va : VReg) (vb : VReg) (m : MReg) (sew : Sew) {s : State} (hs : Keeps s0 s) :
    KeepsO s0 (execVdotBf16 t vd va vb m sew s) := by
  unfold execVdotBf16
  apply KeepsO.next
  repeat' (first | assumption | refine keeps_onWord _ _ (fun z0 hz => ?_) ?_ | apply keeps_vdotFp)

theorem keeps_execVdotFp16 {s0 : State} (t : Tile) (vd : VReg) (va : VReg) (vb : VReg) (m : MReg) (sew : Sew) {s : State} (hs : Keeps s0 s) :
    KeepsO s0 (execVdotFp16 t vd va vb m sew s) := by
  unfold execVdotFp16
  apply KeepsO.next
  repeat' (first | assumption | refine keeps_onWord _ _ (fun z0 hz => ?_) ?_ | apply keeps_vdotFp)

theorem keeps_execVbcast {s0 : State} (t : Tile) (vd : VReg) (a : GReg) (m : MReg) (sew : Sew) {s : State} (hs : Keeps s0 s) :
    KeepsO s0 (execVbcast t vd a m sew s) := by
  unfold execVbcast
  apply KeepsO.next
  repeat' (first | assumption | refine keeps_onWord _ _ (fun z0 hz => ?_) ?_ | refine keeps_issueLegal _ _ (fun z0 hz => ?_) ?_ | apply keeps_setV)

theorem keeps_execVins {s0 : State} (t : Tile) (vd : VReg) (a : GReg) (b : GReg) (m : MReg) (sew : Sew) {s : State} (hs : Keeps s0 s) :
    KeepsO s0 (execVins t vd a b m sew s) := by
  unfold execVins
  apply KeepsO.next
  repeat' (first
      | assumption | refine keeps_onWord _ _ (fun z0 hz => ?_) ?_ | refine keeps_issueLegal _ _ (fun z0 hz => ?_) ?_ | apply keeps_setV
      | simp -proj only [Keeps.lit_iff] | split)

theorem keeps_execVext {s0 : State} (t : Tile) (d : GReg) (va : VReg) (b : GReg) (_m : MReg) (sew : Sew) {s : State} (hs : Keeps s0 s) :
    KeepsO s0 (execVext t d va b _m sew s) := by
  unfold execVext
  apply KeepsO.next
  repeat' (first
      | assumption | refine keeps_onWord _ _ (fun z0 hz => ?_) ?_ | refine keeps_issueLegal _ _ (fun z0 hz => ?_) ?_ | apply keeps_setG
      | apply keeps_tickFree | simp -proj only [Keeps.lit_iff] | split)

theorem keeps_execVslide {s0 : State} (t : Tile) (vd : VReg) (va : VReg) (b : GReg) (m : MReg) (sew : Sew) {s : State} (hs : Keeps s0 s) :
    KeepsO s0 (execVslide t vd va b m sew s) := by
  unfold execVslide
  apply KeepsO.next
  repeat' (first | assumption | refine keeps_onWord _ _ (fun z0 hz => ?_) ?_ | refine keeps_issueLegal _ _ (fun z0 hz => ?_) ?_ | apply keeps_setV)

theorem keeps_maskOp {s0 : State} (t : Tile) (vd : MReg) {f : State → Word} {s : State} (hs : Keeps s0 s) : Keeps s0 (maskOp t vd f s) := by
  unfold maskOp
  repeat' (first | assumption | refine keeps_issue _ (fun z0 hz => ?_) ?_ | apply keeps_nextPc | apply keeps_setM)

theorem keeps_execVmand {s0 : State} (t : Tile) (vd : MReg) (va : MReg) (vb : MReg) {s : State} (hs : Keeps s0 s) :
    KeepsO s0 (execVmand t vd va vb s) := by
  unfold execVmand
  apply KeepsO.next
  repeat' (first | assumption | refine keeps_onWord _ _ (fun z0 hz => ?_) ?_ | apply keeps_maskOp)

theorem keeps_execVmor {s0 : State} (t : Tile) (vd : MReg) (va : MReg) (vb : MReg) {s : State} (hs : Keeps s0 s) :
    KeepsO s0 (execVmor t vd va vb s) := by
  unfold execVmor
  apply KeepsO.next
  repeat' (first | assumption | refine keeps_onWord _ _ (fun z0 hz => ?_) ?_ | apply keeps_maskOp)

theorem keeps_execVmnot {s0 : State} (t : Tile) (vd : MReg) (va : MReg) {s : State} (hs : Keeps s0 s) : KeepsO s0 (execVmnot t vd va s) := by
  unfold execVmnot
  apply KeepsO.next
  repeat' (first | assumption | refine keeps_onWord _ _ (fun z0 hz => ?_) ?_ | apply keeps_maskOp)

theorem keeps_vredOp {s0 : State} (t : Tile) (vd : VReg) (va : VReg) (m : MReg) (sew : Sew) (ok : Bool) (f : List Nat → Nat) {s : State}
    (hs : Keeps s0 s) :
    Keeps s0 (vredOp t vd va m sew ok f s) := by
  unfold vredOp
  repeat' (first | assumption | refine keeps_issueLegal _ _ (fun z0 hz => ?_) ?_ | apply keeps_setV)

theorem keeps_execVredRsum {s0 : State} (t : Tile) (vd : VReg) (va : VReg) (m : MReg) (sew : Sew) {s : State} (hs : Keeps s0 s) :
    KeepsO s0 (execVredRsum t vd va m sew s) := by
  unfold execVredRsum
  apply KeepsO.next
  repeat' (first | assumption | refine keeps_onWord _ _ (fun z0 hz => ?_) ?_ | apply keeps_vredOp)

theorem keeps_execVredRsumf {s0 : State} (t : Tile) (vd : VReg) (va : VReg) (m : MReg) (sew : Sew) {s : State} (hs : Keeps s0 s) :
    KeepsO s0 (execVredRsumf t vd va m sew s) := by
  unfold execVredRsumf
  apply KeepsO.next
  repeat' (first | assumption | refine keeps_onWord _ _ (fun z0 hz => ?_) ?_ | apply keeps_vredOp)

theorem keeps_execVredRmax {s0 : State} (t : Tile) (vd : VReg) (va : VReg) (m : MReg) (sew : Sew) {s : State} (hs : Keeps s0 s) :
    KeepsO s0 (execVredRmax t vd va m sew s) := by
  unfold execVredRmax
  apply KeepsO.next
  repeat' (first | assumption | refine keeps_onWord _ _ (fun z0 hz => ?_) ?_ | apply keeps_vredOp)

theorem keeps_execVredRmin {s0 : State} (t : Tile) (vd : VReg) (va : VReg) (m : MReg) (sew : Sew) {s : State} (hs : Keeps s0 s) :
    KeepsO s0 (execVredRmin t vd va m sew s) := by
  unfold execVredRmin
  apply KeepsO.next
  repeat' (first | assumption | refine keeps_onWord _ _ (fun z0 hz => ?_) ?_ | apply keeps_vredOp)

/-! Machine/CoreVectorMem.lean -/

theorem keeps_issueVmem {s0 : State} (t : Tile) {f : Nat → Bool → State → State} {s : State} (hf : ∀ z0 z1 z2, Keeps s0 z2 → Keeps s0 (f z0 z1 z2))
    (hs : Keeps s0 s) :
    Keeps s0 (issueVmem t f s) := by
  unfold issueVmem
  repeat' (first
      | with_reducible assumption | with_reducible apply keeps_modCore | with_reducible apply hf
      | refine KeepsE.getl (keeps_fetch _ ?_) (by assumption) | refine KeepsE.getr (keeps_fetch _ ?_) (by assumption) | split)

theorem keeps_vmemFault {s0 : State} (t : Tile) (e : Nat) (code : Nat) (x : Nat) {s : State} (hs : Keeps s0 s) :
    Keeps s0 (vmemFault t e code x s) := by
  unfold vmemFault
  repeat' (first
      | with_reducible assumption | with_reducible apply keeps_raiseExc | with_reducible apply keeps_putB | with_reducible apply keeps_putF)

theorem keeps_vmemDone {s0 : State} (t : Tile) (resumed : Bool) {s : State} (hs : Keeps s0 s) : Keeps s0 (vmemDone t resumed s) := by
  unfold vmemDone
  repeat' (first | with_reducible assumption | with_reducible apply keeps_nextPc | with_reducible apply keeps_putB | split)

theorem keeps_vloadElems {s0 : State} (t : Tile) (vd : VReg) (w : Nat) (m : Word) (addr : Nat → Nat) (resumed : Bool) (k i : Nat) {s : State}
    (hs : Keeps s0 s) : Keeps s0 (vloadElems t vd w m addr resumed k i s) := by
  induction k generalizing i s with
  | zero => exact keeps_vmemDone _ _ hs
  | succ k ih =>
    unfold vloadElems
    refine Keeps.ite ?_ (ih _ hs)
    dsimp only
    split
    · exact keeps_vmemFault _ _ _ _ hs
    · exact Keeps.ite (keeps_vmemFault _ _ _ _ (keeps_touchRange _ _ _ hs)) (ih _ (keeps_setV _ _ _ (keeps_touchRange _ _ _ hs)))

theorem keeps_vstoreElems {s0 : State} (t : Tile) (w : Nat) (m : Word) (data : List Nat) (addr : Nat → Nat) (resumed : Bool) (k i : Nat)
    {s : State} (hs : Keeps s0 s) : Keeps s0 (vstoreElems t w m data addr resumed k i s) := by
  induction k generalizing i s with
  | zero => exact keeps_vmemDone _ _ hs
  | succ k ih =>
    unfold vstoreElems
    refine Keeps.ite ?_ (ih _ hs)
    dsimp only
    split
    · exact keeps_vmemFault _ _ _ _ hs
    · exact Keeps.ite (keeps_vmemFault _ _ _ _ (keeps_spWrite _ _ _ hs)) (ih _ (keeps_spWrite _ _ _ hs))

theorem keeps_vldOp {s0 : State} (t : Tile) (vd : VReg) (m : MReg) (sew : Sew) {addr : State → Nat → Nat} {s : State} (hs : Keeps s0 s) :
    Keeps s0 (vldOp t vd m sew addr s) := by
  unfold vldOp
  repeat' (first
      | with_reducible assumption | with_reducible refine keeps_issueVmem _ (fun z0 z1 z2 hz => ?_) ?_ | with_reducible apply keeps_vloadElems)

theorem keeps_vstOp {s0 : State} (t : Tile) (vd : VReg) (m : MReg) (sew : Sew) {addr : State → Nat → Nat} {s : State} (hs : Keeps s0 s) :
    Keeps s0 (vstOp t vd m sew addr s) := by
  unfold vstOp
  repeat' (first
      | with_reducible assumption | with_reducible refine keeps_issueVmem _ (fun z0 z1 z2 hz => ?_) ?_ | with_reducible apply keeps_vstoreElems)

theorem keeps_execVld {s0 : State} (t : Tile) (vd : VReg) (a : GReg) (m : MReg) (sew : Sew) {s : State} (hs : Keeps s0 s) :
    KeepsO s0 (execVld t vd a m sew s) := by
  unfold execVld
  apply KeepsO.next
  repeat' (first | with_reducible assumption | with_reducible refine keeps_onWord _ _ (fun z0 hz => ?_) ?_ | with_reducible apply keeps_vldOp)

theorem keeps_execVlds {s0 : State} (t : Tile) (vd : VReg) (a : GReg) (b : GReg) (m : MReg) (sew : Sew) {s : State} (hs : Keeps s0 s) :
    KeepsO s0 (execVlds t vd a b m sew s) := by
  unfold execVlds
  apply KeepsO.next
  repeat' (first | with_reducible assumption | with_reducible refine keeps_onWord _ _ (fun z0 hz => ?_) ?_ | with_reducible apply keeps_vldOp)

theorem keeps_execVldx {s0 : State} (t : Tile) (vd : VReg) (a : GReg) (vb : VReg) (m : MReg) (sew : Sew) {s : State} (hs : Keeps s0 s) :
    KeepsO s0 (execVldx t vd a vb m sew s) := by
  unfold execVldx
  apply KeepsO.next
  repeat' (first | with_reducible assumption | with_reducible refine keeps_onWord _ _ (fun z0 hz => ?_) ?_ | with_reducible apply keeps_vldOp)

theorem keeps_execVst {s0 : State} (t : Tile) (vd : VReg) (a : GReg) (m : MReg) (sew : Sew) {s : State} (hs : Keeps s0 s) :
    KeepsO s0 (execVst t vd a m sew s) := by
  unfold execVst
  apply KeepsO.next
  repeat' (first | with_reducible assumption | with_reducible refine keeps_onWord _ _ (fun z0 hz => ?_) ?_ | with_reducible apply keeps_vstOp)

theorem keeps_execVsts {s0 : State} (t : Tile) (vd : VReg) (a : GReg) (b : GReg) (m : MReg) (sew : Sew) {s : State} (hs : Keeps s0 s) :
    KeepsO s0 (execVsts t vd a b m sew s) := by
  unfold execVsts
  apply KeepsO.next
  repeat' (first | with_reducible assumption | with_reducible refine keeps_onWord _ _ (fun z0 hz => ?_) ?_ | with_reducible apply keeps_vstOp)

theorem keeps_execVstx {s0 : State} (t : Tile) (vd : VReg) (a : GReg) (vb : VReg) (m : MReg) (sew : Sew) {s : State} (hs : Keeps s0 s) :
    KeepsO s0 (execVstx t vd a vb m sew s) := by
  unfold execVstx
  apply KeepsO.next
  repeat' (first | with_reducible assumption | with_reducible refine keeps_onWord _ _ (fun z0 hz => ?_) ?_ | with_reducible apply keeps_vstOp)

/-! Machine/Dispatcher.lean -/

theorem keeps_execWorkPost {s0 : State} (t : Tile) {s : State} (hs : Keeps s0 s) : KeepsO s0 (execWorkPost t s) := by
  unfold execWorkPost
  apply KeepsO.next
  repeat' (first | assumption | apply keeps_modCore | refine Keeps1.fst (keeps_takeRecord _ _ _ ?_) | simp -proj only [Keeps.lit_iff] | split)

theorem keeps_execWorkPostAck {s0 : State} (t : Tile) {s : State} (hs : Keeps s0 s) : KeepsO s0 (execWorkPostAck t s) := by
  unfold execWorkPostAck
  apply KeepsO.next
  repeat' (first | assumption | apply keeps_modCore | split)

theorem keeps_dispatchTo {s0 : State} (p : Nat) (t : Nat) (parity : Bool) {s : State} (hs : Keeps s0 s) : Keeps s0 (dispatchTo p t parity s) := by
  unfold dispatchTo
  repeat' (first
      | assumption | apply keeps_modPart | apply keeps_parityFault | apply keeps_modCore | refine Keeps1.fst (keeps_giveItem _ _ _ ?_)
      | simp -proj only [Keeps.lit_iff] | split)

theorem keeps_execDispatchItem {s0 : State} (t : Tile) (parity : Bool) {s : State} (hs : Keeps s0 s) : KeepsO s0 (execDispatchItem t parity s) := by
  unfold execDispatchItem
  apply KeepsO.next
  repeat' (first | assumption | apply keeps_dispatchTo | split)

theorem keeps_execWorkItemReceive_freeItem {s0 : State} (p : Nat) (i : Item) {s : State} (hs : Keeps s0 s) :
    Keeps s0 (execWorkItemReceive.freeItem p i s) := by
  unfold execWorkItemReceive.freeItem
  repeat' (first | assumption | apply keeps_modPart)

theorem keeps_execWorkItemReceive_receive {s0 : State} (t : Nat) (d : GReg) (i : Item) {s : State} (hs : Keeps s0 s) :
    Keeps s0 (execWorkItemReceive.receive t d i s) := by
  unfold execWorkItemReceive.receive
  repeat' (first | assumption | apply keeps_modCore)

theorem keeps_execWorkItemReceive {s0 : State} (t : Tile) {s : State} (hs : Keeps s0 s) : KeepsO s0 (execWorkItemReceive t s) := by
  unfold execWorkItemReceive
  apply KeepsO.next
  repeat' (first | assumption | apply keeps_execWorkItemReceive_receive | apply keeps_execWorkItemReceive_freeItem | split)

end Sys2Proof.Machine
end

