-- ==== Sys2Proof/Laws/KeepHost.lean ====
section
/-!
SUPPORT. Laws/KeepHost.lean: every operation on domains, resets, sleep, the host and management keeps what `Keeps` says.
-/
namespace Sys2Proof.Machine

/-! Machine/Domains.lean -/

theorem keeps_execDrainBegin {s0 : State} (n : Dom) {s : State} (hs : Keeps s0 s) : KeepsO s0 (execDrainBegin n s) := by
  unfold execDrainBegin
  apply KeepsO.next
  repeat' (first | with_reducible assumption | with_reducible apply keeps_modDom | split)

theorem keeps_execDrainComplete {s0 : State} (n : Dom) {s : State} (hs : Keeps s0 s) : KeepsO s0 (execDrainComplete n s) := by
  unfold execDrainComplete
  apply KeepsO.next
  repeat' (first | with_reducible assumption | with_reducible apply keeps_drainDone | split)

theorem keeps_execLinkCloseDone {s0 : State} (n : Port) {s : State} (hs : Keeps s0 s) : KeepsO s0 (execLinkCloseDone n s) := by
  unfold execLinkCloseDone
  apply KeepsO.next
  repeat' (first
      | with_reducible assumption | with_reducible apply keeps_darkPort | with_reducible apply keeps_drainDone | with_reducible apply keeps_openPort
      | simp -proj only [Keeps.lit_iff] | split)

theorem keeps_execDomainReady {s0 : State} (n : Dom) {s : State} (hs : Keeps s0 s) : KeepsO s0 (execDomainReady n s) := by
  unfold execDomainReady
  apply KeepsO.next
  repeat' (first | with_reducible assumption | with_reducible apply keeps_domainOn | split)

theorem keeps_execRampEnd {s0 : State} (n : Dom) (short : Bool) {s : State} (hs : Keeps s0 s) : KeepsO s0 (execRampEnd n short s) := by
  unfold execRampEnd
  apply KeepsO.next
  repeat' (first
      | with_reducible assumption | with_reducible apply keeps_domFail | with_reducible apply keeps_stick | with_reducible apply keeps_modDom
      | simp -proj only [Keeps.lit_iff] | split)

theorem keeps_execSlowRamp {s0 : State} (n : Dom) {s : State} (hs : Keeps s0 s) : KeepsO s0 (execSlowRamp n s) := by
  unfold execSlowRamp
  apply KeepsO.next
  repeat' (first | with_reducible assumption | with_reducible apply keeps_modDom | split)

theorem keeps_execCollIdleOff {s0 : State} {s : State} (hs : Keeps s0 s) : KeepsO s0 (execCollIdleOff s) := by
  unfold execCollIdleOff
  apply KeepsO.next
  repeat' (first
      | with_reducible assumption | with_reducible apply keeps_modDom | with_reducible apply keeps_domainOff | simp -proj only [Keeps.lit_iff]
      | split)

/-! Machine/ErrLog.lean -/

theorem keeps_popOp {s0 s : State} (h : Keeps s0 s) : Keeps s0 (popOp s) := by
  unfold popOp
  exact Keeps.ite h (h.trans ⟨rfl, id, id, fun _ => by simp; omega, fun _ => Nat.mod_lt _ (by decide), rfl, rfl, Nat.le_refl _, Nat.le_refl _⟩)

theorem keeps_clearAllOp {s0 s : State} (h : Keeps s0 s) : Keeps s0 (clearAllOp s) :=
  h.trans ⟨rfl, id, id, fun _ => by simp [clearAllOp], fun _ => Nat.mod_lt _ (by decide), rfl, rfl, Nat.le_refl _, Nat.le_refl _⟩

theorem keeps_logPopWrite {s0 : State} (v : Word) {s : State} (hs : Keeps s0 s) : Keeps s0 (logPopWrite v s) := by
  unfold logPopWrite
  repeat' (first | assumption | apply keeps_clearAllOp | apply keeps_popOp | split)

theorem keeps_execPop {s0 : State} {s : State} (hs : Keeps s0 s) : KeepsO s0 (execPop s) := by
  unfold execPop
  apply KeepsO.next
  repeat' (first | assumption | apply keeps_popOp)

theorem keeps_execClearAll {s0 : State} {s : State} (hs : Keeps s0 s) : KeepsO s0 (execClearAll s) := by
  unfold execClearAll
  apply KeepsO.next
  repeat' (first | assumption | apply keeps_clearAllOp)

/-! Machine/Resets.lean -/

theorem keeps_coldOp {s0 : State} {s : State} (hs : Keeps s0 s) : Keeps s0 (coldOp s) := by
  unfold coldOp
  repeat' (first | with_reducible assumption | with_reducible apply keeps_noteSensors | with_reducible apply keeps_coldReset | split)

theorem keeps_execCold {s0 : State} {s : State} (hs : Keeps s0 s) : KeepsO s0 (execCold s) := by
  unfold execCold
  apply KeepsO.next
  repeat' (first | with_reducible assumption | with_reducible apply keeps_coldOp)

theorem keeps_warmOp {s0 : State} {s : State} (hs : Keeps s0 s) : Keeps s0 (warmOp s) := by
  unfold warmOp
  repeat' (first | with_reducible assumption | with_reducible apply keeps_noteSensors | with_reducible apply keeps_warmReset | split)

theorem keeps_execWarm {s0 : State} {s : State} (hs : Keeps s0 s) : KeepsO s0 (execWarm s) := by
  unfold execWarm
  apply KeepsO.next
  repeat' (first | with_reducible assumption | with_reducible apply keeps_warmOp)

theorem keeps_clkUnitResetOp {s0 : State} (u : Nat) {s : State} (hs : Keeps s0 s) : Keeps s0 (clkUnitResetOp u s) := by
  unfold clkUnitResetOp
  repeat' (first
      | with_reducible assumption | with_reducible apply keeps_warmOp | with_reducible apply keeps_requestReset | with_reducible apply keeps_logEvent
      | split)

theorem keeps_execClkUnitReset {s0 : State} (unit : BitVec 32) {s : State} (hs : Keeps s0 s) : KeepsO s0 (execClkUnitReset unit s) := by
  unfold execClkUnitReset
  apply KeepsO.next
  repeat' (first | with_reducible assumption | with_reducible apply keeps_clkUnitResetOp)

theorem keeps_serveReset {s0 : State} (q : Packet) {s : State} (hs : Keeps s0 s) : Keeps s0 (serveReset q s) := by
  unfold serveReset
  repeat' (first
      | with_reducible assumption | with_reducible apply keeps_answer | with_reducible apply keeps_noteSensors | with_reducible apply keeps_warmReset
      | with_reducible apply keeps_requestReset | with_reducible apply keeps_logEvent | simp -proj only [Keeps.lit_iff] | split)

theorem keeps_execMcmdReset {s0 : State} (unit : BitVec 32) (src : Requester) (txid : BitVec 16) {s : State} (hs : Keeps s0 s) :
    KeepsO s0 (execMcmdReset unit src txid s) := by
  unfold execMcmdReset
  apply KeepsO.next
  repeat' (first
      | with_reducible assumption | with_reducible refine keeps_arrive _ _ _ (fun z0 z1 hz => ?_) ?_ | with_reducible apply keeps_serveReset | split)

theorem keeps_freeWakes {s0 : State} {s : State} (hs : Keeps s0 s) : Keeps s0 (freeWakes s) := by
  unfold freeWakes
  repeat' (first
      | with_reducible assumption | with_reducible refine Keeps.foldl (fun t x ht => ?_) _ ?_ | with_reducible apply Keeps.at
      | refine KeepsB.get' (keeps_unitGate _ _ ?_) (by assumption) | simp -proj only [Keeps.lit_iff] | split)

theorem keeps_execUnitResetDone {s0 : State} (unit : BitVec 32) {s : State} (hs : Keeps s0 s) : KeepsO s0 (execUnitResetDone unit s) := by
  unfold execUnitResetDone
  apply KeepsO.next
  repeat' (first
      | with_reducible assumption | with_reducible apply keeps_answer | with_reducible apply keeps_solvKickAll | with_reducible apply keeps_freeWakes
      | with_reducible refine Keeps.foldl (fun t x ht => ?_) _ ?_ | with_reducible apply Keeps.at | simp -proj only [Keeps.lit_iff] | split)

theorem keeps_kickOp {s0 : State} {s : State} (hs : Keeps s0 s) : Keeps s0 (kickOp s) := by
  unfold kickOp
  repeat' (first | with_reducible assumption | with_reducible apply Keeps.at | simp -proj only [Keeps.lit_iff] | split)

theorem keeps_execKick {s0 : State} {s : State} (hs : Keeps s0 s) : KeepsO s0 (execKick s) := by
  unfold execKick
  apply KeepsO.next
  repeat' (first | with_reducible assumption | with_reducible apply keeps_kickOp)

theorem keeps_wdogWrite {s0 : State} (v : Word) {s : State} (hs : Keeps s0 s) : Keeps s0 (wdogWrite v s) := by
  unfold wdogWrite
  repeat' (first
      | with_reducible assumption | with_reducible apply keeps_putB | with_reducible apply keeps_putF | with_reducible apply keeps_kickOp | split)

theorem keeps_execClkWdogWrite {s0 : State} (v : Word) {s : State} (hs : Keeps s0 s) : KeepsO s0 (execClkWdogWrite v s) := by
  unfold execClkWdogWrite
  apply KeepsO.next
  repeat' (first | with_reducible assumption | with_reducible apply keeps_wdogWrite | split)

theorem keeps_execWdogWarn {s0 : State} {s : State} (hs : Keeps s0 s) : KeepsO s0 (execWdogWarn s) := by
  unfold execWdogWarn
  apply KeepsO.next
  repeat' (first | with_reducible assumption | with_reducible apply keeps_stick | split)

theorem keeps_execWdogExpire {s0 : State} {s : State} (hs : Keeps s0 s) : KeepsO s0 (execWdogExpire s) := by
  unfold execWdogExpire
  apply KeepsO.next
  repeat' (first
      | with_reducible assumption | with_reducible apply keeps_noteSensors | with_reducible apply keeps_warmReset
      | with_reducible apply keeps_logEvent | split)

/-! Machine/Sleep.lean -/

theorem keeps_beginDrain {s0 : State} (n : Nat) {s : State} (hs : Keeps s0 s) : Keeps s0 (beginDrain n s) := by
  unfold beginDrain
  repeat' (first | with_reducible assumption | with_reducible apply keeps_modDom | split)

theorem keeps_enterSleep {s0 : State} (k : Nat) {s : State} (hs : Keeps s0 s) : Keeps s0 (enterSleep k s) := by
  unfold enterSleep
  repeat' (first
      | with_reducible assumption | with_reducible apply keeps_modPwr | with_reducible apply keeps_noteSensors
      | with_reducible apply keeps_beginDrain | with_reducible apply keeps_flushSets | with_reducible apply keeps_modBst
      | with_reducible refine Keeps.foldl (fun t x ht => ?_) _ ?_ | split)

theorem keeps_sleepReqOp {s0 : State} (k : Nat) {s : State} (hs : Keeps s0 s) : Keeps s0 (sleepReqOp k s) := by
  unfold sleepReqOp
  repeat' (first | with_reducible assumption | with_reducible apply keeps_enterSleep | with_reducible apply keeps_stick | split)

theorem keeps_execSleepReq {s0 : State} (req : BitVec 2) {s : State} (hs : Keeps s0 s) : KeepsO s0 (execSleepReq req s) := by
  unfold execSleepReq
  apply KeepsO.next
  repeat' (first | with_reducible assumption | with_reducible apply keeps_sleepReqOp)

theorem keeps_pewterDomains {s0 : State} {s : State} (hs : Keeps s0 s) : Keeps s0 (pewterDomains s) := by
  unfold pewterDomains
  repeat' (first
      | with_reducible assumption | with_reducible apply keeps_domainOff | with_reducible apply keeps_modDom | with_reducible apply keeps_modBst
      | with_reducible refine Keeps.foldl (fun t x ht => ?_) _ ?_ | split)

theorem keeps_execSleepEntryDone {s0 : State} {s : State} (hs : Keeps s0 s) : KeepsO s0 (execSleepEntryDone s) := by
  unfold execSleepEntryDone
  apply KeepsO.next
  repeat' (first
      | with_reducible assumption | with_reducible apply keeps_drainDone | with_reducible apply keeps_loseScratch
      | with_reducible apply keeps_emptyAll | with_reducible apply keeps_allOff | with_reducible apply keeps_pewterDomains
      | with_reducible apply keeps_modPwr | with_reducible apply keeps_beginExit | with_reducible apply keeps_noteSensors
      | with_reducible refine Keeps.foldl (fun t x ht => ?_) _ ?_ | split)

theorem keeps_execResume {s0 : State} {s : State} (hs : Keeps s0 s) : KeepsO s0 (execResume s) := by
  unfold execResume
  apply KeepsO.next
  repeat' (first | with_reducible assumption | with_reducible apply keeps_noteSensors | with_reducible apply keeps_wakeCause)

theorem keeps_execTimerWake {s0 : State} {s : State} (hs : Keeps s0 s) : KeepsO s0 (execTimerWake s) := by
  unfold execTimerWake
  apply KeepsO.next
  repeat' (first | with_reducible assumption | with_reducible apply keeps_noteSensors | with_reducible apply keeps_wakeCause | split)

theorem keeps_evidenceAfresh {s0 : State} {s : State} (hs : Keeps s0 s) : Keeps s0 (evidenceAfresh s) := by
  unfold evidenceAfresh
  repeat' (first | with_reducible assumption | with_reducible apply keeps_modCell)

theorem keeps_execWakeDone {s0 : State} {s : State} (hs : Keeps s0 s) : KeepsO s0 (execWakeDone s) := by
  unfold execWakeDone
  apply KeepsO.next
  repeat' (first
      | with_reducible assumption | with_reducible apply keeps_domainOn | with_reducible apply keeps_repairRows | with_reducible apply keeps_modPwr
      | with_reducible apply keeps_evidenceAfresh | with_reducible apply keeps_noteSensors | with_reducible apply keeps_stick
      | with_reducible apply keeps_collWake | with_reducible apply keeps_solvKickAll | with_reducible refine Keeps.foldl (fun t x ht => ?_) _ ?_
      | split)

theorem keeps_sendAsked {s0 : State} (kind : Nat) {s : State} (hs : Keeps s0 s) : Keeps s0 (sendAsked kind s) := by
  unfold sendAsked
  repeat' (first | with_reducible assumption | with_reducible apply keeps_sendRec | with_reducible refine Keeps.foldl (fun t x ht => ?_) _ ?_)

theorem keeps_leaveAgreement {s0 : State} {s : State} (hs : Keeps s0 s) : Keeps s0 (leaveAgreement s) := by
  unfold leaveAgreement
  repeat' (first
      | with_reducible assumption | with_reducible apply keeps_modPwr | with_reducible apply keeps_noteSensors | with_reducible apply keeps_wakeNow
      | split)

theorem keeps_agreeAbort {s0 : State} {s : State} (hs : Keeps s0 s) : Keeps s0 (agreeAbort s) := by
  unfold agreeAbort
  repeat' (first | with_reducible assumption | with_reducible apply keeps_leaveAgreement | with_reducible apply keeps_sendAsked)

theorem keeps_agreeCommit {s0 : State} {s : State} (hs : Keeps s0 s) : Keeps s0 (agreeCommit s) := by
  unfold agreeCommit
  repeat' (first
      | with_reducible assumption | with_reducible apply keeps_enterSleep | with_reducible apply keeps_modPwr | with_reducible apply keeps_sendAsked)

theorem keeps_execQuietTimeout {s0 : State} {s : State} (hs : Keeps s0 s) : KeepsO s0 (execQuietTimeout s) := by
  unfold execQuietTimeout
  apply KeepsO.next
  repeat' (first
      | with_reducible assumption | with_reducible apply keeps_modPwr | with_reducible apply keeps_enterSleep
      | with_reducible apply keeps_noteSensors | with_reducible apply keeps_agreeStart | with_reducible apply keeps_agreeCommit
      | simp -proj only [Keeps.lit_iff] | split)

theorem keeps_takePrepare {s0 : State} (rec : List Byte) {s : State} (hs : Keeps s0 s) : Keeps s0 (takePrepare rec s) := by
  unfold takePrepare
  repeat' (first
      | with_reducible assumption | with_reducible apply keeps_sendRec | with_reducible apply keeps_noteSensors | with_reducible apply keeps_modPwr
      | simp -proj only [Keeps.lit_iff] | split)

theorem keeps_execSleepPrepare {s0 : State} (rec : List Byte) {s : State} (hs : Keeps s0 s) : KeepsO s0 (execSleepPrepare rec s) := by
  unfold execSleepPrepare
  apply KeepsO.next
  repeat' (first | with_reducible assumption | with_reducible refine keeps_recTake _ _ (fun z0 hz => ?_) ?_ | with_reducible apply keeps_takePrepare)

theorem keeps_takeVote {s0 : State} (rec : List Byte) {s : State} (hs : Keeps s0 s) : Keeps s0 (takeVote rec s) := by
  unfold takeVote
  repeat' (first
      | with_reducible assumption | with_reducible apply keeps_agreeAbort | with_reducible apply keeps_modPwr
      | with_reducible apply keeps_agreeCommit | simp -proj only [Keeps.lit_iff] | split)

theorem keeps_execSleepVote {s0 : State} (rec : List Byte) {s : State} (hs : Keeps s0 s) : KeepsO s0 (execSleepVote rec s) := by
  unfold execSleepVote
  apply KeepsO.next
  repeat' (first | with_reducible assumption | with_reducible refine keeps_recTake _ _ (fun z0 hz => ?_) ?_ | with_reducible apply keeps_takeVote)

theorem keeps_takeCommit {s0 : State} (rec : List Byte) {s : State} (hs : Keeps s0 s) : Keeps s0 (takeCommit rec s) := by
  unfold takeCommit
  repeat' (first
      | with_reducible assumption | with_reducible apply keeps_enterSleep | with_reducible apply keeps_modPwr | simp -proj only [Keeps.lit_iff]
      | split)

theorem keeps_execSleepCommit {s0 : State} (rec : List Byte) {s : State} (hs : Keeps s0 s) : KeepsO s0 (execSleepCommit rec s) := by
  unfold execSleepCommit
  apply KeepsO.next
  repeat' (first | with_reducible assumption | with_reducible refine keeps_recTake _ _ (fun z0 hz => ?_) ?_ | with_reducible apply keeps_takeCommit)

theorem keeps_takeAbort {s0 : State} (rec : List Byte) {s : State} (hs : Keeps s0 s) : Keeps s0 (takeAbort rec s) := by
  unfold takeAbort
  repeat' (first
      | with_reducible assumption | with_reducible apply keeps_agreeAbort | with_reducible apply keeps_leaveAgreement
      | simp -proj only [Keeps.lit_iff] | split)

theorem keeps_execSleepAbort {s0 : State} (rec : List Byte) {s : State} (hs : Keeps s0 s) : KeepsO s0 (execSleepAbort rec s) := by
  unfold execSleepAbort
  apply KeepsO.next
  repeat' (first | with_reducible assumption | with_reducible refine keeps_recTake _ _ (fun z0 hz => ?_) ?_ | with_reducible apply keeps_takeAbort)

theorem keeps_execSleepVoteLimit {s0 : State} {s : State} (hs : Keeps s0 s) : KeepsO s0 (execSleepVoteLimit s) := by
  unfold execSleepVoteLimit
  apply KeepsO.next
  repeat' (first | with_reducible assumption | with_reducible apply keeps_agreeAbort | split)

theorem keeps_execSleepDecisionLimit {s0 : State} {s : State} (hs : Keeps s0 s) : KeepsO s0 (execSleepDecisionLimit s) := by
  unfold execSleepDecisionLimit
  apply KeepsO.next
  repeat' (first | with_reducible assumption | with_reducible apply keeps_stick | with_reducible apply keeps_leaveAgreement | split)

/-! Machine/Security.lean -/

theorem keeps_rotateOp {s0 : State} (k : Nat) {s : State} (hs : Keeps s0 s) : Keeps s0 (rotateOp k s) := by
  unfold rotateOp
  repeat' (first | assumption | apply keeps_stick | apply keeps_deriveSlot | apply Keeps.at | simp -proj only [Keeps.lit_iff] | split)

theorem keeps_execRotate {s0 : State} (k : Fin 65) {s : State} (hs : Keeps s0 s) : KeepsO s0 (execRotate k s) := by
  unfold execRotate
  apply KeepsO.next
  repeat' (first | assumption | apply keeps_rotateOp)

/-! Machine/HostOps.lean -/

theorem keeps_modHost {s0 : State} (f : HostSt → HostSt) {s : State} (hs : Keeps s0 s) : Keeps s0 (modHost f s) := by
  unfold modHost
  repeat' (first | assumption | apply Keeps.at | simp -proj only [Keeps.lit_iff])

theorem keeps_bar0Refuse {s0 : State} (off : Nat) (code : Byte) {s : State} (hs : Keeps s0 s) : Keeps s0 (bar0Refuse off code s) := by
  unfold bar0Refuse
  repeat' (first | assumption | apply keeps_putF | apply keeps_stick | apply keeps_logEvent)

theorem keeps_bar2Refuse {s0 : State} (off : Nat) (write : Bool) (code : Byte) {s : State} (hs : Keeps s0 s) :
    Keeps s0 (bar2Refuse off write code s) := by
  unfold bar2Refuse
  repeat' (first
      | assumption | apply keeps_putF | apply keeps_stick | apply keeps_logEvent | apply Keeps.at | simp -proj only [Keeps.lit_iff] | split)

theorem keeps_hostHold {s0 : State} (deferred : Bool) (a : HostAcc) {s : State} (hs : Keeps s0 s) : Keeps s0 (hostHold deferred a s) := by
  unfold hostHold
  repeat' (first | assumption | apply keeps_putEntry | apply keeps_modHost)

theorem keeps_hostWait {s0 : State} (a : HostAcc) {s : State} (hs : Keeps s0 s) : Keeps s0 (hostWait a s) := by
  unfold hostWait
  repeat' (first | assumption | apply keeps_hostHold)

theorem keeps_hostTake {s0 : State} (x : Nat) {s : State} (hs : Keeps s0 s) : Keeps s0 (hostTake x s) := by
  unfold hostTake
  repeat' (first | assumption | apply keeps_freeEntry | apply keeps_modHost)

theorem keeps_hostEnd {s0 : State} (a : HostAcc) (code : Byte) {s : State} (hs : Keeps s0 s) : Keeps s0 (hostEnd a code s) := by
  unfold hostEnd
  repeat' (first | assumption | apply keeps_bar2Refuse | apply keeps_bar0Refuse | apply Keeps.at | simp -proj only [Keeps.lit_iff] | split)

/-! Machine/Network.lean -/

theorem keeps_tileRefuse {s0 : State} (q : Packet) {s : State} (hs : Keeps s0 s) : KeepsS s0 (tileRefuse q s) := by
  unfold tileRefuse
  repeat' (first
      | with_reducible assumption | with_reducible exact KeepsS.none | with_reducible apply KeepsS.some | with_reducible apply keeps_unitRefuse
      | with_reducible apply keeps_answer | with_reducible apply keeps_logEvent | refine KeepsS.get (keeps_gateUnit _ _ ?_) (by assumption)
      | simp -proj only [Keeps.lit_iff] | split)

theorem keeps_serveRd {s0 : State} (q : Packet) {s : State} (hs : Keeps s0 s) : Keeps s0 (serveRd q s) := by
  unfold serveRd
  repeat' (first
      | with_reducible assumption | with_reducible apply keeps_answer | with_reducible apply keeps_touchRange
      | refine KeepsS.get (keeps_tileRefuse _ ?_) (by assumption) | split)

theorem keeps_serveWr {s0 : State} (q : Packet) (data : List Byte) {s : State} (hs : Keeps s0 s) : Keeps s0 (serveWr q data s) := by
  unfold serveWr
  repeat' (first
      | with_reducible assumption | with_reducible apply keeps_answer | with_reducible apply keeps_spWriteFlits
      | refine KeepsS.get (keeps_tileRefuse _ ?_) (by assumption) | split)

theorem keeps_execRd {s0 : State} (p : Packet) {s : State} (hs : Keeps s0 s) : KeepsO s0 (execRd p s) := by
  unfold execRd
  apply KeepsO.next
  repeat' (first
      | with_reducible assumption | with_reducible refine keeps_arrive _ _ _ (fun z0 z1 hz => ?_) ?_
      | with_reducible refine keeps_viaPort _ _ (fun z0 z1 hz => ?_) ?_ | with_reducible apply keeps_serveRd)

theorem keeps_execWr {s0 : State} (p : Packet) (data : List Byte) {s : State} (hs : Keeps s0 s) : KeepsO s0 (execWr p data s) := by
  unfold execWr
  apply KeepsO.next
  repeat' (first
      | with_reducible assumption | with_reducible refine keeps_arrive _ _ _ (fun z0 z1 hz => ?_) ?_
      | with_reducible refine keeps_viaPort _ _ (fun z0 z1 hz => ?_) ?_ | with_reducible apply keeps_serveWr)

theorem keeps_gatherAnswer {s0 : State} (p : Nat) (seq : Nat) (member : Nat) (dst : Nat) (e : NiEntry) (code : Byte) (data : List Byte)
    (poison : Nat) {s : State} (hs : Keeps s0 s) :
    Keeps s0 (gatherAnswer p seq member dst e code data poison s) := by
  unfold gatherAnswer
  repeat' (first
      | with_reducible assumption | with_reducible apply keeps_modRun | with_reducible apply keeps_spWriteFlits
      | with_reducible apply keeps_solvKickAll | with_reducible apply keeps_collNext | with_reducible apply keeps_collGo
      | with_reducible apply keeps_collEnd | split)

theorem keeps_streamAnswer {s0 : State} (n : Nat) (elem : Nat) (stream : Nat) (code : Byte) {s : State} (hs : Keeps s0 s) :
    Keeps s0 (streamAnswer n elem stream code s) := by
  unfold streamAnswer
  repeat' (first | with_reducible assumption | with_reducible apply keeps_stFinish | split)

theorem keeps_useAnswer {s0 : State} (n : Nat) (e : NiEntry) (code : Byte) (data : List Byte) (poison : Nat) {s : State} (hs : Keeps s0 s) :
    Keeps s0 (useAnswer n e code data poison s) := by
  unfold useAnswer
  repeat' (first
      | with_reducible assumption | with_reducible apply keeps_gatherAnswer | with_reducible apply keeps_solvKickAll
      | with_reducible apply keeps_collAnswer | with_reducible apply keeps_streamAnswer | split)

theorem keeps_entryFreed {s0 : State} (n : Nat) {s : State} (hs : Keeps s0 s) : Keeps s0 (entryFreed n s) := by
  unfold entryFreed
  repeat' (first
      | with_reducible assumption | with_reducible apply keeps_solvKickAll | with_reducible apply keeps_collWake
      | with_reducible apply keeps_linkRetake | split)

theorem keeps_deferEntry {s0 : State} (n : Nat) (x : Nat) (e : NiEntry) {s : State} (hs : Keeps s0 s) : Keeps s0 (deferEntry n x e s) := by
  unfold deferEntry
  repeat' (first | with_reducible assumption | with_reducible apply keeps_freeEntry | with_reducible apply keeps_putEntry | split)

theorem keeps_rspMatch {s0 : State} (p : Packet) (data : List Byte) {s : State} (hs : Keeps s0 s) : Keeps s0 (rspMatch p data s) := by
  unfold rspMatch
  repeat' (first
      | with_reducible assumption | with_reducible apply keeps_staleDrop | with_reducible apply keeps_entryFreed
      | with_reducible apply keeps_freeEntry | with_reducible apply keeps_linkRetake | with_reducible apply keeps_portRespond
      | with_reducible apply keeps_deferEntry | with_reducible apply keeps_useAnswer | simp -proj only [Keeps.lit_iff] | split)

theorem keeps_execRsp {s0 : State} (p : Packet) (data : List Byte) {s : State} (hs : Keeps s0 s) : KeepsO s0 (execRsp p data s) := by
  unfold execRsp
  apply KeepsO.next
  repeat' (first
      | with_reducible assumption | with_reducible apply keeps_countCorrected | with_reducible apply keeps_dropHeader
      | with_reducible apply keeps_rspMatch | simp -proj only [Keeps.lit_iff] | split)

theorem keeps_hostTimeout {s0 : State} (x : Nat) {s : State} (hs : Keeps s0 s) : Keeps s0 (hostTimeout x s) := by
  unfold hostTimeout
  repeat' (first | with_reducible assumption | with_reducible apply keeps_hostEnd | with_reducible apply keeps_modHost | split)

theorem keeps_useTimeout {s0 : State} (n : Nat) (x : Nat) (e : NiEntry) {s : State} (hs : Keeps s0 s) : Keeps s0 (useTimeout n x e s) := by
  unfold useTimeout
  repeat' (first
      | with_reducible assumption | with_reducible apply keeps_hostTimeout | with_reducible apply keeps_linkSend
      | with_reducible apply keeps_useAnswer | split)

theorem keeps_execNiTimeout {s0 : State} (st : Station) (txid : BitVec 16) {s : State} (hs : Keeps s0 s) : KeepsO s0 (execNiTimeout st txid s) := by
  unfold execNiTimeout
  apply KeepsO.next
  repeat' (first
      | with_reducible assumption | with_reducible apply keeps_nocEvent | with_reducible apply keeps_bump | with_reducible apply keeps_logEvent
      | with_reducible apply keeps_entryFreed | with_reducible apply keeps_useTimeout | with_reducible apply keeps_ownComplete | split)

/-! Machine/Registers.lean -/

theorem keeps_nocCtrlOp {s0 : State} (v : Word) {s : State} (hs : Keeps s0 s) : Keeps s0 (nocCtrlOp v s) := by
  unfold nocCtrlOp
  repeat' (first | with_reducible assumption | with_reducible apply keeps_putF)

theorem keeps_execNocCtrlWrite {s0 : State} (v : Word) {s : State} (hs : Keeps s0 s) : KeepsO s0 (execNocCtrlWrite v s) := by
  unfold execNocCtrlWrite
  apply KeepsO.next
  repeat' (first | with_reducible assumption | with_reducible apply keeps_nocCtrlOp)

theorem keeps_collCtrlOp {s0 : State} (v : Word) {s : State} (hs : Keeps s0 s) : Keeps s0 (collCtrlOp v s) := by
  unfold collCtrlOp
  repeat' (first | with_reducible assumption | with_reducible apply keeps_putB | with_reducible apply keeps_putF)

theorem keeps_execCollCtrlWrite {s0 : State} (v : Word) {s : State} (hs : Keeps s0 s) : KeepsO s0 (execCollCtrlWrite v s) := by
  unfold execCollCtrlWrite
  apply KeepsO.next
  repeat' (first | with_reducible assumption | with_reducible apply keeps_collCtrlOp)

theorem keeps_hostCtrlOp {s0 : State} (v : Word) {s : State} (hs : Keeps s0 s) : Keeps s0 (hostCtrlOp v s) := by
  unfold hostCtrlOp
  repeat' (first | with_reducible assumption | with_reducible apply keeps_putF)

theorem keeps_execHostCtrlWrite {s0 : State} (v : Word) {s : State} (hs : Keeps s0 s) : KeepsO s0 (execHostCtrlWrite v s) := by
  unfold execHostCtrlWrite
  apply KeepsO.next
  repeat' (first | with_reducible assumption | with_reducible apply keeps_hostCtrlOp)

theorem keeps_bar2BstOp {s0 : State} (v : Word) {s : State} (hs : Keeps s0 s) : Keeps s0 (bar2BstOp v s) := by
  unfold bar2BstOp
  repeat' (first | with_reducible assumption | with_reducible apply keeps_putF)

theorem keeps_execBar2BstWrite {s0 : State} (v : Word) {s : State} (hs : Keeps s0 s) : KeepsO s0 (execBar2BstWrite v s) := by
  unfold execBar2BstWrite
  apply KeepsO.next
  repeat' (first | with_reducible assumption | with_reducible apply keeps_bar2BstOp)

theorem keeps_imgWrite {s0 : State} (o : Nat) (v : Word) {s : State} (hs : Keeps s0 s) : Keeps s0 (imgWrite o v s) := by
  unfold imgWrite
  repeat' (first
      | with_reducible assumption | with_reducible apply keeps_tickFree | with_reducible apply keeps_imgStartOp
      | with_reducible apply keeps_imgAbortOp | with_reducible apply keeps_stopPart | with_reducible apply keeps_partRunOp
      | with_reducible apply keeps_imgStepOp | with_reducible apply keeps_writeStored | simp -proj only [Keeps.lit_iff] | split)

theorem keeps_pwrWrite {s0 : State} (o : Nat) (v : Word) {s : State} (hs : Keeps s0 s) : Keeps s0 (pwrWrite o v s) := by
  unfold pwrWrite
  repeat' (first
      | with_reducible assumption | with_reducible apply keeps_pwrCapOp | with_reducible apply keeps_thermClearOp
      | with_reducible apply keeps_sleepReqOp | with_reducible apply keeps_writeStored | with_reducible apply keeps_noteSensors
      | with_reducible apply keeps_wakeCause | with_reducible apply keeps_opMaxOp | split)

theorem keeps_ctlWrite {s0 : State} (o : Nat) (v : Word) {s : State} (hs : Keeps s0 s) : Keeps s0 (ctlWrite o v s) := by
  unfold ctlWrite
  repeat' (first
      | with_reducible assumption | with_reducible apply keeps_coldOp | with_reducible apply keeps_warmOp | with_reducible apply keeps_clkUnitResetOp
      | with_reducible apply keeps_wdogWrite | with_reducible apply keeps_writeStored | with_reducible apply keeps_rotateOp
      | with_reducible apply keeps_logPopWrite | split)

theorem keeps_tileWrite {s0 : State} (t : Nat) (o : Nat) (v : Word) {s : State} (hs : Keeps s0 s) : Keeps s0 (tileWrite t o v s) := by
  unfold tileWrite
  repeat' (first | with_reducible assumption | with_reducible apply keeps_placeFrees | with_reducible apply keeps_writeStored | split)

theorem keeps_writeReg {s0 : State} (o : Nat) (v : Word) {s : State} (hs : Keeps s0 s) : Keeps s0 (writeReg o v s) := by
  unfold writeReg
  repeat' (first
      | with_reducible assumption | with_reducible apply keeps_hostCtrlOp | with_reducible apply keeps_bar2BstOp
      | with_reducible apply keeps_cellStep | with_reducible apply keeps_writeStored | with_reducible apply keeps_imgWrite
      | with_reducible apply keeps_pwrWrite | with_reducible apply keeps_ctlWrite | with_reducible apply keeps_retrainPort
      | with_reducible apply keeps_collCtrlOp | with_reducible apply keeps_bstFlushWrite | with_reducible apply keeps_tileWrite
      | with_reducible apply keeps_nocCtrlOp | split)

theorem keeps_bar0Send {s0 : State} (way : Transit) (a : HostAcc) {f : State → State} {s : State} (hf : ∀ z0, Keeps s0 z0 → Keeps s0 (f z0))
    (hs : Keeps s0 s) :
    Keeps s0 (bar0Send way a f s) := by
  unfold bar0Send
  repeat' (first
      | with_reducible assumption | with_reducible apply keeps_countCorrected | with_reducible apply keeps_hostHold
      | with_reducible apply keeps_dropHeader | with_reducible apply hf | split)

theorem keeps_bar0Write {s0 : State} (off : Nat) (v : Word) {s : State} (hs : Keeps s0 s) : Keeps s0 (bar0Write off v s) := by
  unfold bar0Write
  repeat' (first
      | with_reducible assumption | with_reducible apply keeps_writeReg | with_reducible apply keeps_hostWait | with_reducible apply keeps_bar0Refuse
      | split)

theorem keeps_linkAccess {s0 : State} (q : Packet) {f : State → State × List Byte} {s : State} (hf : ∀ z0, Keeps s0 z0 → Keeps1 s0 (f z0))
    (hs : Keeps s0 s) :
    Keeps s0 (linkAccess q f s) := by
  unfold linkAccess
  repeat' (first
      | with_reducible assumption | with_reducible apply keeps_answer | with_reducible refine Keeps1.fst (hf _ ?_) | simp -proj only [Keeps.lit_iff]
      | split)

theorem keeps_linkWrite {s0 : State} (n x : Nat) {f : Nat → Word → State → State} {s : State} (hf : ∀ a v u, Keeps s0 u → Keeps s0 (f a v u))
    (hs : Keeps s0 s) : Keeps s0 (linkWrite n x f s) := by
  unfold linkWrite
  split
  · exact keeps_linkAccess _ (fun _ hu => hf _ _ _ hu) hs
  · exact hs

theorem keeps_linkRead {s0 : State} (n x : Nat) {s : State} (hs : Keeps s0 s) : Keeps s0 (linkRead n x s) := by
  unfold linkRead
  split
  · exact keeps_linkAccess _ (fun _ hu => hu) hs
  · exact hs

theorem keeps_execRegisterWrite {s0 : State} (acc : RegAccess) (v : Word) (ep : Bool) {s : State} (hs : Keeps s0 s) :
    KeepsO s0 (execRegisterWrite acc v ep s) := by
  unfold execRegisterWrite
  apply KeepsO.next
  repeat' (first
      | with_reducible assumption | with_reducible apply keeps_bar0Refuse | with_reducible refine keeps_bar0Send _ _ (fun z0 hz => ?_) ?_
      | with_reducible apply keeps_bar0Write | with_reducible refine keeps_linkWrite _ _ (fun z0 z1 z2 hz => ?_) ?_
      | with_reducible apply keeps_writeReg | with_reducible apply keeps_sysWrite | with_reducible apply Keeps.at | simp -proj only [Keeps.lit_iff]
      | split)

theorem keeps_counterClearOp {s0 : State} (off : Nat) (same : Nat) {s : State} (hs : Keeps s0 s) : Keeps s0 (counterClearOp off same s) := by
  unfold counterClearOp
  repeat' (first | with_reducible assumption | with_reducible apply keeps_putF | split)

theorem keeps_execCounterClear {s0 : State} (acc : RegAccess) (same : Nat) {s : State} (hs : Keeps s0 s) :
    KeepsO s0 (execCounterClear acc same s) := by
  unfold execCounterClear
  apply KeepsO.next
  repeat' (first
      | with_reducible assumption | with_reducible refine keeps_bar0Send _ _ (fun z0 hz => ?_) ?_ | with_reducible apply keeps_counterClearOp
      | with_reducible apply keeps_hostWait | with_reducible apply keeps_bar0Refuse
      | with_reducible refine keeps_linkWrite _ _ (fun z0 z1 z2 hz => ?_) ?_ | with_reducible apply Keeps.at | simp -proj only [Keeps.lit_iff]
      | split)

theorem keeps_bar0Read {s0 : State} (off : Nat) {s : State} (hs : Keeps s0 s) : Keeps s0 (bar0Read off s) := by
  unfold bar0Read
  repeat' (first
      | with_reducible assumption | with_reducible apply keeps_hostWait | with_reducible apply keeps_bar0Refuse | with_reducible apply Keeps.at
      | simp -proj only [Keeps.lit_iff] | split)

theorem keeps_execMrd {s0 : State} (acc : RegAccess) {s : State} (hs : Keeps s0 s) : KeepsO s0 (execMrd acc s) := by
  unfold execMrd
  apply KeepsO.next
  repeat' (first
      | with_reducible assumption | with_reducible refine keeps_bar0Send _ _ (fun z0 hz => ?_) ?_ | with_reducible apply keeps_bar0Read
      | with_reducible apply keeps_linkRead | with_reducible apply Keeps.at | simp -proj only [Keeps.lit_iff] | split)

theorem keeps_servePost {s0 : State} (q : Packet) {s : State} (hs : Keeps s0 s) : Keeps s0 (servePost q s) := by
  unfold servePost
  repeat' (first
      | with_reducible assumption | with_reducible apply keeps_collServe | with_reducible apply keeps_digServe | with_reducible apply keeps_solvServe
      | split)

theorem keeps_resend {s0 : State} (q : Packet) (data : List Byte) {s : State} (hs : Keeps s0 s) : Keeps s0 (resend q data s) := by
  unfold resend
  repeat' (first
      | with_reducible assumption | with_reducible refine keeps_arrive _ _ _ (fun z0 z1 hz => ?_) ?_
      | with_reducible refine keeps_viaPort _ _ (fun z0 z1 hz => ?_) ?_ | with_reducible apply keeps_serveRd | with_reducible apply keeps_serveWr
      | with_reducible apply keeps_serveCrd | with_reducible apply keeps_serveCwr | with_reducible apply keeps_serveBrd
      | with_reducible apply keeps_serveBwr | with_reducible apply keeps_servePost | with_reducible apply keeps_serveReset | split)

theorem keeps_execDeferRetry {s0 : State} (st : Station) (txid : BitVec 16) {s : State} (hs : Keeps s0 s) : KeepsO s0 (execDeferRetry st txid s) := by
  unfold execDeferRetry
  apply KeepsO.next
  repeat' (first
      | with_reducible assumption | with_reducible apply keeps_collDispatch | with_reducible apply keeps_putEntry | with_reducible apply keeps_resend
      | split)

/-! Machine/Host.lean -/

theorem keeps_cacheGate {s0 : State} (a : Nat) (n : Nat) {s : State} (hs : Keeps s0 s) : KeepsB s0 (cacheGate a n s) := by
  intro c k t h
  obtain ⟨i, -, hi⟩ := List.exists_of_findSome?_eq_some h
  split at hi
  · exact KeepsB.get (keeps_memGate _ _ hs) hi
  · cases hi

theorem keeps_hostBstRead {s0 : State} (a : Nat) (n : Nat) {s : State} (hs : Keeps s0 s) : Keeps1 s0 (hostBstRead a n s) := by
  unfold hostBstRead
  repeat' (first
      | with_reducible assumption | refine KeepsB.get' (keeps_cacheGate _ _ ?_) (by assumption)
      | with_reducible refine Keeps1.fst (keeps_bstRead _ _ _ _ ?_) | simp -proj only [Keeps.lit_iff] | split | with_reducible apply Keeps1.mk)

theorem keeps_hostSpRead {s0 : State} (x : Nat) (n : Nat) {s : State} (hs : Keeps s0 s) : Keeps1 s0 (hostSpRead x n s) := by
  unfold hostSpRead
  repeat' (first
      | with_reducible assumption | with_reducible apply keeps_touchRange | refine KeepsB.get' (keeps_unitGate _ _ ?_) (by assumption) | split
      | with_reducible apply Keeps1.mk)

theorem keeps_hostReadPiece {s0 : State} (x : Nat) (n : Nat) {s : State} (hs : Keeps s0 s) : Keeps1 s0 (hostReadPiece x n s) := by
  unfold hostReadPiece
  repeat' (first
      | with_reducible assumption | with_reducible apply keeps_hostBstRead | with_reducible refine Keeps1.fst (keeps_hostSpRead _ _ ?_) | split
      | with_reducible apply Keeps1.mk)

theorem keeps_hostBstWrite {s0 : State} (a : Nat) (bs : List Byte) (ep : Bool) {s : State} (hs : Keeps s0 s) :
    Keeps1 s0 (hostBstWrite a bs ep s) := by
  unfold hostBstWrite
  repeat' (first
      | with_reducible assumption | refine KeepsB.get' (keeps_cacheGate _ _ ?_) (by assumption)
      | with_reducible refine Keeps1.fst (keeps_bstWrite _ _ _ _ _ ?_) | simp -proj only [Keeps.lit_iff] | split | with_reducible apply Keeps1.mk)

theorem keeps_hostSpWrite {s0 : State} (x : Nat) (bs : List Byte) (ep : Bool) {s : State} (hs : Keeps s0 s) : Keeps1 s0 (hostSpWrite x bs ep s) := by
  unfold hostSpWrite
  repeat' (first
      | with_reducible assumption | with_reducible apply keeps_spWriteMarked | with_reducible apply keeps_spWrite
      | refine KeepsB.get' (keeps_unitGate _ _ ?_) (by assumption) | split | with_reducible apply Keeps1.mk)

theorem keeps_hostWritePiece {s0 : State} (x : Nat) (bs : List Byte) (ep : Bool) {s : State} (hs : Keeps s0 s) :
    Keeps1 s0 (hostWritePiece x bs ep s) := by
  unfold hostWritePiece
  repeat' (first
      | with_reducible assumption | with_reducible apply keeps_hostBstWrite | with_reducible refine Keeps1.fst (keeps_hostSpWrite _ _ _ ?_) | split
      | with_reducible apply Keeps1.mk)

theorem keeps_hostReadPieces {s0 : State} (off : Nat) (l : List (Nat × Nat)) {s : State} (hs : Keeps s0 s) :
    Keeps1 s0 (hostReadPieces off l s) := by
  induction l generalizing s with
  | nil => exact hs
  | cons p r ih =>
    have h := keeps_hostReadPiece (off + p.1) p.2 hs
    unfold hostReadPieces
    exact Keeps1.ite h (Keeps1.fst (ih h))

theorem keeps_hostWritePieces {s0 : State} (off : Nat) (data : List Byte) (ep : Bool) (k : Nat) (l : List (Nat × Nat)) {s : State}
    (hs : Keeps s0 s) : Keeps1 s0 (hostWritePieces off data ep k l s) := by
  induction l generalizing k s with
  | nil => exact hs
  | cons p r ih =>
    cases k with
    | zero => exact hs
    | succ k =>
      have h := fun k => Keeps1.fst (ih k (Keeps1.fst (keeps_hostWritePiece (off + p.1) ((data.drop p.1).take p.2) ep hs)))
      unfold hostWritePieces
      exact Keeps1.ite (h _) (Keeps1.ite (h _) (h _))

theorem keeps_bar2ReadOp {s0 : State} (a : HostAcc) {s : State} (hs : Keeps s0 s) : Keeps1 s0 (bar2ReadOp a s) := by
  unfold bar2ReadOp
  repeat' (first
      | with_reducible assumption | with_reducible apply keeps_bar2Refuse | with_reducible apply keeps_stick | with_reducible apply Keeps.at
      | with_reducible refine Keeps1.fst (keeps_hostReadPieces _ _ ?_) | simp -proj only [Keeps.lit_iff] | split | with_reducible apply Keeps1.mk)

theorem keeps_bar2WriteOp {s0 : State} (off : Nat) (data : List Byte) (ep : Bool) {s : State} (hs : Keeps s0 s) :
    Keeps s0 (bar2WriteOp off data ep s) := by
  unfold bar2WriteOp
  repeat' (first
      | with_reducible assumption | with_reducible apply keeps_bar2Refuse | with_reducible apply keeps_modHost | with_reducible apply keeps_hostWait
      | with_reducible refine Keeps.foldl (fun t x ht => ?_) _ ?_ | with_reducible refine Keeps1.fst (keeps_hostWritePieces _ _ _ _ _ ?_) | split)

theorem keeps_hostNext {s0 : State} {s : State} (hs : Keeps s0 s) : Keeps s0 (hostNext s) := by
  unfold hostNext
  repeat' (first | with_reducible assumption | with_reducible apply keeps_bar2WriteOp | with_reducible apply keeps_modHost | split)

theorem keeps_hostPump {s0 : State} {s : State} (hs : Keeps s0 s) : Keeps s0 (hostPump s) := by
  unfold hostPump
  repeat' (first | with_reducible assumption | with_reducible apply keeps_hostNext | with_reducible refine Keeps.foldl (fun t x ht => ?_) _ ?_)

theorem keeps_hostLost {s0 : State} (way : Transit) (a : HostAcc) {s : State} (hs : Keeps s0 s) : Keeps s0 (hostLost way a s) := by
  unfold hostLost
  repeat' (first | with_reducible assumption | with_reducible apply keeps_hostHold | with_reducible apply keeps_dropHeader)

theorem keeps_execBar2Read {s0 : State} (off : Nat) (read : Bar2Read) {s : State} (hs : Keeps s0 s) :
    KeepsO s0 (execBar2Read off read s) := by
  unfold execBar2Read
  apply KeepsO.next
  repeat' (first
      | with_reducible assumption | with_reducible apply keeps_countCorrected | with_reducible apply keeps_wakeCause
      | with_reducible apply keeps_hostLost | with_reducible apply keeps_hostWait | with_reducible refine Keeps1.fst (keeps_bar2ReadOp _ ?_)
      | simp -proj only [Keeps.lit_iff] | split)

theorem keeps_execBar2Write {s0 : State} (off : Nat) (data : List Byte) (mark : Bar2Mark) {s : State} (hs : Keeps s0 s) :
    KeepsO s0 (execBar2Write off data mark s) := by
  unfold execBar2Write
  apply KeepsO.next
  repeat' (first
      | with_reducible assumption | with_reducible apply keeps_countCorrected | with_reducible apply keeps_wakeCause
      | with_reducible apply keeps_bar2WriteOp | with_reducible apply keeps_hostLost | simp -proj only [Keeps.lit_iff] | split)

theorem keeps_execHostDeferRetry {s0 : State} (txid : BitVec 16) {s : State} (hs : Keeps s0 s) : KeepsO s0 (execHostDeferRetry txid s) := by
  unfold execHostDeferRetry
  apply KeepsO.next
  repeat' (first
      | with_reducible assumption | with_reducible apply keeps_hostPump | with_reducible apply keeps_hostTake | with_reducible apply keeps_bar2Refuse
      | with_reducible apply keeps_modHost | with_reducible apply keeps_bar0Refuse | with_reducible apply keeps_writeReg
      | with_reducible apply Keeps.at | with_reducible refine Keeps1.fst (keeps_hostWritePieces _ _ _ _ _ ?_)
      | with_reducible refine Keeps1.fst (keeps_bar2ReadOp _ ?_) | simp -proj only [Keeps.lit_iff] | split)

theorem keeps_execHostRetryLimit {s0 : State} (txid : BitVec 16) {s : State} (hs : Keeps s0 s) : KeepsO s0 (execHostRetryLimit txid s) := by
  unfold execHostRetryLimit
  apply KeepsO.next
  repeat' (first
      | with_reducible assumption | with_reducible apply keeps_hostPump | with_reducible apply keeps_hostEnd | with_reducible apply keeps_hostTake
      | split)

theorem keeps_execHostIrq {s0 : State} (t : Tile) (vec : BitVec 5) {s : State} (hs : Keeps s0 s) : KeepsO s0 (execHostIrq t vec s) := by
  unfold execHostIrq
  apply KeepsO.next
  repeat' (first | with_reducible assumption | with_reducible apply keeps_hostIrqOp)

theorem keeps_execMsixUnmask {s0 : State} (vec : BitVec 11) {s : State} (hs : Keeps s0 s) : KeepsO s0 (execMsixUnmask vec s) := by
  unfold execMsixUnmask
  apply KeepsO.next
  repeat' (first | with_reducible assumption | with_reducible apply keeps_sendVec | with_reducible apply keeps_modHost)

theorem keeps_ltrReq {s0 : State} {s : State} (hs : Keeps s0 s) : Keeps s0 (ltrReq s) := by
  unfold ltrReq
  repeat' (first | with_reducible assumption | with_reducible apply keeps_putB)

theorem keeps_execLtrWrite {s0 : State} (v : BitVec 16) {s : State} (hs : Keeps s0 s) : KeepsO s0 (execLtrWrite v s) := by
  unfold execLtrWrite
  apply KeepsO.next
  repeat' (first
      | with_reducible assumption | with_reducible apply keeps_ltrReq | with_reducible apply keeps_putF | with_reducible apply keeps_modHost)

theorem keeps_execLtrEnable {s0 : State} {s : State} (hs : Keeps s0 s) : KeepsO s0 (execLtrEnable s) := by
  unfold execLtrEnable
  apply KeepsO.next
  repeat' (first
      | with_reducible assumption | with_reducible apply keeps_ltrReq | with_reducible apply keeps_modHost | with_reducible apply Keeps.at
      | simp -proj only [Keeps.lit_iff] | split)

theorem keeps_execDlUp {s0 : State} {s : State} (hs : Keeps s0 s) : KeepsO s0 (execDlUp s) := by
  unfold execDlUp
  apply KeepsO.next
  repeat' (first
      | with_reducible assumption | with_reducible apply keeps_putF | with_reducible apply keeps_putB | with_reducible apply keeps_modHost | split)

theorem keeps_linkDown {s0 : State} {s : State} (hs : Keeps s0 s) : Keeps s0 (linkDown s) := by
  unfold linkDown
  repeat' (first | with_reducible assumption | with_reducible apply keeps_hostReset | with_reducible apply keeps_stick | split)

theorem keeps_execDlDown {s0 : State} {s : State} (hs : Keeps s0 s) : KeepsO s0 (execDlDown s) := by
  unfold execDlDown
  apply KeepsO.next
  repeat' (first | with_reducible assumption | with_reducible apply keeps_linkDown)

theorem keeps_execPerstAssert {s0 : State} {s : State} (hs : Keeps s0 s) : KeepsO s0 (execPerstAssert s) := by
  unfold execPerstAssert
  apply KeepsO.next
  repeat' (first
      | with_reducible assumption | with_reducible apply keeps_hostReset | with_reducible apply keeps_linkDown | with_reducible apply Keeps.at
      | simp -proj only [Keeps.lit_iff])

theorem keeps_execPerstDeassert {s0 : State} {s : State} (hs : Keeps s0 s) : KeepsO s0 (execPerstDeassert s) := by
  unfold execPerstDeassert
  apply KeepsO.next
  repeat' (first | with_reducible assumption | with_reducible apply Keeps.at | simp -proj only [Keeps.lit_iff])

theorem keeps_execD3hot {s0 : State} {s : State} (hs : Keeps s0 s) : KeepsO s0 (execD3hot s) := by
  unfold execD3hot
  apply KeepsO.next
  repeat' (first | with_reducible assumption | with_reducible apply keeps_modHost)

theorem keeps_execD0 {s0 : State} {s : State} (hs : Keeps s0 s) : KeepsO s0 (execD0 s) := by
  unfold execD0
  apply KeepsO.next
  repeat' (first | with_reducible assumption | with_reducible apply keeps_modHost)

theorem keeps_execPmeTurnOff {s0 : State} {s : State} (hs : Keeps s0 s) : KeepsO s0 (execPmeTurnOff s) := by
  unfold execPmeTurnOff
  apply KeepsO.next
  repeat' (first | with_reducible assumption | with_reducible apply keeps_modHost | split)

/-! Machine/Idle.lean -/

theorem keeps_wdogTick {s0 : State} (p : Nat) {s : State} (hs : Keeps s0 s) : Keeps s0 (wdogTick p s) := by
  unfold wdogTick
  repeat' (first | assumption | apply keeps_modCore | refine Keeps.foldl (fun t x ht => ?_) _ ?_ | split)

theorem keeps_clklowTick {s0 : State} (p : Nat) {s : State} (hs : Keeps s0 s) : Keeps s0 (clklowTick p s) := by
  unfold clklowTick
  repeat' (first | assumption | apply keeps_bump | simp -proj only [Keeps.lit_iff] | split)

theorem keeps_onTiles {s0 : State} (d : Nat) (f : Nat → TileSt → TileSt) {s : State} (hs : Keeps s0 s) : Keeps s0 (onTiles d f s) := by
  unfold onTiles
  repeat' (first | assumption | apply keeps_modTile | refine Keeps.foldl (fun t x ht => ?_) _ ?_ | split)

theorem keeps_pllEdge {s0 : State} (d : Nat) (pll : Nat) {s : State} (hs : Keeps s0 s) : Keeps s0 (pllEdge d pll s) := by
  unfold pllEdge
  repeat' (first | assumption | apply keeps_onTiles | split)

theorem keeps_putPll {s0 : State} (d : Nat) (x : PllSt) {s : State} (hs : Keeps s0 s) : Keeps s0 (putPll d x s) := by
  unfold putPll
  repeat' (first | assumption | apply Keeps.at | simp -proj only [Keeps.lit_iff])

theorem keeps_pllTick {s0 : State} (d : Nat) {s : State} (hs : Keeps s0 s) : Keeps s0 (pllTick d s) := by
  unfold pllTick
  repeat' (first
      | assumption | apply keeps_putPll | apply keeps_pllEdge | apply keeps_onTiles | refine Keeps.foldl (fun t x ht => ?_) _ ?_
      | simp -proj only [Keeps.lit_iff] | split)

theorem keeps_clockTick {s0 : State} {s : State} (hs : Keeps s0 s) : Keeps s0 (clockTick s) := by
  unfold clockTick
  repeat' (first | assumption | apply keeps_pllTick | refine Keeps.foldl (fun t x ht => ?_) _ ?_)

theorem keeps_advance {s0 : State} {s : State} (hs : Keeps s0 s) : Keeps s0 (advance s) := by
  unfold advance
  repeat' (first
      | with_reducible assumption | with_reducible apply keeps_clklowTick | with_reducible apply keeps_wdogTick
      | with_reducible refine Keeps.foldl (fun t x ht => ?_) _ ?_ | with_reducible apply Keeps.at | simp -proj only [Keeps.lit_iff])

theorem keeps_countTick {s0 : State} {s : State} (hs : Keeps s0 s) : Keeps s0 (countTick s) := by
  unfold countTick
  repeat' (first
      | with_reducible assumption | with_reducible apply keeps_advance | with_reducible apply Keeps.at | simp -proj only [Keeps.lit_iff] | split)

theorem keeps_waitTick {s0 : State} {s : State} (hs : Keeps s0 s) : Keeps s0 (waitTick s) := by
  unfold waitTick
  repeat' (first
      | with_reducible assumption | with_reducible apply keeps_collWake | with_reducible apply keeps_hostPump | with_reducible apply keeps_portPump
      | with_reducible apply keeps_recPump | with_reducible refine Keeps.foldl (fun t x ht => ?_) _ ?_)

theorem keeps_idleTick {s0 : State} {s : State} (hs : Keeps s0 s) : Keeps s0 (idleTick s) := by
  unfold idleTick
  repeat' (first
      | with_reducible assumption | with_reducible apply keeps_waitTick | with_reducible apply keeps_quietTick | with_reducible apply keeps_countTick
      | with_reducible apply keeps_clockTick | with_reducible apply Keeps.at | simp -proj only [Keeps.lit_iff] | split)

/-! Machine/Management.lean -/

theorem keeps_execEntdaa {s0 : State} (addr : BitVec 7) {s : State} (hs : Keeps s0 s) : KeepsO s0 (execEntdaa addr s) := by
  unfold execEntdaa
  apply KeepsO.next
  repeat' (first | with_reducible assumption | with_reducible apply keeps_modMgt | split)

theorem keeps_execSetdasa {s0 : State} (static : BitVec 7) (dynamic : BitVec 7) {s : State} (hs : Keeps s0 s) :
    KeepsO s0 (execSetdasa static dynamic s) := by
  unfold execSetdasa
  apply KeepsO.next
  repeat' (first | with_reducible assumption | with_reducible apply keeps_modMgt | split)

theorem keeps_ctlReply {s0 : State} (cmd : Nat) (cc : Nat) (data : List Byte) {s : State} (hs : Keeps s0 s) : Keeps s0 (ctlReply cmd cc data s) := by
  unfold ctlReply
  repeat' (first | with_reducible assumption | with_reducible apply keeps_mgmtReply)

theorem keeps_execSetEndpointId {s0 : State} (eid : Byte) {s : State} (hs : Keeps s0 s) : KeepsO s0 (execSetEndpointId eid s) := by
  unfold execSetEndpointId
  apply KeepsO.next
  repeat' (first | with_reducible assumption | with_reducible apply keeps_ctlReply | with_reducible apply keeps_modMgt | split)

theorem keeps_execGetEndpointId {s0 : State} {s : State} (hs : Keeps s0 s) : KeepsO s0 (execGetEndpointId s) := by
  unfold execGetEndpointId
  apply KeepsO.next
  repeat' (first | with_reducible assumption | with_reducible apply keeps_ctlReply | split)

theorem keeps_execGetMctpVersionSupport {s0 : State} {s : State} (hs : Keeps s0 s) : KeepsO s0 (execGetMctpVersionSupport s) := by
  unfold execGetMctpVersionSupport
  apply KeepsO.next
  repeat' (first | with_reducible assumption | with_reducible apply keeps_ctlReply | split)

theorem keeps_execGetMessageTypeSupport {s0 : State} {s : State} (hs : Keeps s0 s) : KeepsO s0 (execGetMessageTypeSupport s) := by
  unfold execGetMessageTypeSupport
  apply KeepsO.next
  repeat' (first | with_reducible assumption | with_reducible apply keeps_ctlReply | split)

theorem keeps_execGetVendorDefinedMsgSupport {s0 : State} {s : State} (hs : Keeps s0 s) : KeepsO s0 (execGetVendorDefinedMsgSupport s) := by
  unfold execGetVendorDefinedMsgSupport
  apply KeepsO.next
  repeat' (first | with_reducible assumption | with_reducible apply keeps_ctlReply | split)

theorem keeps_bmcReset {s0 : State} (cold : Bool) {s : State} (hs : Keeps s0 s) : Keeps s0 (bmcReset cold s) := by
  unfold bmcReset
  repeat' (first
      | with_reducible assumption | with_reducible apply keeps_noteSensors | with_reducible apply keeps_coldReset
      | with_reducible apply keeps_warmReset | split)

theorem keeps_execReset {s0 : State} (kind : Byte) {s : State} (hs : Keeps s0 s) : KeepsO s0 (execReset kind s) := by
  unfold execReset
  apply KeepsO.next
  repeat' (first | with_reducible assumption | with_reducible apply keeps_vdmReply | with_reducible apply keeps_bmcReset | split)

theorem keeps_execWdogKick {s0 : State} {s : State} (hs : Keeps s0 s) : KeepsO s0 (execWdogKick s) := by
  unfold execWdogKick
  apply KeepsO.next
  repeat' (first | with_reducible assumption | with_reducible apply keeps_vdmReply | with_reducible apply keeps_kickOp | split)

theorem keeps_setLimit {s0 : State} (w : Nat) {s : State} (hs : Keeps s0 s) : KeepsS s0 (setLimit w s) := by
  unfold setLimit
  repeat' (first
      | with_reducible assumption | with_reducible exact KeepsS.none | with_reducible apply KeepsS.some | with_reducible apply keeps_noteSensors
      | with_reducible apply keeps_modPwr | split)

theorem keeps_execSetBoardLimit {s0 : State} (w : BitVec 16) {s : State} (hs : Keeps s0 s) : KeepsO s0 (execSetBoardLimit w s) := by
  unfold execSetBoardLimit
  apply KeepsO.next
  repeat' (first | with_reducible assumption | with_reducible apply keeps_vdmReply | refine KeepsS.get (keeps_setLimit _ ?_) (by assumption) | split)

theorem keeps_noteOverrun {s0 : State} (n : Nat) {s : State} (hs : Keeps s0 s) : Keeps s0 (noteOverrun n s) := by
  unfold noteOverrun
  repeat' (first
      | with_reducible assumption | with_reducible apply keeps_putF | with_reducible apply keeps_logEvent | with_reducible apply keeps_putB | split)

theorem keeps_wakeRequest {s0 : State} {s : State} (hs : Keeps s0 s) : Keeps s0 (wakeRequest s) := by
  unfold wakeRequest
  repeat' (first
      | with_reducible assumption | with_reducible apply keeps_noteOverrun | with_reducible apply keeps_wakeCause | with_reducible apply Keeps.at
      | simp -proj only [Keeps.lit_iff] | split)

theorem keeps_execWake {s0 : State} {s : State} (hs : Keeps s0 s) : KeepsO s0 (execWake s) := by
  unfold execWake
  apply KeepsO.next
  repeat' (first
      | with_reducible assumption | with_reducible apply keeps_vdmReply | with_reducible apply keeps_noteSensors
      | with_reducible apply keeps_wakeRequest | split)

theorem keeps_execRegRead {s0 : State} (off : BitVec 32) {s : State} (hs : Keeps s0 s) : KeepsO s0 (execRegRead off s) := by
  unfold execRegRead
  apply KeepsO.next
  repeat' (first | with_reducible assumption | with_reducible apply keeps_vdmReply | split)

theorem keeps_execRegWrite {s0 : State} (off : BitVec 32) (v : Word) {s : State} (hs : Keeps s0 s) : KeepsO s0 (execRegWrite off v s) := by
  unfold execRegWrite
  apply KeepsO.next
  repeat' (first | with_reducible assumption | with_reducible apply keeps_vdmReply | with_reducible apply keeps_writeReg | split)

theorem keeps_securedCmd {s0 : State} (cmd : Nat) (secured : Bool) {f : State → Nat × State} {s : State} (hf : ∀ z0, Keeps s0 z0 → Keeps s0
    (f z0).2) (hs : Keeps s0 s) :
    Keeps s0 (securedCmd cmd secured f s) := by
  unfold securedCmd
  repeat' (first | with_reducible assumption | with_reducible apply keeps_vdmReply | with_reducible apply hf | split)

theorem keeps_fabricKeyOp {s0 : State} (id : Nat) (key : List Byte) {s : State} (hs : Keeps s0 s) : Keeps2 s0 (fabricKeyOp id key s) := by
  unfold fabricKeyOp
  repeat' (first
      | with_reducible assumption | with_reducible apply Keeps.at | simp -proj only [Keeps.lit_iff] | split | with_reducible apply Keeps2.mk)

theorem keeps_execFabricKey {s0 : State} (secured : Bool) (id : BitVec 32) (key : List Byte) {s : State} (hs : Keeps s0 s) :
    KeepsO s0 (execFabricKey secured id key s) := by
  unfold execFabricKey
  apply KeepsO.next
  repeat' (first
      | with_reducible assumption | with_reducible refine keeps_securedCmd _ _ (fun z0 hz => ?_) ?_
      | with_reducible refine Keeps2.snd (keeps_fabricKeyOp _ _ ?_))

theorem keeps_keyInstallOp {s0 : State} (slot : Nat) (key : List Byte) {s : State} (hs : Keeps s0 s) : Keeps2 s0 (keyInstallOp slot key s) := by
  unfold keyInstallOp
  repeat' (first
      | with_reducible assumption | with_reducible apply Keeps.at | simp -proj only [Keeps.lit_iff] | split | with_reducible apply Keeps2.mk)

theorem keeps_execKeyInstall {s0 : State} (secured : Bool) (slot : Byte) (key : List Byte) {s : State} (hs : Keeps s0 s) :
    KeepsO s0 (execKeyInstall secured slot key s) := by
  unfold execKeyInstall
  apply KeepsO.next
  repeat' (first
      | with_reducible assumption | with_reducible refine keeps_securedCmd _ _ (fun z0 hz => ?_) ?_
      | with_reducible refine Keeps2.snd (keeps_keyInstallOp _ _ ?_))

theorem keeps_ownerFuseOp {s0 : State} (slot : Nat) (hash : List Byte) {s : State} (hs : Keeps s0 s) : Keeps2 s0 (ownerFuseOp slot hash s) := by
  unfold ownerFuseOp
  exact Keeps2.ite hs (Keeps2.ite hs (Keeps.burn _ hs rfl rfl (Nat.le_refl _) (Nat.le_refl _)))

theorem keeps_execOwnerFuse {s0 : State} (secured : Bool) (slot : Byte) (hash : List Byte) {s : State} (hs : Keeps s0 s) :
    KeepsO s0 (execOwnerFuse secured slot hash s) := by
  unfold execOwnerFuse
  apply KeepsO.next
  repeat' (first
      | with_reducible assumption | with_reducible refine keeps_securedCmd _ _ (fun z0 hz => ?_) ?_
      | with_reducible refine Keeps2.snd (keeps_ownerFuseOp _ _ ?_))

theorem keeps_svnAdvanceOp {s0 : State} (which : Nat) {s : State} (hs : Keeps s0 s) : Keeps2 s0 (svnAdvanceOp which s) := by
  unfold svnAdvanceOp
  split
  · exact Keeps.burn _ hs rfl rfl (Nat.le_max_left _ _) (Nat.le_refl _)
  · exact Keeps2.ite hs (Keeps.burn _ hs rfl rfl (Nat.le_refl _) (Nat.le_max_left _ _))
  · exact hs

theorem keeps_execSvnAdvance {s0 : State} (secured : Bool) (which : Byte) {s : State} (hs : Keeps s0 s) :
    KeepsO s0 (execSvnAdvance secured which s) := by
  unfold execSvnAdvance
  apply KeepsO.next
  repeat' (first
      | with_reducible assumption | with_reducible refine keeps_securedCmd _ _ (fun z0 hz => ?_) ?_
      | with_reducible refine Keeps2.snd (keeps_svnAdvanceOp _ ?_))

/-! Machine/Pldm.lean -/

theorem keeps_pldmReply {s0 : State} (type : Nat) (cmd : Nat) (cc : Nat) (data : List Byte) {s : State} (hs : Keeps s0 s) :
    Keeps s0 (pldmReply type cmd cc data s) := by
  unfold pldmReply
  repeat' (first | assumption | apply keeps_mgmtReply)

theorem keeps_execGetTid {s0 : State} {s : State} (hs : Keeps s0 s) : KeepsO s0 (execGetTid s) := by
  unfold execGetTid
  apply KeepsO.next
  repeat' (first | assumption | apply keeps_pldmReply | split)

theorem keeps_execSetTid {s0 : State} (tid : Byte) {s : State} (hs : Keeps s0 s) : KeepsO s0 (execSetTid tid s) := by
  unfold execSetTid
  apply KeepsO.next
  repeat' (first | assumption | apply keeps_pldmReply | apply keeps_modMgt | split)

theorem keeps_execGetPldmVersion {s0 : State} (type : Byte) {s : State} (hs : Keeps s0 s) : KeepsO s0 (execGetPldmVersion type s) := by
  unfold execGetPldmVersion
  apply KeepsO.next
  repeat' (first | assumption | apply keeps_pldmReply | split)

theorem keeps_execGetPldmTypes {s0 : State} {s : State} (hs : Keeps s0 s) : KeepsO s0 (execGetPldmTypes s) := by
  unfold execGetPldmTypes
  apply KeepsO.next
  repeat' (first | assumption | apply keeps_pldmReply | split)

theorem keeps_execGetPldmCommands {s0 : State} (type : Byte) {s : State} (hs : Keeps s0 s) : KeepsO s0 (execGetPldmCommands type s) := by
  unfold execGetPldmCommands
  apply KeepsO.next
  repeat' (first | assumption | apply keeps_pldmReply | split)

theorem keeps_execGetPdr {s0 : State} (handle : BitVec 32) {s : State} (hs : Keeps s0 s) : KeepsO s0 (execGetPdr handle s) := by
  unfold execGetPdr
  apply KeepsO.next
  repeat' (first | assumption | apply keeps_pldmReply | simp -proj only [Keeps.lit_iff] | split)

theorem keeps_execGetSensorReading {s0 : State} (id : Nat) {s : State} (hs : Keeps s0 s) : KeepsO s0 (execGetSensorReading id s) := by
  unfold execGetSensorReading
  apply KeepsO.next
  repeat' (first | assumption | apply keeps_pldmReply | split)

theorem keeps_execGetStateSensorReadings {s0 : State} (id : Nat) {s : State} (hs : Keeps s0 s) : KeepsO s0 (execGetStateSensorReadings id s) := by
  unfold execGetStateSensorReadings
  apply KeepsO.next
  repeat' (first | assumption | apply keeps_pldmReply | split)

theorem keeps_execSetNumericEffecterValue {s0 : State} (id : Nat) (v : BitVec 16) {s : State} (hs : Keeps s0 s) :
    KeepsO s0 (execSetNumericEffecterValue id v s) := by
  unfold execSetNumericEffecterValue
  have hl : KeepsS s0 (if id = 1 then setLimit v.toNat s else none) := KeepsS.ite (keeps_setLimit _ hs) KeepsS.none
  apply KeepsO.next
  refine Keeps.ite hs ?_
  split
  · rename_i t e; exact keeps_pldmReply _ _ _ _ (KeepsS.get hl e)
  · exact keeps_pldmReply _ _ _ _ hs

theorem keeps_execGetNumericEffecterValue {s0 : State} (id : Nat) {s : State} (hs : Keeps s0 s) : KeepsO s0 (execGetNumericEffecterValue id s) := by
  unfold execGetNumericEffecterValue
  apply KeepsO.next
  repeat' (first | assumption | apply keeps_pldmReply | split)

theorem keeps_execSetEventReceiver {s0 : State} (eid : Byte) {s : State} (hs : Keeps s0 s) : KeepsO s0 (execSetEventReceiver eid s) := by
  unfold execSetEventReceiver
  apply KeepsO.next
  repeat' (first | assumption | apply keeps_pldmReply | apply keeps_modMgt | split)

theorem keeps_execPlatformEventAck {s0 : State} (id : Nat) {s : State} (hs : Keeps s0 s) : KeepsO s0 (execPlatformEventAck id s) := by
  unfold execPlatformEventAck
  apply KeepsO.next
  repeat' (first | assumption | apply keeps_modMgt | split)

theorem keeps_execPldmEventRetry {s0 : State} (id : Nat) {s : State} (hs : Keeps s0 s) : KeepsO s0 (execPldmEventRetry id s) := by
  unfold execPldmEventRetry
  apply KeepsO.next
  repeat' (first | assumption | apply keeps_modMgt | apply Keeps.at | simp -proj only [Keeps.lit_iff] | split)

theorem keeps_putComp {s0 : State} (c : Nat) (b : List Byte) {s : State} (hs : Keeps s0 s) : Keeps s0 (putComp c b s) := by
  unfold putComp
  repeat' (first | assumption | apply Keeps.at | simp -proj only [Keeps.lit_iff])

theorem keeps_execRequestFirmwareData {s0 : State} (comp : BitVec 16) (block : List Byte) {s : State} (hs : Keeps s0 s) :
    KeepsO s0 (execRequestFirmwareData comp block s) := by
  unfold execRequestFirmwareData
  apply KeepsO.next
  repeat' (first | assumption | apply keeps_modMgt | apply keeps_putComp | simp -proj only [Keeps.lit_iff] | split)

theorem keeps_execFirmwareVerify {s0 : State} {s : State} (hs : Keeps s0 s) : KeepsO s0 (execFirmwareVerify s) := by
  unfold execFirmwareVerify
  apply KeepsO.next
  repeat' (first | assumption | apply keeps_pldmReply | apply keeps_modMgt | split)

theorem keeps_execActivateFirmware {s0 : State} {s : State} (hs : Keeps s0 s) : KeepsO s0 (execActivateFirmware s) := by
  unfold execActivateFirmware
  apply KeepsO.next
  repeat' (first | assumption | apply keeps_pldmReply | apply keeps_modMgt | apply Keeps.at | simp -proj only [Keeps.lit_iff] | split)

/-! Machine/Scratchpad.lean -/

theorem keeps_execScrubRead {s0 : State} (t : Tile) {s : State} (hs : Keeps s0 s) : KeepsO s0 (execScrubRead t s) := by
  unfold execScrubRead
  apply KeepsO.next
  repeat' (first | assumption | apply keeps_modTile | apply keeps_touchWords)

theorem keeps_execScrubWrite {s0 : State} (t : Tile) {s : State} (hs : Keeps s0 s) : KeepsO s0 (execScrubWrite t s) := by
  unfold execScrubWrite
  apply KeepsO.next
  repeat' (first | assumption | apply keeps_modTile | apply keeps_cleanWord | split)

/-! Machine/Spdm.lean -/

theorem keeps_spdmReply {s0 : State} (path : SpdmPath) (body : List Byte) {s : State} (hs : Keeps s0 s) : Keeps s0 (spdmReply path body s) := by
  unfold spdmReply
  repeat' (first | assumption | apply keeps_mgmtReply | apply Keeps.at | simp -proj only [Keeps.lit_iff] | split)

theorem keeps_spdmError {s0 : State} (path : SpdmPath) (code : Nat) {s : State} (hs : Keeps s0 s) : Keeps s0 (spdmError path code s) := by
  unfold spdmError
  repeat' (first | assumption | apply keeps_spdmReply)

theorem keeps_serveSpdm {s0 : State} (path : SpdmPath) {f : State → State} {s : State} (hf : ∀ z0, Keeps s0 z0 → Keeps s0 (f z0)) (hs : Keeps s0 s) :
    Keeps s0 (serveSpdm path f s) := by
  unfold serveSpdm
  repeat' (first | assumption | apply hf | split)

theorem keeps_execGetVersion {s0 : State} (path : SpdmPath) {s : State} (hs : Keeps s0 s) : KeepsO s0 (execGetVersion path s) := by
  unfold execGetVersion
  apply KeepsO.next
  repeat' (first | assumption | refine keeps_serveSpdm _ (fun z0 hz => ?_) ?_ | apply keeps_spdmReply)

theorem keeps_execGetCapabilities {s0 : State} (path : SpdmPath) {s : State} (hs : Keeps s0 s) : KeepsO s0 (execGetCapabilities path s) := by
  unfold execGetCapabilities
  apply KeepsO.next
  repeat' (first | assumption | refine keeps_serveSpdm _ (fun z0 hz => ?_) ?_ | apply keeps_spdmReply)

theorem keeps_execNegotiateAlgorithms {s0 : State} (path : SpdmPath) (algs : List Byte) {s : State} (hs : Keeps s0 s) :
    KeepsO s0 (execNegotiateAlgorithms path algs s) := by
  unfold execNegotiateAlgorithms
  apply KeepsO.next
  repeat' (first
      | assumption | refine keeps_serveSpdm _ (fun z0 hz => ?_) ?_ | apply keeps_spdmReply | apply Keeps.at | simp -proj only [Keeps.lit_iff])

theorem keeps_execGetDigests {s0 : State} (path : SpdmPath) {s : State} (hs : Keeps s0 s) : KeepsO s0 (execGetDigests path s) := by
  unfold execGetDigests
  apply KeepsO.next
  repeat' (first | assumption | refine keeps_serveSpdm _ (fun z0 hz => ?_) ?_ | apply keeps_spdmReply)

theorem keeps_execGetCertificate {s0 : State} (path : SpdmPath) (slot : Byte) {s : State} (hs : Keeps s0 s) :
    KeepsO s0 (execGetCertificate path slot s) := by
  unfold execGetCertificate
  apply KeepsO.next
  repeat' (first | assumption | refine keeps_serveSpdm _ (fun z0 hz => ?_) ?_ | apply keeps_spdmError | apply keeps_spdmReply | split)

theorem keeps_execChallenge {s0 : State} (path : SpdmPath) (slot : Byte) (nonce : List Byte) {s : State} (hs : Keeps s0 s) :
    KeepsO s0 (execChallenge path slot nonce s) := by
  unfold execChallenge
  apply KeepsO.next
  repeat' (first | assumption | refine keeps_serveSpdm _ (fun z0 hz => ?_) ?_ | apply keeps_spdmError | apply keeps_spdmReply | split)

theorem keeps_execGetMeasurements {s0 : State} (path : SpdmPath) (index : Byte) (nonce : List Byte) {s : State} (hs : Keeps s0 s) :
    KeepsO s0 (execGetMeasurements path index nonce s) := by
  unfold execGetMeasurements
  apply KeepsO.next
  repeat' (first | assumption | refine keeps_serveSpdm _ (fun z0 hz => ?_) ?_ | apply keeps_spdmError | apply keeps_spdmReply | split)

theorem keeps_execKeyExchange {s0 : State} (path : SpdmPath) (slot : Byte) (data : List Byte) {s : State} (hs : Keeps s0 s) :
    KeepsO s0 (execKeyExchange path slot data s) := by
  unfold execKeyExchange
  apply KeepsO.next
  repeat' (first
      | assumption | refine keeps_serveSpdm _ (fun z0 hz => ?_) ?_ | apply keeps_spdmError | apply keeps_spdmReply | apply Keeps.at
      | simp -proj only [Keeps.lit_iff] | split)

theorem keeps_inSpdm {s0 : State} (path : SpdmPath) (sid : Nat) (open_ : Bool) (f : Session → Option Session) (code : Byte) {s : State}
    (hs : Keeps s0 s) :
    Keeps s0 (inSpdm path sid open_ f code s) := by
  unfold inSpdm
  repeat' (first | assumption | apply keeps_spdmReply | apply keeps_spdmError | apply Keeps.at | simp -proj only [Keeps.lit_iff] | split)

theorem keeps_execFinish {s0 : State} (path : SpdmPath) (sid : Nat) {s : State} (hs : Keeps s0 s) : KeepsO s0 (execFinish path sid s) := by
  unfold execFinish
  apply KeepsO.next
  repeat' (first | assumption | refine keeps_serveSpdm _ (fun z0 hz => ?_) ?_ | apply keeps_inSpdm)

theorem keeps_execHeartbeat {s0 : State} (path : SpdmPath) (sid : Nat) {s : State} (hs : Keeps s0 s) : KeepsO s0 (execHeartbeat path sid s) := by
  unfold execHeartbeat
  apply KeepsO.next
  repeat' (first | assumption | refine keeps_serveSpdm _ (fun z0 hz => ?_) ?_ | apply keeps_inSpdm)

theorem keeps_execKeyUpdate {s0 : State} (path : SpdmPath) (sid : Nat) {s : State} (hs : Keeps s0 s) : KeepsO s0 (execKeyUpdate path sid s) := by
  unfold execKeyUpdate
  apply KeepsO.next
  repeat' (first | assumption | refine keeps_serveSpdm _ (fun z0 hz => ?_) ?_ | apply keeps_inSpdm)

theorem keeps_execEndSession {s0 : State} (path : SpdmPath) (sid : Nat) {s : State} (hs : Keeps s0 s) : KeepsO s0 (execEndSession path sid s) := by
  unfold execEndSession
  apply KeepsO.next
  repeat' (first | assumption | refine keeps_serveSpdm _ (fun z0 hz => ?_) ?_ | apply keeps_inSpdm)

end Sys2Proof.Machine
end

