-- ==== Sys2Proof/WellFormed.lean ====
section
/-!
DEFINITION. WellFormed.lean: the shape of a command's operands that the spec gives: sizes of records, packets, keys and samples. `exec` has a meaning for every
command; an ill-formed one is one that no sender of the spec's interfaces can send.
-/
namespace Sys2Proof

/-- A list of a given length. -/
def lengthIs {α : Type} (n : Nat) (l : List α) : Bool := decide (l.length = n)
/-- The header flit of R331: at most 8 data flits, and 32 bytes of opcode argument where any are given. -/
def packetOk (p : Packet) : Bool := decide (p.dflits.toNat ≤ 8 ∧ p.poison.toNat < 2 ^ p.dflits.toNat) && decide (p.oparg.length = 0 ∨ p.oparg.length = 32) && decide (p.way.hdr ≠ .ue 0)
/-- What happens to a packet on its way is one of R351: an uncorrectable header has an uncorrectable word. -/
def wayOk (w : Transit) : Bool := decide (w.hdr ≠ .ue 0)
/-- The bytes of a packet fit its data flits (R331). -/
def payloadOk (p : Packet) (data : List Byte) : Bool := decide (data.length ≤ 64 * p.dflits.toNat)
/-- A slot's flit is a header of its VC, or 64 bytes of data (R360). -/
def slotOk (x : Slot) : Bool := match x.flit with | .head p => packetOk p && decide (p.vc = x.vc) | .body b => lengthIs 64 b
/-- A frame carries CREDIT for the four VCs and at most 8 slots of flits (R360). -/
def frameOk (f : Frame) : Bool := decide (f.credit.length = 0 ∨ f.credit.length = 4) && decide (f.slots.length ≤ 8) && f.slots.all slotOk
/-- A management record of 32 bytes whose byte 0 is its KIND (R396, R522). -/
def recordOk (kind : Nat) (body : List Byte) : Bool :=
  decide (body.length = 32) && (match body with | b :: _ => decide (b.toNat = kind) | [] => false)
/-- A register access of 8 bytes at an aligned offset below the size of BAR0 (R11). -/
def accessOk : RegAccess → Bool
  | .bar0 off size way => decide (size = 8 ∧ off % 8 = 0 ∧ off < 0x4000000) && wayOk way
  | .link .. => true
  | .sys .. => true
/-- An access within BAR2, of at least one byte (R565). -/
def bar2Ok (off len : Nat) : Bool := decide (1 ≤ len ∧ off + len ≤ 2 ^ 36)

/-- The command is well formed. -/
def Instr.wf : Instr → Bool
  | .registerWrite acc _ _ => accessOk acc
  | .counterClear acc _ => accessOk acc
  | .imgStart img _ => decide (img.length ≤ 0x40000000)
  | .imgAbort => true
  | .verifyEnd => true
  | .applyEnd img _ => decide (img.length ≤ 0x40000000)
  | .partRun .. => true
  | .partStop .. => true
  | .partStopped .. => true
  | .partWdogExpire .. => true
  | .mxDescStart .. => true
  | .mxChunkEnd .. => true
  | .mxDescDone .. => true
  | .mxSkipDone .. => true
  | .accSlotFree .. => true
  | .accFreeEffect .. => true
  | .strmDescStart .. => true
  | .strmDescDone .. => true
  | .strmDescFaultEnd .. => true
  | .strmSkipDone .. => true
  | .interruptEntry .. => true
  | .add .. => true
  | .sub .. => true
  | .and .. => true
  | .or .. => true
  | .xor .. => true
  | .sll .. => true
  | .srl .. => true
  | .sra .. => true
  | .slt .. => true
  | .sltu .. => true
  | .min .. => true
  | .max .. => true
  | .minu .. => true
  | .maxu .. => true
  | .mul .. => true
  | .mulhi .. => true
  | .mulhiu .. => true
  | .mulhim .. => true
  | .div .. => true
  | .divu .. => true
  | .rem .. => true
  | .remu .. => true
  | .sext8 .. => true
  | .sext16 .. => true
  | .sext32 .. => true
  | .addi .. => true
  | .upperImmediate .. => true
  | .andi .. => true
  | .ori .. => true
  | .xori .. => true
  | .slti .. => true
  | .sltiu .. => true
  | .slli .. => true
  | .srli .. => true
  | .srai .. => true
  | .load64 .. => true
  | .load32 .. => true
  | .load16 .. => true
  | .load8 .. => true
  | .store64 .. => true
  | .store32 .. => true
  | .store16 .. => true
  | .store8 .. => true
  | .beq .. => true
  | .bne .. => true
  | .blt .. => true
  | .bge .. => true
  | .bltu .. => true
  | .bgeu .. => true
  | .jal .. => true
  | .jr .. => true
  | .sysr .. => true
  | .sysw .. => true
  | .retx .. => true
  | .brk .. => true
  | .isync .. => true
  | .wnext .. => true
  | .waitm .. => true
  | .waits .. => true
  | .waitall .. => true
  | .mxi .. => true
  | .sti .. => true
  | .vadd .. => true
  | .vsub .. => true
  | .vmul .. => true
  | .vmin .. => true
  | .vminu .. => true
  | .vmax .. => true
  | .vmaxu .. => true
  | .vand .. => true
  | .vor .. => true
  | .vxor .. => true
  | .vsll .. => true
  | .vsrl .. => true
  | .vsra .. => true
  | .vcmpeq .. => true
  | .vcmplt .. => true
  | .vcmpltu .. => true
  | .vfadd .. => true
  | .vfsub .. => true
  | .vfmul .. => true
  | .vffma .. => true
  | .vfmin .. => true
  | .vfmax .. => true
  | .vfcmpeq .. => true
  | .vfcmplt .. => true
  | .vwideMul .. => true
  | .vwideMuladd .. => true
  | .vdotInt8 .. => true
  | .vdotBf16 .. => true
  | .vdotFp16 .. => true
  | .vld .. => true
  | .vlds .. => true
  | .vldx .. => true
  | .vst .. => true
  | .vsts .. => true
  | .vstx .. => true
  | .vbcast .. => true
  | .vins .. => true
  | .vext .. => true
  | .vslide .. => true
  | .vmand .. => true
  | .vmor .. => true
  | .vmnot .. => true
  | .vredRsum .. => true
  | .vredRsumf .. => true
  | .vredRmax .. => true
  | .vredRmin .. => true
  | .setup t => wayOk t.way
  | .delta t => wayOk t.way
  | .solve t => wayOk t.way
  | .adjoint t => wayOk t.way
  | .setprev t => wayOk t.way
  | .release t => wayOk t.way
  | .solvCmdDone .. => true
  | .solvDeadline .. => true
  | .solvTileFail .. => true
  | .scrubRead .. => true
  | .scrubWrite .. => true
  | .refreshWindow .. => true
  | .bstFlush .. => true
  | .bstFlushDone => true
  | .rd p => packetOk p && decide (p.dflits = 0)
  | .wr p data => packetOk p && payloadOk p data
  | .crd p => packetOk p && decide (p.dflits = 0)
  | .cwr p data => packetOk p && payloadOk p data
  | .brd p _ => packetOk p && decide (p.dflits = 0)
  | .bwr p data _ => packetOk p && payloadOk p data
  | .rsp p data => packetOk p && payloadOk p data
  | .niTimeout .. => true
  | .deferRetry .. => true
  | .drainBegin .. => true
  | .drainComplete .. => true
  | .domainReady .. => true
  | .rampEnd .. => true
  | .slowRamp .. => true
  | .collIdleOff => true
  | .dataFrame _ f => frameOk f && decide (f.slots ≠ [])
  | .emptyFrame _ f => frameOk f && decide (f.slots = [])
  | .trainFrame _ body _ => lengthIs 64 body
  | .closeFrame _ f => frameOk f && decide (f.slots = [])
  | .nakResend .. => true
  | .replayResend .. => true
  | .replayTimeout .. => true
  | .laneRetire .. => true
  | .presenceGained .. => true
  | .presenceLost .. => true
  | .trainStateDone .. => true
  | .trainStateLimit .. => true
  | .trainAttemptLimit .. => true
  | .beaconEnd .. => true
  | .retrain .. => true
  | .linkCloseDone .. => true
  | .locationAssign _ _ _ x => decide (x.rest.length = 3)
  | .locationQuery x => decide (x.rest.length = 7)
  | .memberSend => true
  | .member _ body => recordOk 1 body
  | .slotLost .. => true
  | .mapFormation => true
  | .rankMap body => recordOk 2 body
  | .mapAck body => recordOk 3 body
  | .uplinkSwap .. => true
  | .allReduce t => wayOk t.way
  | .reduceScatter t => wayOk t.way
  | .allGather t => wayOk t.way
  | .allToAll t => wayOk t.way
  | .allToAllv t => wayOk t.way
  | .broadcast t => wayOk t.way
  | .barrier t => wayOk t.way
  | .gatherDemand t => wayOk t.way
  | .fenceClose .. => true
  | .ready _ r => wayOk r.via.way
  | .cdata _ d => decide (d.offset % 64 + d.data.length ≤ 512 ∧ d.sender < 4096) && wayOk d.via.way
  | .cctlDone _ k _ => decide (k.index < 4096) && wayOk k.way
  | .abort _ k _ _ => decide (k.index < 4096) && wayOk k.way
  | .collTimeout .. => true
  | .workPost .. => true
  | .workPostAck .. => true
  | .dispatchItem .. => true
  | .workItemReceive .. => true
  | .digest t => wayOk t.way
  | .digestDone => true
  | .stepAdv .. => true
  | .imgStepWrite .. => true
  | .controlPeriod acts _ => acts.all fun a => lengthIs 12 a.counts
  | .avsSample rails => lengthIs 4 rails.core
  | .calibrationWindow => true
  | .powerSuspend => true
  | .powerResume => true
  | .thermalRead temps => lengthIs 16 temps.quads && lengthIs 4 temps.mems
  | .coolantFall => true
  | .thermStopClear => true
  | .pwrCapWrite .. => true
  | .opMaxWrite .. => true
  | .budgetShift => true
  | .capSet body => recordOk 8 body
  | .quietTimeout => true
  | .sleepReq .. => true
  | .sleepEntryDone => true
  | .resume => true
  | .timerWake => true
  | .wakeDone => true
  | .sleepPrepare body => recordOk 4 body
  | .sleepVote body => recordOk 5 body
  | .sleepCommit body => recordOk 6 body
  | .sleepAbort body => recordOk 7 body
  | .sleepVoteLimit => true
  | .sleepDecisionLimit => true
  | .haltAssert => true
  | .haltDeassert => true
  | .clockStopped .. => true
  | .timeExchange => true
  | .timeReq body => recordOk 9 body
  | .timeRsp body => recordOk 10 body
  | .tickSlew => true
  | .cold => true
  | .warm => true
  | .clkUnitReset .. => true
  | .mcmdReset _ src _ => wayOk src.way
  | .unitResetDone .. => true
  | .kick => true
  | .clkWdogWrite .. => true
  | .wdogWarn => true
  | .wdogExpire => true
  | .bootStepDone r => r.solder.all (fun e => decide (e.1 < 64 ∧ e.2 ≤ 16)) && r.chanFail.all fun e => decide (e.1 < 12)
  | .bootStepLimit => true
  | .powerOnRelease .. => true
  | .auxFail => true
  | .refclkLoss => true
  | .coreRailFail .. => true
  | .vddqFail => true
  | .nocCtrlWrite .. => true
  | .collCtrlWrite .. => true
  | .hostCtrlWrite .. => true
  | .bar2BstWrite .. => true
  | .bar2Read off x => bar2Ok off x.len && wayOk x.way
  | .bar2Write off data x => bar2Ok off data.length && wayOk x.way
  | .hostDeferRetry .. => true
  | .hostRetryLimit .. => true
  | .hostIrq .. => true
  | .msixUnmask .. => true
  | .ltrWrite .. => true
  | .ltrEnable => true
  | .dlUp => true
  | .dlDown => true
  | .perstAssert => true
  | .perstDeassert => true
  | .d3hot => true
  | .pop => true
  | .clearAll => true
  | .rotate .. => true
  | .entdaa .. => true
  | .setdasa .. => true
  | .setEndpointId .. => true
  | .getEndpointId => true
  | .getMctpVersionSupport => true
  | .getMessageTypeSupport => true
  | .getVendorDefinedMsgSupport => true
  | .reset kind => decide (kind.toNat ≤ 1)
  | .wdogKick => true
  | .setBoardLimit .. => true
  | .wake => true
  | .regRead .. => true
  | .regWrite .. => true
  | .fabricKey _ _ key => lengthIs 32 key
  | .keyInstall _ slot key => decide (slot.toNat ≤ 64) && lengthIs 64 key
  | .ownerFuse _ slot hash => decide (slot.toNat ≤ 7) && lengthIs 32 hash
  | .svnAdvance _ which => decide (which.toNat ≤ 1)
  | .getTid => true
  | .setTid .. => true
  | .getPldmVersion .. => true
  | .getPldmTypes => true
  | .getPldmCommands .. => true
  | .getPdr .. => true
  | .getSensorReading .. => true
  | .getStateSensorReadings .. => true
  | .setNumericEffecterValue .. => true
  | .getNumericEffecterValue .. => true
  | .setEventReceiver .. => true
  | .platformEventAck .. => true
  | .pldmEventRetry .. => true
  | .requestFirmwareData _ block => decide (1 ≤ block.length ∧ block.length ≤ 1024)
  | .firmwareVerify => true
  | .activateFirmware => true
  | .getVersion .. => true
  | .getCapabilities .. => true
  | .negotiateAlgorithms .. => true
  | .getDigests .. => true
  | .getCertificate .. => true
  | .challenge _ _ nonce => lengthIs 32 nonce
  | .getMeasurements _ _ nonce => lengthIs 32 nonce
  | .keyExchange .. => true
  | .finish .. => true
  | .heartbeat .. => true
  | .keyUpdate .. => true
  | .endSession .. => true
  | .coolantRise => true
  | .d0 => true
  | .pmeTurnOff => true
  | .mrd acc => accessOk acc

end Sys2Proof
end

