-- ==== Sys2Proof/Tests/Slice0.lean ====
section
/-!
SUPPORT. Tests/Slice0.lean: for every statement with hypotheses a state and operands that meet them, ill-formed commands that the check refuses,
and small tests of single commands.
-/
namespace Slice0Tests
open Sys2Proof hiding core
open Sys2Proof.Machine
set_option Elab.async false

/-! ### Fixtures -/

/-- A package after its start with every domain on, in which partition 0 runs on tile 0. -/
def wS : State :=
  { doms := (List.range 30).map fun n => (n, { st := .on })
    parts := [(0, { st := .running, prec := { tiles := [0] } })]
    tiles := [(0, { core := { run := .running } })]
    boot := { step := 16, ended := true } }
/-- That package with a core of tile 0. -/
def wCore (c : CoreSt) : State := { wS with tiles := [(0, { core := { c with run := .running } })] }
/-- That package with a tile 0. -/
def wTile (x : TileSt) : State := { wS with tiles := [(0, x)] }
/-- That package with the word of an instruction at tile 0's program counter. -/
def wAt (i : Instr) (s : State) : State := spWrite 1 (getPc s 0).toNat (leBytes 4 ((encodeCore i).getD 0).toNat) s
/-- Tile 0 may fetch, and the word that it fetches spells the instruction. -/
def ready (s : State) (i : Instr) : Bool :=
  canIssue s 0 && decide ((getPc s 0).toNat + 4 ≤ tileW s 0) && !anyBad s (fetchLine s 0) 64 && decide (decodeCore 0 (wordNext s 0) = some i)
/-- Tile 0's oldest post can go out and be served. -/
def goes (s : State) (x : Post) : Bool :=
  decide (nextPost s 0 x.kind = some x) && !niStalled s (tileStation s 0) && decide (stationTile s (tileStation s 0) = some 0)
    && (s.posts.all fun y => decide (tileStation s y.tile ≠ tileStation s 0) || decide (y.txid ≠ some (freeTxid s (tileStation s 0))))
    && (unitGate (postStation x) 3 s).isNone
theorem goes_meets {s : State} {x : Post} (h : goes s x = true) : PostGoes s 0 x := by
  simp only [goes, Bool.and_eq_true, Bool.not_eq_true', decide_eq_true_eq, List.all_eq_true, Bool.or_eq_true, Option.isNone_iff_eq_none] at h
  exact ⟨h.1.1.1.1, h.1.1.1.2, h.1.1.2, fun y hy ht => ((h.1.2 y hy).resolve_left (fun hn => hn ht)), h.2⟩
theorem ready_meets {s : State} {i : Instr} (h : ready s i = true) : FetchOk s 0 ∧ Spells s 0 i := by
  simp only [ready, Bool.and_eq_true, Bool.not_eq_true', decide_eq_true_eq] at h
  exact ⟨⟨h.1.1.1, h.1.1.2, .inr h.1.2⟩, h.2⟩

/-! ### The hypotheses of the statements can be met -/

theorem witness_StepRunsTheFrontCommand : State.reset.pending = [] := rfl
theorem witness_EveryStepKeepsSafe :
    let s : State := { wS with pending := [.add 0 1 2 3], mem := [(5, 1)], ecc := [(2, .bad)] }
    s.Safe ∧ ∃ t, step s = .next t := ⟨⟨by decide, by decide, by decide, by decide⟩, _, rfl⟩
theorem witness_CommandsLeaveQueueAndFuses : ∃ t, exec (.store8 0 1 2 3) wS = .next t := ⟨_, rfl⟩
/-- A write of 20 bytes from 5 covers words 0 and 3 in part and words 1 and 2 whole; words 0 and 2 are uncorrectable, so one merge is not made. A store whose
word is uncorrectable is one that raises POISON. -/
theorem witness_ScratchpadWrites :
    (let s : State := { wS with ecc := [(0, .bad), (2, .bad)] };
      writePoisons s 5 20 = true ∧ memBytes (spWrite 1 5 (List.replicate 20 7) s) 4 8 = [0, 0, 0, 0, 7, 7, 7, 7] ∧ memBytes (spWrite 1 5 (List.replicate 20 7) s) 20 8 = [7, 7, 7, 7, 7, 0, 0, 0] ∧
        (spWrite 1 5 (List.replicate 20 7) s).ecc = [(0, .bad)]) ∧
    (let i : Instr := .store16 0 1 2 2;
      let s : State := { wAt i (wCore { g := [(2, 0x100)] }) with ecc := [(0x20, .bad)] };
      let x := (getG s 0 2 + (2 : BitVec 16).signExtend 64).toNat;
      (FetchOk s 0 ∧ Spells s 0 i) ∧ x + 2 ≤ tileW s 0 ∧ x % 2 = 0 ∧ writePoisons s (pkgAddr 0 x) 2 = true) :=
  ⟨by decide +kernel, ready_meets (by decide +kernel), by decide +kernel⟩
/-- One instruction of every form, at the bounds of its operands. -/
def wForms : List Instr :=
  [.add 0 31 30 29, .sub 0 1 2 3, .and 0 1 2 3, .or 0 1 2 3, .xor 0 1 2 3, .sll 0 1 2 3, .srl 0 1 2 3, .sra 0 1 2 3, .slt 0 1 2 3, .sltu 0 1 2 3,
    .min 0 1 2 3, .max 0 1 2 3, .minu 0 1 2 3, .maxu 0 1 2 3, .mul 0 1 2 3, .mulhi 0 1 2 3, .mulhiu 0 1 2 3, .mulhim 0 1 2 3, .div 0 1 2 3, .divu 0 1 2 3,
    .rem 0 1 2 3, .remu 0 1 2 3, .sext8 0 1 2, .sext16 0 1 2, .sext32 0 1 2] ++
  [.addi 0 1 2 0x8001, .upperImmediate 0 1 0x100001, .andi 0 1 2 0xFFFF, .ori 0 1 2 0xFFFF, .xori 0 1 2 0xFFFF, .slti 0 1 2 0xFFFF, .sltiu 0 1 2 0xFFFF,
    .slli 0 1 2 63, .srli 0 1 2 63, .srai 0 1 2 63, .load64 0 1 2 8, .load32 0 1 2 8, .load16 0 1 2 8, .load8 0 1 2 8, .store64 0 1 2 8, .store32 0 1 2 8,
    .store16 0 1 2 8, .store8 0 1 2 8, .beq 0 1 2 0x80, .bne 0 1 2 0x80, .blt 0 1 2 0x80, .bge 0 1 2 0x80, .bltu 0 1 2 0x80, .bgeu 0 1 2 0x80,
    .jal 0 1 0x100000, .jr 0 1 2 0x8000] ++
  [.sysr 0 1 2, .sysw 0 1 2, .retx 0, .brk 0, .isync 0, .wnext 0 1, .waitm 0 1 2, .waits 0 1 2, .waitall 0, .mxi 0 1 2 3, .sti 0 1 4] ++
  [.vadd 0 31 2 3 1 .s8, .vsub 0 1 2 3 0 .s16, .vmul 0 1 2 3 0 .s32, .vmin 0 1 2 3 0 .s64, .vminu 0 1 2 3 0 .s8, .vmax 0 1 2 3 0 .s8, .vmaxu 0 1 2 3 0 .s8,
    .vand 0 1 2 3 0 .s8, .vor 0 1 2 3 0 .s8, .vxor 0 1 2 3 0 .s8, .vsll 0 1 2 3 0 .s8, .vsrl 0 1 2 3 0 .s8, .vsra 0 1 2 3 0 .s8, .vcmpeq 0 7 2 3 0 .s8,
    .vcmplt 0 7 2 3 0 .s8, .vcmpltu 0 7 2 3 0 .s8, .vfadd 0 1 2 3 0 .s32, .vfsub 0 1 2 3 0 .s64, .vfmul 0 1 2 3 0 .s32, .vffma 0 1 2 3 0 .s32,
    .vfmin 0 1 2 3 0 .s32, .vfmax 0 1 2 3 0 .s32, .vfcmpeq 0 7 2 3 0 .s32, .vfcmplt 0 7 2 3 0 .s64, .vwideMul 0 30 2 3 0 .s32 true false,
    .vwideMuladd 0 30 2 3 0 .s8 false true, .vdotInt8 0 1 2 3 0 .s8 true false, .vdotBf16 0 1 2 3 0 .s16, .vdotFp16 0 1 2 3 0 .s16] ++
  [.vld 0 1 2 0 .s32, .vlds 0 1 2 3 0 .s32, .vldx 0 1 2 3 0 .s32, .vst 0 1 2 0 .s32, .vsts 0 1 2 3 0 .s32, .vstx 0 1 2 3 0 .s32, .vbcast 0 1 2 0 .s8,
    .vins 0 1 2 3 0 .s8, .vext 0 1 2 3 0 .s8, .vslide 0 1 2 3 0 .s8, .vmand 0 7 6 5, .vmor 0 7 6 5, .vmnot 0 7 6, .vredRsum 0 1 2 0 .s8,
    .vredRsumf 0 1 2 0 .s64, .vredRmax 0 1 2 0 .s8, .vredRmin 0 1 2 0 .s8]
theorem witness_Spells : wForms.all (fun i => ready (wAt i wS) i) = true := by decide +kernel
theorem witness_FetchOk : FetchOk wS 0 := ⟨by decide, by decide, by decide⟩
theorem witness_FetchOk_at_the_end : FetchOk (wCore { pc := 0x1FFFFFC }) 0 := ⟨by decide, by decide, by decide⟩
theorem witness_FetchQuiet : FetchOk wS 0 ∧ FetchQuiet wS 0 :=
  ⟨witness_FetchOk, .inr (by simp [wS, eccOf, tabFind]), .inl rfl⟩
theorem witness_BranchesAndJumps :
    (let i : Instr := .jr 0 1 2 0x8004; let s := wAt i (wCore { pc := 0x1FFFFFC, g := [(2, 0x1FFF8)] });
      (FetchOk s 0 ∧ Spells s 0 i) ∧ ((getG s 0 2) + (0x8004 : BitVec 16).signExtend 64).toNat % 4 = 0) ∧
    (let i : Instr := .jr 0 1 2 0xFFFE; let s := wAt i (wCore { g := [(2, 3)] });
      (FetchOk s 0 ∧ Spells s 0 i) ∧ ((getG s 0 2) + (0xFFFE : BitVec 16).signExtend 64).toNat % 4 ≠ 0) :=
  ⟨⟨ready_meets (by decide +kernel), by decide +kernel⟩, ready_meets (by decide +kernel), by decide +kernel⟩
theorem witness_HandlerEntry : (255 : Nat) < 256 ∧ 2 ^ 64 - 1 < 2 ^ 64 := by decide
theorem witness_SynchronousException :
    getB wS (aTileCoreStatus 0) 0 = false ∧ getB { wS with regs := [(aTileCoreStatus 0, 1)] } (aTileCoreStatus 0) 0 = true := by decide
/-- The last aligned bytes of working memory, for each size. -/
theorem witness_Loads_and_Stores :
    let s (i : Instr) := wAt i (wCore { g := [(2, 0x1FFFFF0)] })
    let meets (i : Instr) : Prop := FetchOk (s i) 0 ∧ Spells (s i) 0 i
    let ok (i : Instr) (imm : BitVec 16) (k : Nat) : Bool :=
      let x : Nat := (getG (s i) 0 2 + imm.signExtend 64).toNat
      decide (x + k ≤ tileW (s i) 0) && decide (x % k = 0) && !anyBad (s i) (pkgAddr 0 x) k && !writePoisons (s i) (pkgAddr 0 x) k
    (meets (.load64 0 1 2 8) ∧ meets (.load8 0 1 2 15) ∧ meets (.store32 0 1 2 12) ∧ meets (.store16 0 1 2 14)) ∧
      ok (.load64 0 1 2 8) 8 8 = true ∧ ok (.load8 0 1 2 15) 15 1 = true ∧ ok (.store32 0 1 2 12) 12 4 = true ∧ ok (.store16 0 1 2 14) 14 2 = true :=
  ⟨⟨ready_meets (by decide +kernel), ready_meets (by decide +kernel), ready_meets (by decide +kernel), ready_meets (by decide +kernel)⟩, by decide +kernel⟩
theorem witness_ScalarAccessFaults :
    let s (i : Instr) (a : Word) : State := { wAt i (wCore { g := [(2, a)] }) with ecc := [(0x20, .bad)] }
    let x (i : Instr) (a : Word) : Nat := (getG (s i a) 0 2 + (1 : BitVec 16).signExtend 64).toNat
    let l : Instr := .load64 0 1 2 1
    let h : Instr := .load16 0 1 2 1
    let w : Instr := .store32 0 1 2 1
    ((FetchOk (s l 0x1FFFFFF) 0 ∧ Spells (s l 0x1FFFFFF) 0 l) ∧ (FetchOk (s h 0x100) 0 ∧ Spells (s h 0x100) 0 h) ∧
      (FetchOk (s l 0xFF) 0 ∧ Spells (s l 0xFF) 0 l) ∧ (FetchOk (s w 0x103) 0 ∧ Spells (s w 0x103) 0 w)) ∧
    (tileW (s l 0x1FFFFFF) 0 < x l 0x1FFFFFF + 8 ∧ (x h 0x100 + 2 ≤ tileW (s h 0x100) 0 ∧ x h 0x100 % 2 ≠ 0) ∧
      (x l 0xFF + 8 ≤ tileW (s l 0xFF) 0 ∧ x l 0xFF % 8 = 0 ∧ anyBad (s l 0xFF) (pkgAddr 0 (x l 0xFF)) 8 = true) ∧
      (x w 0x103 % 4 = 0 ∧ writePoisons (s w 0x103) (pkgAddr 0 (x w 0x103)) 4 = true)) :=
  ⟨⟨ready_meets (by decide +kernel), ready_meets (by decide +kernel), ready_meets (by decide +kernel), ready_meets (by decide +kernel)⟩, by decide +kernel⟩
theorem witness_SystemRegisterAccess :
    let i : Instr := .sysw 0 2 3
    let s (n : Word) := wAt i (wCore { g := [(2, n)] })
    ((FetchOk (s 0x101) 0 ∧ Spells (s 0x101) 0 i) ∧ FetchOk (s 0x7FF) 0 ∧ Spells (s 0x7FF) 0 i) ∧
    sysExists 0 0x101 = true ∧ sysExists 0 0x7FF = false ∧ sysWritable 0 0x101 = true ∧ sysWritable 0 0x7FF = false :=
  ⟨⟨ready_meets (by decide +kernel), ready_meets (by decide +kernel)⟩, by decide +kernel, by decide +kernel, by decide +kernel, by decide +kernel⟩
theorem witness_StoredWriteByAccessCodes :
    (∃ r, regSpecAt (aTileEpc 0) = some r ∧ r.isCounter = false) ∧ (∃ r, regSpecAt (8 * 34 + 0x2000000) = some r ∧ r.isCounter = true) ∧ regSpecAt 0x8 = none :=
  ⟨⟨_, rfl, by decide +kernel⟩, ⟨_, rfl, by decide +kernel⟩, by decide +kernel⟩
theorem witness_Waits :
    let i : Instr := .waitm 0 1 2
    let s := wAt i (wTile { core := { run := .running, g := [(2, 7)], mxCodes := [(7, some 1), (6, none)], stCodes := [(6, some 2), (7, none)] } })
    let q := ((getG s 0 2).extractLsb' 0 16).toNat
    let j : Instr := .waitall 0
    let z (e : MxEntry) := wAt j (wTile { core := { run := .running }, mxq := [e] })
    (FetchOk s 0 ∧ Spells s 0 i) ∧ (codeFor (core s 0).mxCodes q = some 1 ∧ codeFor (core s 0).stCodes q = none) ∧
    (FetchOk (z {}) 0 ∧ Spells (z {}) 0 j) ∧ (∃ e ∈ (tile (z {}) 0).mxq, e.solv = none) ∧
    (FetchOk (z { solv := some (0, 0) }) 0 ∧ Spells (z { solv := some (0, 0) }) 0 j) ∧ (∀ e ∈ (tile (z { solv := some (0, 0) }) 0).mxq, e.solv ≠ none) :=
  ⟨ready_meets (by decide +kernel), by decide +kernel, ready_meets (by decide +kernel), by decide +kernel, ready_meets (by decide +kernel), by decide +kernel⟩
theorem witness_DescriptorIssue :
    let s (i : Instr) (n m : Nat) := wAt i (wTile { core := { run := .running }, mxq := List.replicate n {}, stq := List.replicate m {} })
    let meets (i : Instr) (n m : Nat) : Prop := FetchOk (s i n m) 0 ∧ Spells (s i n m) 0 i
    let x : Instr := .mxi 0 1 2 3
    let y : Instr := .sti 0 1 28
    (meets x 7 15 ∧ meets y 7 15 ∧ meets x 8 16 ∧ meets y 8 16 ∧ meets (.sti 0 1 29) 0 0) ∧
    ((tile (s x 7 15) 0).mxq.length < 8 ∧ (tile (s y 7 15) 0).stq.length < 16 ∧ 8 ≤ (tile (s x 8 16) 0).mxq.length ∧
      16 ≤ (tile (s y 8 16) 0).stq.length ∧ (28 : GReg).val % 4 = 0 ∧ (28 : GReg) ≠ 0 ∧ (29 : GReg).val % 4 ≠ 0) :=
  ⟨⟨ready_meets (by decide +kernel), ready_meets (by decide +kernel), ready_meets (by decide +kernel), ready_meets (by decide +kernel), ready_meets (by decide +kernel)⟩,
    by decide +kernel⟩
/-- One interrupt of each code is the pending one of lowest code, none is, or none is taken. -/
theorem witness_InterruptEntry :
    let s (c : Word) (l : Tab Word) : State := { wS with regs := l ++ [(aTileCoreStatus 0, c)] }
    let cvt (s : State) : Bool := (getB s (aTileCvt 0) 2 && getB s (aTileCvtStatus 0) 0) || (getB s (aTileCvt 0) 3 && getB s (aTileCvtStatus 0) 4)
    let acc (s : State) : Bool := getB s (aAccStatus 0) 12 && getB s (aAccStatus 0) 8
    let strm (s : State) : Bool := getB s (aStrmStatus 0) 14 && (getB s (aStrmStatus 0) 8 || getB s (aStrmStatus 0) 9 || getB s (aStrmStatus 0) 11)
    let open_ (s : State) : Bool := canIssue s 0 && getB s (aTileCoreStatus 0) 1 && !getB s (aTileCoreStatus 0) 0
    let low (s : State) : Bool := !getB s (aTileCoreStatus 0) 16 && !getB s (aTileCoreStatus 0) 17
    let c16 : Word := 0x30002
    let c17 : Word := 0x20002
    (open_ (s c16 []) = true ∧ getB (s c16 []) (aTileCoreStatus 0) 16 = true) ∧
    (open_ (s c17 []) = true ∧ getB (s c17 []) (aTileCoreStatus 0) 16 = false ∧ getB (s c17 []) (aTileCoreStatus 0) 17 = true) ∧
    (let x := s 2 [(aTileCvt 0, 4), (aTileCvtStatus 0, 1)]; open_ x = true ∧ low x = true ∧ cvt x = true) ∧
    (let x := s 2 [(aAccStatus 0, 0x1100)]; open_ x = true ∧ low x = true ∧ cvt x = false ∧ acc x = true) ∧
    (let x := s 2 [(aStrmStatus 0, 0x4800)]; open_ x = true ∧ low x = true ∧ cvt x = false ∧ acc x = false ∧ strm x = true) ∧
    (let x := s 2 []; open_ x = true ∧ low x = true ∧ cvt x = false ∧ acc x = false ∧ strm x = false) ∧
    (let x := s 3 []; canIssue x 0 = true ∧ getB x (aTileCoreStatus 0) 0 = true) := by decide +kernel
/-- An active element, an inactive one, and a shift by the width less one. -/
theorem witness_VectorIntegers :
    let i : Instr := .vsll 0 1 2 3 1 .s8
    let s := wAt i (wCore { vm := [(1, 1)], v := [(3, 7)] })
    (FetchOk s 0 ∧ Spells s 0 i) ∧ active (getM s 0 1) 0 = true ∧ active (getM s 0 1) 63 = false ∧ elemOf 8 (getV s 0 3) 0 < 8 :=
  ⟨ready_meets (by decide +kernel), by decide, by decide, by decide +kernel⟩
theorem witness_VectorCompares : (7 : VReg).val < 8 := by decide
theorem witness_VectorWidening : (30 : VReg).val % 2 = 0 ∧ Sew.s32 ≠ .s64 := ⟨by decide, by decide⟩
theorem witness_VectorMoves :
    let i : Instr := .vext 0 1 2 3 0 .s64
    let s := wAt i (wCore { g := [(3, 7)] })
    (FetchOk s 0 ∧ Spells s 0 i) ∧ ((getG s 0 3).extractLsb' 0 6).toNat < 512 / sewBits .s64 := ⟨ready_meets (by decide +kernel), by decide⟩
/-- The sixteen elements of 4 bytes that end working memory, from the last on at a negative stride, and at indices. -/
theorem witness_VectorLoads_and_Stores :
    let s (i : Instr) := wAt i (wCore { g := [(1, 0x1FFFFC0), (2, 0x1FFFFFC), (3, -4)], v := [(5, 8)] })
    let ok (i : Instr) (x : Word) : Prop :=
      x.toNat + 4 ≤ tileW (s i) 0 ∧ x.toNat % 4 = 0 ∧ anyBad (s i) (pkgAddr 0 x.toNat) 4 = false ∧ writePoisons (s i) (pkgAddr 0 x.toNat) 4 = false
    let a : Instr := .vld 0 4 1 0 .s32
    let b : Instr := .vsts 0 4 2 3 0 .s32
    let c : Instr := .vldx 0 4 1 5 0 .s32
    ((FetchOk (s a) 0 ∧ Spells (s a) 0 a) ∧ (FetchOk (s b) 0 ∧ Spells (s b) 0 b) ∧ FetchOk (s c) 0 ∧ Spells (s c) 0 c) ∧
    (core (s a) 0).resumed = false ∧ (∀ k, k < 16 → ok a (getG (s a) 0 1 + BitVec.ofNat 64 (k * 4))) ∧
    (∀ k, k < 16 → ok b (getG (s b) 0 2 + BitVec.ofNat 64 k * getG (s b) 0 3)) ∧ (∀ k, k < 16 → ok c (getG (s c) 0 1 + BitVec.ofNat 64 (elemOf 32 (getV (s c) 0 5) k))) :=
  ⟨⟨ready_meets (by decide +kernel), ready_meets (by decide +kernel), ready_meets (by decide +kernel)⟩, by decide +kernel, by decide +kernel, by decide +kernel, by decide +kernel⟩
/-- A word of no class; a fetch past working memory, and one from a line with an uncorrectable word. -/
theorem witness_IllegalVectorForms :
    (decodeCore 0 (0x04221800 : BitVec 32) = some (.add 0 1 2 3) ∧ FetchOk wS 0 ∧ decodeCore 0 (wordNext wS 0) = none) ∧
    (let s := wCore { pc := 0x2000000 }; canIssue s 0 = true ∧ getB s (aTileCoreStatus 0) 0 = false ∧ tileW s 0 < (getPc s 0).toNat + 4) ∧
    (let s : State := { wCore {} with ecc := [(7, .bad)] }; canIssue s 0 = true ∧ (getPc s 0).toNat + 4 ≤ tileW s 0 ∧ icFind s 0 ((getPc s 0).toNat / 64) = none ∧
      anyBad s (fetchLine s 0) 64 = true) ∧
    (8 ≤ (8 : VReg).val ∧ (1 : MReg) ≠ 0 ∧ (1 : VReg).val % 2 = 1) :=
  ⟨⟨by decide +kernel, witness_FetchOk, by decide +kernel⟩, by decide +kernel, by decide +kernel, by decide⟩
/-- The head of a matrix queue: 8 × 8 × 1 elements of one chunk. -/
def wMx (run : Option MxRun) (skip : Option Byte) : State :=
  wTile { core := { run := .running, mxCodes := [(1, none)] }, mxq := [{ seq := 1, skip := skip }], mxRun := run, acc := [(0, { order := [.mx 1 {}] })] }
theorem witness_MatrixDescriptors :
    (let s := wMx none none; engineGated s = false ∧ engineGated { s with pwr := { sleep := .idle } } = true ∧ (tile s 0).mxq = [{ seq := 1, skip := none }] ∧ (tile s 0).mxRun = none ∧ slotBefore (accSlot s 0 (mxSlot (mxBits 0 0))) 1 = [] ∧
      ∀ d, d < 4 → seqWaiters s d = []) ∧
    (let s := wMx (some {}) none; (tile s 0).mxRun = some {} ∧ ({} : MxRun).chunk < mxChunks (mxBits 0 0)) ∧
    (let s := wMx (some { chunk := 1 }) none; (tile s 0).mxRun = some { chunk := 1 } ∧ ({ chunk := 1 } : MxRun).chunk = mxChunks (mxBits 0 0)) ∧
    (let s := wTile { mxq := [{ seq := 1, solv := some (0, 0) }], mxRun := some {} }; (tile s 0).mxq = [{ seq := 1, solv := some (0, 0) }] ∧ (tile s 0).mxRun = some {}) ∧
    (let s := wMx none (some 2); (tile s 0).mxq = [{ seq := 1, skip := some 2 }]) ∧
    (let s := wTile { mxq := [{ seq := 1, skip := some 2, solv := some (0, 0) }] }; (tile s 0).mxq = [{ seq := 1, skip := some 2, solv := some (0, 0) }]) := by decide +kernel
theorem witness_AccumulatorFrees : (accSlot (wTile { acc := [(63, { order := [.free, .rd 1] })] }) 0 63).order = .free :: [.rd 1] := by decide
/-- The head of a stream queue: one element, one stage, no streams. -/
def wSt (run : Bool) (skip : Option Byte) (cause : Nat) : State :=
  wTile { core := { run := .running }, stRun := run, stq := [{ ws := [0, 0, 0, 0], seq := 65535, skip := skip, cause := cause, stream := 7 }] }
theorem witness_StreamDescriptors :
    let e : StEntry := { ws := [0, 0, 0, 0], seq := 65535, stream := 7 }
    (let s := wSt false none 0; engineGated s = false ∧ (tile s 0).stq = [e] ∧ (tile s 0).stRun = false ∧ (tile s 0).acc = []) ∧
    (let s := wSt true none 0; let d := stExecute (stCtx s 0 e) none s;
      (tile s 0).stRun = true ∧ stStalled s (stCtx s 0 e) = false ∧ d.wait = none ∧ d.ending = none) ∧
    (let s := wSt true none 0; let d := stExecute { stCtx s 0 e with forced := true } (some (endingOf .timeout 5 0)) s;
      0 < ctxTotal (stCtx s 0 e) ∧ d.wait = none ∧ d.ending = some (endingOf .timeout 5 0)) ∧
    (let s := wTile { stq := [{ e with solv := some (0, 0) }], stRun := true }; (tile s 0).stq = [{ e with solv := some (0, 0) }] ∧ (tile s 0).stRun = true) ∧
    (let s := wSt false (some 0x23) 2; (tile s 0).stq.head?.map (·.skip) = some (some 0x23) ∧ getB s (aStrmStatus 0) 8 = false ∧ getB s (aStrmStatus 0) 9 = false ∧
      getB s (aStrmStatus 0) 11 = false) := by decide +kernel
/-- A stream descriptor that reads tile 1, whose unit resets: its access is deferred; it then waits for the retry. -/
def wRemote (ni : Tab NiSt) : State :=
  { wTile { core := { run := .running }, stRun := true, stq := [{ ws := [1, 0, 0, 0], seq := 1, chain := [1, 0, 1] ++ List.replicate 253 0 }] } with
    parts := [(0, { st := .running, prec := { tiles := [0, 1] } })], resets := [1], ni := ni }
theorem witness_StreamDescriptors_deferred :
    let e : StEntry := { ws := [1, 0, 0, 0], seq := 1, chain := [1, 0, 1] ++ List.replicate 253 0 }
    (let s := wRemote []; stStalled s (stCtx s 0 e) = false ∧ (stExecute (stCtx s 0 e) none s).wait = some (.remote 1 0 0 0)) ∧
    (let s := wRemote [(0, { entries := [(0, { deferred := true, use := .stream 1 0 0 })] })]; stStalled s (stCtx s 0 e) = true) := by decide +kernel
/-- An image of one section of one byte, with a digest. -/
def wImage (d : Nat) : List Byte :=
  List.replicate 11 0 ++ [0, 1] ++ List.replicate 51 0 ++ [1, 0, 0, 0, 0, 0, 0, 0, 128, 0, 0, 0, 0, 0, 0, 0, 1] ++ List.replicate 15 0 ++ leBytes 32 d ++ [1]
theorem witness_ImageLoad :
    let s (p : ImgPhase) (e : Bool) : State := { wS with img := { phase := p, img := wImage 0, srcErr := e } }
    (s .done false).img.phase ≠ .verify ∧ (s .done false).img.phase ≠ .apply ∧ (s .verify true).img.phase = .verify ∧ (s .verify true).img.srcErr = true ∧
    (s .verify false).img.srcErr = false ∧ (s .apply false).img.phase = .apply ∧ (digestFails (wImage 0)).isSome = true ∧
    digestFails [] = none := by decide +kernel
/-- A partition 63 of tile 0 in a state, with or without a stop. -/
def wPart (st : PState) (stopping : Bool) (run : CoreRun) : State :=
  { wS with parts := [(63, { st := st, stopping := stopping, prec := { tiles := [0] } })], tiles := [(0, { core := { run := run } })] }
theorem witness_Partitions :
    (let s := wPart .faulted false .idle; (part s 63).st = .faulted ∧ unitState s (tileStation s 0) ≠ .failed ∧ s.pins.halt = false ∧ domSt s (quadOf 0) = .on) ∧
    (let s := wPart .running false (.waiting 31); (part s 63).st = .running ∧ (core s 0).run = .waiting 31 ∧ (core s 0).given = none) ∧
    (part (wPart .suspended false .idle) 63).st = .suspended ∧
    (let s := wPart .running true .stopped; (part s 63).st = .running ∧ (part s 63).stopping = true ∧ partQuiet s 63 = true) ∧
    (let s := wPart .running false .running; ownerOf s 0 = some 63 ∧ (part s 63).st = .running ∧ getB s aErrCtrl 4 = false) := by decide +kernel
/-- The package in which tile 0 has posted a record of 32 bytes: an item at entry 0 of class 0. -/
def wItem (classes n : Nat) (x : CoreSt) : State :=
  { wS with
    parts := [(0, { st := .running, nq := List.replicate n {}, prec := { tiles := [0], eclassMask := classes } })]
    tiles := [(0, { core := x })]
    mem := [(0x1FFFFF4, 0xFF), (0x1FFFFF5, 0xFF)] }
theorem witness_WorkItems :
    let x : WorkPostSt := { off := 0x1FFFFE0 }
    (let s := wItem 1 255 { post := some x };
      ownerOf s 0 = some 0 ∧ (core s 0).post = some x ∧ itemRefused s 0 0 x.off = none ∧ (part s 0).nq.length < 256) ∧
    (let s := wItem 1 256 { post := some x }; itemRefused s 0 0 x.off = none ∧ 256 ≤ (part s 0).nq.length) ∧
    itemRefused (wItem 2 0 { post := some x }) 0 0 x.off = some 3 ∧
    (core (wItem 1 0 { post := some { x with answered := true } }) 0).post = some { x with answered := true } ∧
    (let s := wItem 1 1 { run := .waiting 1 }; mayDispatch s 0 0 = true ∧ chooseItem s 0 (tileIndex s 0 0) = some { place := 0, index := 0 }) ∧
    (let s := wItem 1 0 { run := .waiting 1, given := some {} };
      ownerOf s 0 = some 0 ∧ (core s 0).given = some {} ∧ (core s 0).run = .waiting 1 ∧ (part s 0).st = .running) := by decide +kernel
/-- The package with its host port live, a write gate at tile 0 of each kind, and a tile address. -/
def wTileReg : Nat := 0x2000808
theorem witness_RegisterAccess :
    hostLive wS = true ∧ wTileReg % 8 = 0 ∧ wTileReg < 0x4000000 ∧ bar0Gate wS wTileReg = none ∧ bar0Gate wS 0x8 = none ∧ regSpecAt 0x8 = none ∧
    ({ hdr := .bad } : Transit).hdr ≠ .ok ∧ bar0Gate { wS with resets := [0] } wTileReg = some 0x10 ∧ bar0Gate { wS with doms := [] } wTileReg = some 0x21 ∧
    wS.pins.powered = true ∧ sysWritable 0 0x101 = true ∧ sysExists 0 0x101 = true ∧ (0x3FFFFFC % 8 ≠ 0 ∧ 0x4000000 ≤ 0x4000000) := by decide +kernel
theorem witness_RangedRegisterWrites :
    hostLive wS = true ∧ (0x2000000 + 8 * 34) % 8 = 0 ∧ bar0Gate wS (0x2000000 + 8 * 34) = none ∧
    (match regSpecAt (0x2000000 + 8 * 34) with | some r => r.isCounter | none => false) = true := by decide +kernel
/-- Requests of tile 0 to its own station: the last 512 bytes of its slice, and one byte of its first word. -/
def wP (op : Nat) (addr len : Nat) : Packet := { opcode := BitVec.ofNat 6 op, addr := BitVec.ofNat 64 addr, bytesM1 := BitVec.ofNat 9 (len - 1), tag := 0, txid := 7 }
theorem witness_NetworkRequests :
    (let p := wP 1 0x1FFFE00 512; p.way = {} ∧ p.dstStn.toNat < 1088 ∧ p.addr.toNat % 64 + p.bytesM1.toNat + 1 ≤ 512 ∧
      (openEntry (stamped wS 1 p) [] wS).any (fun s1 => decide (stationTile wS p.dstStn.toNat = some 0) && (tileRefuse (stamped wS 1 p) s1).isNone) = true ∧
      (openEntry (stamped wS 2 p) (List.replicate 512 1) wS).any (fun s1 => (tileRefuse (stamped wS 2 p) s1).isNone) = true ∧ p.poison = 0 ∧
      writePoisons wS (pkgAddr 0 p.addr.toNat) 512 = false) ∧
    (let p : Packet := { wP 0x30 8 1 with oparg := List.replicate 32 7, dflits := 8 }; p.way = {} ∧ p.oparg.length = 32 ∧ p.dflits.toNat ≤ 8 ∧ p.opcode.toNat ∈ opcodes) ∧
    (let e : NiEntry := { req := wP 1 0 1, quar := true }; let s := { wS with ni := [(0, { entries := [(7, e)] })] };
      entryOf s 0 7 = some e ∧ e.req.dstStn = (wP 0 0 1).srcStn ∧ e.quar = true ∧ (wP 0 0 1).reqEpoch.toNat = (niOf s 0).epoch) ∧
    (let e : NiEntry := { req := wP 1 0 1, deferred := true }; let s := { wS with ni := [(0, { entries := [(7, e)] })] };
      entryOf s 0 7 = some e ∧ e.quar = false ∧ e.use = .plain ∧ e.deferred = true ∧ e.req.opcode = 1 ∧ (0x10 : Byte) ≠ 0x11 ∧
      e.req.way = {} ∧ e.req.srcStn.toNat = 0 ∧ e.req.txid = 7 ∧ e.req.reqEpoch.toNat = (niOf s 0).epoch ∧ stationTile s e.req.dstStn.toNat = some 0 ∧
      (openEntry (stamped s 1 e.req) [] s).any (fun s1 => (tileRefuse (stamped s 1 e.req) s1).isNone) = true) ∧
    (let e (o : BitVec 6) (u : NiUse) : NiEntry := { req := { wP 0 0 1 with opcode := o }, deferred := true, use := u };
      let s (o : BitVec 6) (u : NiUse) := { wS with ni := [(0, { entries := [(7, e o u)] })] };
      (∀ o ∈ ([2, 3, 4, 5, 6, 0x22] : List (BitVec 6)), entryOf (s o .plain) 0 7 = some (e o .plain)) ∧
      (∀ u ∈ [NiUse.stream 1 0 0, .coll 0 1 2, .gather 0 8 0 1, .post, .host, .link false 0 0 0], entryOf (s 7 u) 0 7 = some (e 7 u))) ∧
    entryOf wS 0 7 = none := by decide +kernel
/-- The package with one channel trained. -/
def wBst (retry : List BurstRetry) : State :=
  { wS with
    bst := { present := 1, density := 1, chans := [(0, { st := .trained, retry := retry })], units := 1 }
    parts := [(0, { st := .running, prec := { tiles := [0], bstBase := 0, bstSize := 0x4000000 } })] }
theorem witness_BoardStore :
    (let s := wBst []; let p := wP 0 384 128;
      (openEntry (stamped s 3 p) [] s).any (fun s1 => (cacheRefuse (stamped s 3 p) s1).isNone && decide ((bstRead 0 0 384 128 s1).2.code = 0x01)) = true ∧
      (openEntry (stamped s 4 p) [1] s).any (fun s1 => (cacheRefuse (stamped s 4 p) s1).isNone && decide ((bstWrite 0 0 384 [1] true s1).2 ≠ 0x10)) = true) ∧
    (let s := wBst []; let p := { wP 0 384 128 with dstStn := 1120 };
      p.dstStn.toNat = 1120 + (0 : Chan).val ∧ (openEntry (stamped s 5 p) [] s).any (fun s1 => (chanRefuse (stamped s 5 p) s1).isNone) = true ∧
      (openEntry (stamped s 6 p) [] s).any (fun s1 => (chanRefuse (stamped s 6 p) s1).isNone) = true) ∧
    (let s := wBst []; (tabGet {} 0 s.bst.chans).st = .trained ∧ (tabGet {} 0 s.bst.chans).retry = []) ∧
    (let s := wBst [{ tries := 2 }]; (tabGet {} 0 s.bst.chans).st = .trained ∧ (tabGet {} 0 s.bst.chans).retry = [{ tries := 2 }]) ∧
    ((0x80 : Word).getLsbD 7 = true ∧ wS.bst.flush = none ∧ { wS with bst := { flush := some none } }.bst.flush = some none) ∧
    phyReady { wBst [] with bst := { (wBst []).bst with flush := some none } } = true := by decide +kernel
/-- The package in which tile 0 has posted a solver block of opcode `op`, and a sequencer with commands. -/
def wSolv (op : Byte) (cmds : List SolvCmd) (slot : SlotState) : State :=
  { wS with
    posts := [{ tile := 0, kind := .solv, off := 0x1FFFFC0, die := 3 }]
    mem := [(0x1FFFFC0, op)]
    solv := [(3, { cmds := cmds, slots := [(0, { st := slot, prob := { dies := [(3, 0)] } })] })] }
/-- Eight running commands, and as many that are queued as may be. -/
def wBusy : List SolvCmd := List.replicate 8 { part := 1, running := true } ++ List.replicate 15 { part := 0 } ++ List.replicate 48 { part := 1 }
theorem witness_SolverPosts :
    let s := wSolv 6 wBusy .free
    let x : Post := { tile := 0, kind := .solv, off := 0x1FFFFC0, die := 3 }
    let q := (solvOf s 3).cmds.filter fun c => !c.running
    PostGoes s 0 x ∧ x.kind = .solv ∧ ownerOf s 0 = some 0 ∧ x.off + 64 ≤ workBytes s 0 ∧
    anyBad s (pkgAddr 0 x.off) 64 = false ∧ (part s 0).st = .running ∧ (part s 0).stopping = false ∧ q.length < 64 ∧ (q.filter fun c => c.part = 0).length < 16 ∧
    8 ≤ (solvOf s 3).cmds.countP (fun c => c.running) ∧ (memByte s (pkgAddr 0 x.off)).toNat = 6 := ⟨goes_meets (by decide +kernel), by decide +kernel⟩
/-- A running command of opcode `op` with number 7, with its deadline. -/
def wCmd (op : Byte) (dl : Byte) (endAs : Option Byte) : SolvCmd :=
  { seq := 7, tile := 0, running := true, endAs := endAs, blk := op :: List.replicate 15 0 ++ dl :: List.replicate 47 0 }
/-- A problem on tile 0 in slot 0 of sequencer 3, which the command `c` uses; its solution has a converted copy or not. -/
def wProb (c : SolvCmd) (copy : Byte) (x : TileSt) : State :=
  { wSolv 0 [] .busy with
    mem := []
    tiles := [(0, x)]
    solv := [(3, { cmds := [c], slots := [(0, { st := .busy, prob := { tiles := [0], dies := [(3, 0)], desc := List.replicate 106 0 ++ [copy] ++ List.replicate 149 0 } })] })] }
theorem witness_SolverEnds :
    (∀ op ∈ ([1, 2, 3, 4, 5, 6] : List Byte), let c := wCmd op 0 none; let s := wProb c 0 {}; let pr := (slotOf s 3 c.slot).prob;
      (solvOf s 3).cmds = [c] ∧ c.running = true ∧ c.seq = (7 : BitVec 16).toNat ∧ engineGated s = false ∧ c.fin = none ∧ c.endAs = none ∧ cmdOp c = op.toNat ∧
      c.slot < 64 ∧ memByte s (pkgAddr c.tile (cmdArg c) + 2) ≠ 1 ∧ dOutCopy pr.desc = false ∧ seqPending s 3 c pr = false ∧
      cmdCpl c + 64 ≤ workBytes s c.part ∧ cmdCpl c % 64 = 0) := by decide +kernel
theorem witness_SolverEnds_forced :
    engineGated { wProb (wCmd 3 0 none) 0 {} with pwr := { sleep := .idle } } = true ∧
    (let c := { wCmd 3 0 none with fin := some (.tile 0 0x22 0 false) }; let s := wProb c 0 {}; (solvOf s 3).cmds = [c] ∧ seqPending s 3 c (slotOf s 3 c.slot).prob = false) ∧
    (let c := wCmd 3 0 (some 0x22); let s := wProb c 0 {}; (solvOf s 3).cmds = [c] ∧ c.fin = none ∧ c.endAs = some 0x22 ∧ seqQueued s 3 c (slotOf s 3 c.slot).prob = false) ∧
    (let c := wCmd 3 0 (some 0x22); let s := wProb c 0 { mxq := [{ solv := some (3, 7) }] }; cmdOp c ≠ 1 ∧ seqQueued s 3 c (slotOf s 3 c.slot).prob = true) := by decide +kernel
theorem witness_SolverEnds_late :
    (∀ copy ∈ ([0, 0x80] : List Byte), let c := wCmd 3 1 none; let s := { wProb c copy {} with tick := 1 }; let pr := (slotOf s 3 c.slot).prob;
      (solvOf s 3).cmds = [c] ∧ c.endAs = none ∧ cmdOp c = 3 ∧ deadlineReached s.tick (cmdDeadline c) = true ∧ seqQueued s 3 c pr = false ∧
      (readVec pr (dRhsOff pr.desc) (dFmt pr.desc 104) s).2.2 = none ∧ dOutCopy pr.desc = decide (copy = 0x80)) := by decide +kernel
theorem witness_SolverEnds_tile :
    (let c := wCmd 3 0 none; let e : MxEntry := { solv := some (3, 7), skip := some 0x23 }; (tile (wProb c 0 { mxq := [e] }) 0).mxq = [e] ∧ e.solv = some ((3 : Die).val, c.seq)) ∧
    (let c := wCmd 3 0 none; let e : StEntry := { solv := some (3, 7) }; let s := wProb c 0 { stq := [e], stRun := true };
      (tile s 0).stq = [e] ∧ e.solv = some ((3 : Die).val, c.seq) ∧ (tile s 0).stRun = true) ∧ (0x41 : Byte) ≠ 0x01 ∧ (0x41 : Byte) ≠ 0x02 := by decide +kernel
theorem witness_Housekeeping :
    (tile (wTile { scrubFix := [5] }) 0).scrubFix = 5 :: [] ∧ ({ wS with err := { log := [{}] } }).err.log = {} :: [] ∧
    slotBusy wS (64 : Fin 65) = false ∧ slotBusy wS (0 : Fin 65) = true := by decide +kernel
/-- A state of one domain. -/
def wDom (n : Nat) (x : DomSt) : State := { wS with parts := [], doms := tabSet {} n x wS.doms }
theorem witness_PowerDomains :
    (domSt (wDom 15 { st := .on }) 15 = .on ∧ offAllowed (wDom 15 { st := .on }) 15 = true) ∧
    (domSt (wDom 29 { st := .draining }) 29 = .draining ∧ domBusy (wDom 29 { st := .draining }) 29 = false) ∧
    (let s := wDom 0 { st := .ramping, again := true }; domSt s 0 = .ramping ∧ (tabGet {} 0 s.doms).slow = false ∧ (tabGet {} 0 s.doms).again = true ∧ ownerOf s 63 = none) ∧
    (let s := wDom 0 { st := .ramping, slow := true }; domSt s 0 = .ramping ∧ (tabGet {} 0 s.doms).slow = true) ∧
    (let s := wDom 0 { st := .ramping }; domSt s 0 = .ramping ∧ (tabGet {} 0 s.doms).slow = false ∧ (tabGet {} 0 s.doms).again = false) ∧
    (let s := wDom 27 { st := .draining }; domSt s 27 = .draining ∧ domBusy s 27 = false ∧ ∀ m ∈ bankPorts (27 - 24), portUp s m = false) ∧
    (let s := { wDom 27 { st := .draining } with ports := [(27, { st := .active })] }; domBusy s 27 = false ∧ ∃ m ∈ bankPorts (27 - 24), portUp s m = true) ∧
    (domSt wS 29 = .on ∧ collQuiet wS = true ∧ collQuiet (wDom 29 { st := .on }) = true ∧ domSt (wDom 29 {}) 29 ≠ .on) ∧
    (domSt wS 0 = .on ∧ offAllowed wS 0 = false ∧ domSt wS 0 ≠ .draining ∧ domSt wS 0 ≠ .ramping) := by decide +kernel
/-- A port 27 as `x` gives it. -/
def wPort (x : PortSt) : State := { wS with ports := [(27, x)] }
theorem witness_LinkFrames :
    let x : PortSt := { st := .active, rxSeq := 0xFFFF, rxCount := 4, nak := true, replay := [{ seq := 3 }] }
    portUp (wPort x) 27 = true ∧
    (let f : Frame := { seq := 0, fcount := 5 }; Machine.frameOk x f = true ∧ (f.seq.toNat + 65536 - x.rxSeq % 65536) % 65536 = 1) ∧
    (let f : Frame := { seq := 0x7FFF, fcount := 5 }; Machine.frameOk x f = true ∧ 0x8000 ≤ (f.seq.toNat + 65536 - x.rxSeq % 65536) % 65536) ∧
    (let f : Frame := { seq := 1, fcount := 5 }; Machine.frameOk x f = true ∧ 1 < (f.seq.toNat + 65536 - x.rxSeq % 65536) % 65536 ∧
      (f.seq.toNat + 65536 - x.rxSeq % 65536) % 65536 < 0x8000) ∧
    (let f : Frame := { seq := 0, fcount := 5, fcsOk := false }; Machine.frameOk x f = false ∧ x.encrypted = false) ∧
    (let f : Frame := { seq := 0, ack := 3, fcount := 5, credit := [1, 0, 0, 0] }; Machine.frameOk x f = true ∧ f.swapReq = false ∧ f.nak = false ∧ x.txq = []) ∧
    x.nak = true ∧ x.replay ≠ [] := by decide +kernel
/-- The record of a cell partner in slot 1 of the cell at tier 0, cell 0. -/
def wPeer : List Byte := [0, 1, 0, 0, 0x2A, 0, 1, 0, 1, 0, 0, 1] ++ List.replicate 52 0
theorem witness_LinkTraining :
    (9 ≤ popCount 10 (0x1FF : BitVec 10).toNat ∧ popCount 10 (0xFF : BitVec 10).toNat < 9) ∧ (dataLanes 9 0x1FF = true ∧ dataLanes 9 0xFF = false) ∧
    (let s := { wPort { st := .check, role := 1, peer := wPeer } with cell := { located := true, slot := some 0 } }; (port s 27).st = .check ∧ checkPeer s 27 = none) ∧
    checkPeer (wPort { st := .check, role := 1, peer := wPeer }) 27 = some 9 ∧
    (∃ k, ({ wPort { st := .key } with sec := { fabric := some k } }).sec.fabric ≠ none) ∧
    (port (wPort { st := .negotiate, peer := wPeer }) 27).peer ≠ [] ∧ (port (wPort { st := .key, keyOk := true }) 27).keyOk = true ∧
    inAttempt { st := .activate } = true ∧ (port (wPort { st := .detect, beacon := true, present := true }) 27).beacon = true ∧
    (port (wPort { st := .down }) 27).st = .down ∧ (port (wPort { closing := true }) 27).closing = true ∧ portWanted { wPort { closing := true, role := 1 } with regs := [(aImgActive, 1)] } 27 = true ∧
    (port (wPort { st := .detect, present := true }) 27).st = .detect ∧ (port (wPort { st := .laneMap, remap := true }) 27).remap = true ∧ (port (wPort {}) 27).present = false ∧
    (let s := wPort { st := .active, rxSpare := true, minor := 1, rxIdle := 9 }; (port s 27).st = .active ∧ (0 : Fin 10).val ≠ (port s 27).rxIdle ∧
      (9 : Fin 10).val = (port s 27).rxIdle ∧ (port s 27).rxSpare = true ∧ (port s 27).swapReq = none ∧ (port s 27).rxSwap = none ∧
      getB { s with regs := [(aLnkCtrl 27, 4)] } (aLnkCtrl 27) 2 = true) :=
  by refine ⟨by decide +kernel, by decide +kernel, by decide +kernel, by decide +kernel, ⟨(0, []), by decide +kernel⟩, ?_⟩; decide +kernel
/-- The package of slot 0 in a cell, its map `m`, its direct link to slot 1 on port 27, and a record from slot 1. -/
def wCell (m : Option CellMap) (at0 : Nat) : State :=
  { wPort { st := .active, role := 1, peer := wPeer } with cell := { located := true, slot := some at0, map := m } }
def wMap : CellMap := { term := 1, gen := 1, mgr := 0, slots := [0, 1] ++ List.replicate 14 31 }
def wMap2 : List Byte := [2, 1, 1, 0, 2, 0, 0, 0, 0, 1] ++ List.replicate 22 31
theorem witness_Cell :
    mgmtReady { wS with mgt := { eid := 9 } } = true ∧ ([0, 0, 0] : List Byte).any (fun b => b != 0) = false ∧ (0x77 : Byte).toNat ∉ vdmNamed ∧ (17 : Byte).toNat ≤ 17 ∧ (1 : Byte).toNat ≤ 1 ∧ wS.cell.located = false ∧ 17 < (18 : Byte).toNat ∧
    (let s := { wCell none 17 with mgt := { eid := 9 } }; mgmtReady s = true ∧ s.cell.located = true ∧ s.cell.tier = (0 : Byte).toNat ∧ s.cell.slot = some (17 : Byte).toNat) ∧
    (let s := wCell none 0; recordsOn s = true ∧ portSlot s 27 = some 1 ∧ leAt (recOf [1, 1, 0, 2]) 0 1 = 1 ∧ leAt (recOf [1, 1, 0, 2]) 1 1 = 1 ∧
      s.cell.slot ≠ some 17 ∧ s.cell.map = none ∧ isManager s = true ∧ formDue s = false ∧ lostDue s 17 = false ∧ lostDue { s with tick := 2000000 } 17 = true) ∧
    (let s := { wCell none 0 with tick := 100000000000, cell := { located := true, slot := some 0, linkedAt := some 0 } }; s.cell.map = none ∧ isManager s = true ∧ formDue s = true) ∧
    (recWaiting (fun _ => true) (recOf wMap2) (wCell (some wMap) 0) = none ∧
      let e : NiEntry := { req := { opcode := 0x22, dstStn := 1134, oparg := recOf wMap2 }, flight := true };
      recWaiting (fun _ => true) (recOf wMap2) { wCell (some wMap) 0 with ni := [(1119, { entries := [(3, e)] })] } = some e.req) ∧
    (let s := wCell (some wMap) 0; leAt (recOf wMap2) 0 1 = 2 ∧ (mapOf (recOf wMap2)).mgr ≤ 17 ∧ mapHigher s (mapOf (recOf wMap2)) = true) ∧
    (let s := wCell (some { wMap with gen := 2, mgr := 1 }) 0; mapHigher s (mapOf (recOf wMap2)) = false ∧ mapHeld s (mapOf (recOf wMap2)) = true) ∧
    (let s := wCell (some { wMap with gen := 2, mgr := 0 }) 0; mapHigher s (mapOf (recOf wMap2)) = false ∧ mapHeld s (mapOf (recOf wMap2)) = false) ∧
    (let s := wCell (some wMap) 0; isManager s = true ∧ leAt (recOf [3, 1, 1, 0, 1, 0]) 0 1 = 3 ∧ leAt (recOf [3, 1, 1, 0, 1, 0]) 2 2 = wMap.term ∧
      leAt (recOf [3, 1, 1, 0, 1, 0]) 4 2 = wMap.gen ∧ leAt (recOf [3, 1, 1, 0, 1, 0]) 1 1 ∉ s.cell.acks) ∧
    (let s := { wCell (some { wMap with full := true }) 0 with
        cell := { located := true, slot := some 0, map := some { wMap with full := true }, carry := [26] }
        ports := [(26, { st := .down, role := 2 }), (27, { st := .active, role := 3 })] };
      inMaint s = false ∧ (26 : Nat) ∈ s.cell.carry ∧ (port s 26).role = 2 ∧ portUp s 26 = false ∧
      allPorts.find? (fun m => portUp s m && decide ((port s m).role = 3) && !s.cell.carry.contains m) = some 27) := by decide +kernel
/-- The package in which tile 0 has posted the descriptor of a collective of two members with counts 8 and 8. -/
def wColl (op : Byte) (vlen : Byte) : State :=
  { wS with
    parts := [(0, { st := .running, prec := { tiles := [0], collUnits := 1, peerMask := 1, audit := 1 } })]
    posts := [{ tile := 0, kind := .coll, off := 0 }]
    mem := [(0, op), (2, 2), (4, 5), (8, 64), (17, vlen), (28, 8), (32, 32), (40, 128), (49, 1), (64, 0), (68, 1), (128, 8), (136, 8)].filter fun e => decide (e.2 ≠ 0) }
theorem witness_CollectivePosts :
    (∀ op ∈ [1, 2, 3, 4, 5, 6, 7, 8], let s := wColl (BitVec.ofNat 8 op) 1; let b := memBytes s 0 64
      goes s { tile := 0, kind := .coll, off := 0 } = true ∧ ownerOf s 0 = some 0 ∧ 64 ≤ workBytes s 0 ∧
      anyBad s 0 64 = false ∧ (part s 0).st = .running ∧ collQueued s < 256 ∧ (collPart s 0).queue.length < 4 ∧ (memByte s 0).toNat = op ∧
      collFails s 0 b (collOf b 0) = none ∧ anyBad s (pkgAddr 0 (leAt b 8 8)) (4 * leAt b 2 2) = false ∧
      anyBad s (pkgAddr 0 (collOf b 0).countOff) (8 * leAt b 2 2) = false ∧ (collPart s 0).fence = false) ∧
    (let s := wColl 5 0; let b := memBytes s 0 64; collFails s 0 b (collOf b 0) = some (cFormat, 1)) := by decide +kernel
/-- The package in which the collective `c` of partition 0 runs. -/
def wRun (c : Coll) : State := { wColl 0 0 with posts := [], mem := [], coll := { parts := [(0, { run := some { c with fence := some 0 }, fence := true, held := true, nextSeq := 3 })] } }
def wTwo : Coll := { ctag := 5, seq := 2, vlen := 128, dst := 8, cpl := 256, members := [{}, { rank := 1 }], me := 0 }
/-- A packet of a member whose tag the partition admits, and of one that it does not. -/
theorem witness_CollectiveRounds_served (b : Nat) :
    ({} : Sender).way = {} ∧ bitOf (part (wRun wTwo) 0).prec.peerMask (0 : BitVec 7).toNat = true ∧ unitGate 1132 b (wRun wTwo) = none ∧
    (part (wRun wTwo) 0).st = .running ∧ (∀ e, e < 4 → (solvOf (wRun wTwo) e).cmds = []) ∧ unitState (wRun wTwo) 1132 ≠ .failed ∧
    bitOf (part (wRun wTwo) 0).prec.peerMask ({ tag := 0x40 } : Sender).tag.toNat = false := ⟨rfl, by decide +kernel, rfl, rfl, by decide +kernel, by decide +kernel, by decide +kernel⟩
theorem witness_CollectiveRounds :
    (let s := { wRun wTwo with
        parts := [(0, { st := .running, prec := { tiles := [0], peerMask := 1 } })]
        tiles := [(0, { core := { run := .stopped } })]
        coll := { parts := [(0, { held := true, queue := [{ wTwo with op := 7 }] })] } };
      unitState s 1132 = .active ∧ (part s 0).st = .running ∧ (∀ e, e < 4 → (solvOf s e).cmds = []) ∧ (collPart s 0).held = true ∧
      (collPart s 0).fence = false ∧ (collPart s 0).run = none ∧ (collPart s 0).queue = [{ wTwo with op := 7 }] ∧ fenceReady s 0 = true ∧
      wTwo.ready = [] ∧ wTwo.reads = [] ∧ pendFor s 0 wTwo.ctag = [] ∧ (∀ m ∈ wTwo.members, otherCell s m = false) ∧ ∃ i, i < nOf wTwo ∧ i ≠ wTwo.me) ∧
    (let c : Coll := { wTwo with op := 7 }; let s := wRun c; collRunning s 0 (5 : BitVec 32).toNat = some { c with fence := some 0 } ∧ 1 < nOf c ∧ 1 ≠ c.me ∧
      bitOf (part s 0).prec.peerMask (c.members.getD 1 {}).part = true ∧ allReady { c with ready := c.ready ++ [(1, 0)] } = true ∧ (collPart s 0).queue = [] ∧
      (0 : Nat) = c.hash ∧ (128 : Word).toNat = c.vlen ∧ (1 : BitVec 16).toNat = tileCount s 0 ∧ invarOf s 0 = false ∧
      allReady { c with members := [{}, { rank := 1 }, { rank := 2 }], ready := c.ready ++ [(1, 0)] } = false) ∧
    (let s := wRun wTwo; collRunning s 0 (6 : BitVec 32).toNat = none ∧ s.coll.pend.length < 1024) ∧
    (let c : Coll := { wTwo with op := 3, ready := [(1, 0)], sentTo := [1] }; let s := wRun c; collRunning s 0 5 = some { c with fence := some 0 } ∧
      c.ready.any (fun e => decide (e.1 = 1)) = true ∧ (phasePeers c).all (fun i => c.sentTo.contains i) = true ∧ c.phase = ({} : CollData).phase ∧ c.early = [] ∧
      ∃ i ∈ phaseSenders c, tabGet 0 i c.dones < donesNeeded c) ∧
    (let c : Coll := { wTwo with op := 3 }; c.ready.any (fun e => decide (e.1 = 1)) = false) ∧
    (let c : Coll := { wTwo with op := 6, root := 1, ready := [(1, 0)] }; let s := wRun c; collRunning s 0 5 = some { c with fence := some 0 } ∧
      c.me ≠ c.root ∧ c.phase = 1 ∧ c.ready.any (fun e => decide (e.1 = 1)) = true ∧ ({ index := 1 } : Sender).index = c.root ∧ s.coll.outq = [] ∧
      (collPart s 0).run = some { c with fence := some 0 }) := by decide +kernel
/-- A digest of one region of working memory: 64 bytes at 0 of tile 0, in a list at 64, its record at 256. -/
def wDig : State :=
  { wColl 0 0 with
    posts := [{ tile := 0, kind := .dig, off := 0 }]
    mem := [(0, 1), (5, 1), (8, 64), (17, 1), (64, 1), (80, 64)] }
def wDigCmd : DigCmd := { part := 0, tile := 0, step := 0, blk := memBytes wDig 0 64, seq := 1 }
theorem witness_DigestsAndSteps :
    (let s := wDig; goes s { tile := 0, kind := .dig, off := 0 } = true ∧ s.dig.countP (fun c => decide (c.part = 0)) < 4 ∧ ownerOf s 0 = some 0 ∧ 64 ≤ workBytes s 0 ∧ anyBad s 0 64 = false ∧
      s.dig.length < 64 ∧ digFails s wDigCmd = none) ∧
    (let s := { wDig with dig := [wDigCmd] }; let rs := regionList s wDigCmd; let m := digCounts wDigCmd;
      (∀ r ∈ rs, r.kind ≠ 2) ∧ digUse wDigCmd = false ∧ digSave wDigCmd = false ∧ anyBad s (pkgAddr 0 64) 32 = false ∧ digCpl wDigCmd + 256 ≤ workBytes s 0 ∧
      digCpl wDigCmd % 64 = 0 ∧ (digGroup 0 (rs.take m.1) s).2.2 = 0x01 ∧ (digGroup 0 ((rs.drop m.1).take m.2.1) s).2.2 = 0x01 ∧
      (digGroup 0 (rs.drop (m.1 + m.2.1)) s).2.2 = 0x01) ∧
    (tile wS 0).step ≠ BitVec.allOnes 64 ∧
    (let s := wTile { step := BitVec.allOnes 64 }; (tile s 0).step = BitVec.allOnes 64 ∧ ownerOf s 0 = some 0 ∧ (part s 0).st = .running) ∧
    (part { wS with parts := [(0, { st := .stopped })] } 0).st = .stopped := by decide +kernel
/-- The package with its caps and two RUNNING partitions of other priority. -/
def wPwr : State :=
  { wS with
    parts := [(0, { st := .running, prec := { tiles := [0], priority := 1, powerShare := 100 } }), (1, { st := .running, prec := { tiles := [1], priority := 2 } })]
    pwr := { pm := 6000000 } }
/-- A manager in slot 0 whose cell has two holders: itself, which has waited, and slot 1, which has waited longer. -/
def wShift : State :=
  { wCell (some wMap) 0 with
    regs := [(aPwrCtrl, 0x0101000001000000), (aPwrCap, 5200), (aCollWait 0, 1000)]
    coll := { parts := [(0, { lastSeq := 1 })] }
    cell := { located := true, slot := some 0, map := some wMap
              know := [(1, { recv := some 0, body := [1, 1, 0, 2] ++ List.replicate 20 0 ++ leBytes 2 500 ++ leBytes 2 5200 ++ leBytes 2 5200 ++ [0, 0] })] } }
theorem witness_PowerManagement :
    (let s := wPwr; 16 ≤ s.boot.step ∧ s.boot.ended = true ∧ 1 ≤ s.pwr.duty ∧ s.pwr.duty ≤ 16 ∧ (part s 0).st = .running ∧ 105 * effCap s < 100 * s.pwr.pm ∧
      (∀ q, q < 64 → (part s q).st = .running → (part s 0).prec.priority < (part s q).prec.priority ∨ ((part s 0).prec.priority = (part s q).prec.priority ∧ q ≤ 0))) ∧
    (let s := { wPwr with pwr := {}, parts := [(1, { st := .suspended, suspPower := true, prec := { tiles := [1] } })] };
      (part s 1).st = .suspended ∧ (part s 1).suspPower = true ∧ (part s 1).stopping = false ∧ 100 * (s.pwr.pm + meanEst s 1) < 95 * effCap s ∧ s.pins.halt = false ∧
      (∀ q, q < 64 → (part s q).st = .suspended → (part s q).suspPower = true → (part s q).prec.priority < (part s 1).prec.priority ∨
        ((part s 1).prec.priority = (part s q).prec.priority ∧ 1 ≤ q))) ∧
    partCeiling { wS with fuses := { wS.fuses with speedBin := 1 } } < wfld (0xF0 : Word) 4 4 ∧
    (isManager (waitStep wShift) = true ∧ wShift.cell.map ≠ none ∧ wShift.cell.bases = [] ∧ wShift.cell.rebase = false ∧ getB wShift aPwrCtrl 24 = true ∧ capPairs (waitStep wShift) ≠ []) ∧
    (isManager (waitStep wS) = false) ∧
    (recWaiting (fun _ => true) (recOf [8, 1, 1]) wShift = none ∧ leAt (recOf [8, 1, 1, 0, 0, 0, 0, 0]) 0 1 = 8 ∧ leAt (recOf [8, 1, 1, 0, 0, 0, 0, 0]) 2 2 = wMap.term) := by decide +kernel
theorem witness_Thermal :
    (let h (t : Temps) : Nat := (t.quads.take 16 ++ t.mems.take 4).foldl max 0; (105 ≤ h ⟨[105], []⟩ ∧ h ⟨[105], []⟩ < 115) ∧ h ⟨[104], [104]⟩ < 105 ∧ 115 ≤ h ⟨[0], [115]⟩) ∧
    wS.pwr.thermCap = none ∧ getB wS aPwrTherm 0 = false ∧ getF { wS with regs := [(aPwrTherm, 9)] } aPwrTherm 3 2 ≠ 2 ∧ State.reset.pins.coolant = !({ wS with pins := { coolant := !State.reset.pins.coolant } }).pins.coolant ∧
    (let s := { wS with tick := 5000000000, regs := [(aPwrTherm, 9)], pins := { coolant := true }, pwr := { sleep := .dark } };
      thermClearable s = true ∧ s.pwr.paused = false ∧ s.boot.now.outcome ≠ 3 ∧ s.pwr.sleep = .dark) ∧
    (let s := { wS with tick := 5000000000, regs := [(aPwrTherm, 9)], pins := { coolant := true }, pwr := { paused := true } }; thermClearable s = true ∧ s.pwr.paused = true) ∧
    thermClearable wS = false ∧ wS.pins.halt = false ∧ { wS with pins := { halt := true } }.pins.halt = true ∧
    (part { wS with parts := [(0, { st := .suspended, suspHalt := true })] } 0).suspHalt = true := by decide +kernel
/-- A member of an agreement on Pewter as slot `me` of the cell. -/
def wAgree (me : Nat) (votes : Option (List Nat)) : State :=
  { wCell (some wMap) me with pwr := { prepared := some 2, agr := 1, agrTerm := 1, target := 2, asked := [0, 1, 2], votes := votes } }
theorem witness_Sleep :
    (let s := { wS with parts := [] }; awake s = true ∧ s.boot.ended = true ∧ noPartLive s = true ∧ s.cell.map = none ∧ pkgQuiet s = true ∧ s.pwr.sleep = .active) ∧
    noPartLive wS = false ∧
    (let s := { wS with pwr := { sleep := .entering 3 } }; s.pwr.sleep = .entering 3 ∧ s.pwr.wakeHeld = false ∧ (∀ n, n < 30 → domSt s n = .draining → domOutstanding s n = false) ∧ banksUp s = []) ∧
    (let s := { wDom 24 { st := .draining } with pwr := { sleep := .entering 3 }, ni := [(1092, { entries := [(1, {})] })] }; domSt s 24 = .draining ∧ domOutstanding s 24 = true) ∧
    (let s := { wS with regs := [(aPwrWakeTime, 1)], pwr := { sleep := .dark } }; getB s aPwrTherm 0 = false ∧ s.pwr.prepared = none ∧ reg s aPwrWakeTime ≠ 0) ∧
    reg wS aPwrWakeTime = 0 ∧
    (let s := { wS with pwr := { sleep := .exiting 3 } }; s.pwr.sleep = .exiting 3 ∧ ∀ n, n < 30 → domSt s n = .ramping → (tabGet {} n s.doms).slow = false) ∧
    (let s := { wCell (some wMap) 1 with parts := [] }; recWaiting (fun _ => true) (recOf [4, 0, 1, 0, 1, 0, 2, 0]) s = none ∧ pkgQuiet s = true ∧ awake s = true ∧ s.cell.map ≠ none ∧ isManager s = false ∧ s.pwr.votes = none ∧
      s.cell.located = true ∧ leAt (recOf [4, 0, 1, 0, 1, 0, 2, 0]) 0 1 = 4 ∧ leAt (recOf [4, 0, 1, 0, 1, 0, 2, 0]) 1 1 ≤ 17) ∧
    (let s := wAgree 0 (some [0]); s.pwr.votes = some [0] ∧ inAgreement s (recOf [5, 1, 1, 0, 1, 0, 1, 0]) = true ∧ leAt (recOf [5, 1, 1, 0, 1, 0, 1, 0]) 1 1 ∈ s.pwr.asked ∧
      leAt (recOf [5, 1, 1, 0, 1, 0, 1, 0]) 6 2 = 1 ∧ ¬ (1 : Nat) ∈ [0] ∧ (∃ k ∈ s.pwr.asked, k ≠ 1 ∧ k ∉ [0])) ∧
    (let s := wAgree 0 (some [0, 2]); s.pwr.votes ≠ none ∧ 2 ≤ s.pwr.target ∧ ∀ k ∈ s.pwr.asked, k = 1 ∨ k ∈ [0, 2]) ∧
    (let s := wAgree 1 none; inAgreement s (recOf [6, 0, 1, 0, 1, 0]) = true ∧ inAgreement s (recOf [7, 0, 1, 0, 1, 0]) = true ∧ s.pwr.votes = none ∧
      s.pwr.prepared ≠ none ∧ 2 ≤ s.pwr.target) := by decide +kernel
/-- A response in the time base: request at 0, answered at 10 and 10, which arrives at 0. -/
def wTime : List Byte := [10, 0, 1, 0] ++ List.replicate 12 0 ++ leBytes 8 10 ++ leBytes 8 10
theorem witness_ClocksAndResets :
    wS.pins.powered = true ∧ inReset wS = false ∧ (part wS 0).st = .running ∧ (∃ t ∈ (part wS 0).prec.tiles, dieOf t = 0) ∧
    portUp (wCell none 0) 27 = true ∧ (44 : Fin 45).val - 17 = 27 ∧ wS.clk.half = 0 ∧ wS.clk.held = false ∧
    (let x : TileSt := { phaseAcc := 900, dutyAcc := 4 }; x.phaseAcc < 1800 ∧ 600 ≤ 1800 ∧ x.phaseAcc + 600 < 1800 ∧ 1800 ≤ x.phaseAcc + 900 ∧ x.dutyAcc < 16) ∧
    (let s := wCell (some wMap) 1; followsTick s = true ∧ recordsOn s = true ∧ leAt (recOf wTime) 0 1 = 10 ∧ leAt (recOf wTime) 1 1 = wMap.mgr ∧
      leAt (recOf wTime) 2 2 = wMap.term ∧ s.clk.half = 0 ∧ s.clk.waiting = false) ∧
    (let s := { wCell (some wMap) 1 with clk := { waiting := true, slew := -1 }, parts := [] }; s.clk.waiting = true ∧ noneLive s = true ∧ s.clk.slew ≠ 0) ∧
    (isManager (wCell (some wMap) 0) = true ∧ leAt (recOf [9, 17]) 0 1 = 9 ∧ leAt (recOf [9, 17]) 1 1 ≤ 17) ∧
    ((0x3FFFFFFF : BitVec 32).toNat / 2 ^ 28 = 3 ∧ unitHere wS (0x3FFFFFFF : BitVec 32).toNat = true) ∧
    (inReset { wS with boot := {} } = true ∧ ({ wS with boot := {} }).boot.cold = true) ∧
    (unitExists wS 1023 = true ∧ unitExists wS 0x1000000F = true ∧ unitExists wS (0x20000003 : BitVec 32).toNat = true ∧
      (0x20000003 : BitVec 32).toNat / 2 ^ 28 < 3 ∧ wS.resets = []) ∧
    (({ wS with boot := {} }).boot.cold = true ∧ wS.boot.ended = true ∧ ({ wS with boot := { cold := false } }).boot.cold = false ∧ ({ wS with boot := { cold := false } }).boot.ended = false) ∧
    recWaiting (fun _ => true) (recOf wTime) (wCell (some wMap) 1) = none ∧ unitFailed wS 63 = false ∧ unitFailed (wDom 0 { st := .failed }) 63 = true ∧
    (∃ t ∈ (part wS 0).prec.tiles, t ∈ unitTiles 0x20000000) ∧
    ([0x20000000] : List Nat).find? (fun x => unitContains x (63 : BitVec 32).toNat) = some 0x20000000 ∧
    (let q : Packet := { vc := 0, srcStn := 0, dstStn := 1134, dstUnit := 0x3FFFFFFF, txid := 7 }; (openEntry (stamped wS 0x22 q) [] wS).isSome = true) ∧
    wdogRuns { wS with regs := [(aClkWdog, 1)], kick := some 0 } = true := by decide +kernel
/-- A package that starts, in the step `k`. -/
def wBoot (k : Nat) (latest : Option JRec) : State := { State.reset with boot := { step := k, latest := latest } }
theorem witness_Start :
    (∀ k ∈ [1, 4, 16], let s := wBoot k none; bootRuns s = true ∧ (0 : BitVec 32).toNat &&& bootInstances k = 0 ∧ rampFailures k s &&& bootInstances k = 0 ∧ bootAlts s k = 0 ∧ bootSkips s k = 0 ∧
      bootInstances k &&& (bootInstances k - bootSkips s k) ≠ 0) ∧
    (let s := wBoot 9 (some { steps := [(9, { result := 2, fails := 2 })] }); bootRuns s = true ∧ bootMandatory 9 = true ∧ 2 ≤ (prevEnt s 9).fails ∧
      bootInstances 9 &&& (bootInstances 9 - bootSkips s 9) ≠ 0) ∧
    crowdedQuads {} (wBoot 8 none) = 0 ∧
    (let s := wBoot 4 (some { steps := [(4, { result := 2, mask := 3 })] }); bootAlts s 4 ≠ 0) ∧
    ({ wS with pins := { powered := false } }).pins.powered = false ∧ domPowered wS 28 = true ∧ (∃ n ∈ [0, 1, 2, 3, 16, 20], domPowered wS n = true) ∧
    (∀ n ∈ [0, 1, 2, 3, 16, 20], domPowered { wS with doms := [] } n = false) := by decide +kernel
/-- The package with its window open to the host. -/
def wHost (h : HostSt) : State :=
  { wS with parts := [(0, { st := .running, prec := { tiles := [0], hostWindow := 3 } })], regs := [(aGlbHostStatus, 1), (aImgActive, 1)], host := h }
theorem witness_HostPort :
    (let s := wHost {}; let w := countCorrected { corrected := 1 } (wakeCause 1 s); hostLive s = true ∧ 0x1FFFE00 % 512 + 512 ≤ 512 ∧ readBlocked w = false ∧
      spAdmit w false 0x1FFFE00 512 = none ∧ unitGate (tileStation w (0x1FFFE00 / sliceBytes)) 1 w = none ∧ spAdmit w true 0x1FFFE00 512 = none ∧
      writePoisons w 0x1FFFE00 512 = false ∧ spAdmit w true 0x2000000 1 = some cPart ∧ ({ hdr := .bad } : Transit).hdr ≠ .ok ∧ s.host.wait = [] ∧ linkUp s = true ∧ s.host.ltrEnable = false ∧ ownerOf s 0 = some 0 ∧ (30 : BitVec 5).toNat < 31 ∧ s.host.vecPend = []) ∧
    hostTrains wS = true ∧
    (let a : HostAcc := { write := true, off := aGlbHostStatus }; let s := { wHost { accs := [(7, a)] } with ni := [(1133, { entries := [(7, { deferred := true, use := .host })] })] };
      (entryOf s 1133 7).any (fun e => e.deferred) = true ∧
      tabFind (7 : BitVec 16).toNat s.host.accs = some a ∧ a.bar2 = false ∧ bar0Gate s a.off = none) ∧
    (let a : HostAcc := { off := wTileReg }; let s := { wHost { accs := [(7, a)] } with resets := [0] };
      tabFind (7 : BitVec 16).toNat s.host.accs = some a ∧ bar0Gate s a.off = some 0x10 ∧ a.epoch = linkEpoch s) ∧
    (let s := wHost { msixEnable := true, unmasked := [30] }; s.host.msixEnable = true ∧ s.host.msixMask = false ∧ 32 * 0 + (30 : BitVec 5).toNat ∈ s.host.unmasked) ∧
    (wS.pins.perst = false ∧ linkUp wS = false) := by decide +kernel
/-- The package with its management controller addressed. -/
def wMgt (a e : Nat) : State := { wS with mgt := { addr := a, eid := e, sa := 2 } }
theorem witness_ManagementController :
    (busUp (wMgt 0 0) = true ∧ (wMgt 0 0).mgt.addr = 0 ∧ (0x5A : BitVec 7).toNat = 0x58 + (wMgt 0 0).mgt.sa % 8) ∧ mctpUp (wMgt 9 0) = true ∧ vdmUp (wMgt 9 8) = true ∧
    inReset (wMgt 9 8) = false ∧ (1500 ≤ (1500 : BitVec 16).toNat ∧ (1500 : BitVec 16).toNat ≤ 5600) ∧ regReadable 0x6FFFF8 = true ∧ regReadable 0x100000 = false ∧
    regWritable aClkWdog = true ∧ regWritable 0 = false ∧ inSession true (wMgt 9 8) = false ∧
    mergedAt (wMgt 9 8) = none ∧ mergedAt { wMgt 9 8 with clk := { lastWake := some 0, wakeMhz := [(0, 600)] } } = some 0 ∧
    (let s := { wMgt 9 8 with sec := { sessions := [{ sid := 1, open_ := true }] } }; inSession true s = true ∧ slotBusy s 63 = false ∧ slotBusy s 0 = true ∧
      tabFind (16 + 7) s.fuses.slots = none ∧ reg s aImgActive = 0) ∧
    reg { wMgt 9 8 with regs := [(aImgActive, 1)] } aImgActive ≠ 0 := by decide +kernel
theorem witness_Pldm :
    vdmUp (wMgt 9 8) = true ∧
    (let s := { wMgt 9 8 with mgt := { addr := 9, eid := 8, events := [{ sensor := 1, sends := 4 }, { sensor := 2, sends := 3 }], update := some (1, 1), verified := some 3 } };
      vdmUp s = true ∧ (∀ n, s.mgt.update ≠ some ((2 : BitVec 16).toNat, n)) ∧ s.mgt.update = some ((1 : BitVec 16).toNat, 0 + 1) ∧ s.mgt.verified = some 3 ∧
      s.mgt.events.find? (fun e => e.sensor = 1) = some { sensor := 1, sends := 4 } ∧ s.mgt.events.find? (fun e => e.sensor = 2) = some { sensor := 2, sends := 3 }) :=
  ⟨by decide +kernel, by decide +kernel, by simp, by decide +kernel⟩
theorem witness_Spdm :
    (∀ p ∈ [SpdmPath.mctp, .doe], spdmUp p (wMgt 9 8) = true) ∧ ((wMgt 9 8).sec.sessions.length < 2) ∧
    (let s := { wMgt 9 8 with sec := { sessions := [{ sid := 1, open_ := true }, { sid := 2 }] } };
      2 ≤ (s.sec.sessions.filter fun x => x.doe == decide (SpdmPath.mctp = .doe)).length ∧
      (∃ x ∈ s.sec.sessions, (x.doe == decide (SpdmPath.mctp = .doe)) = true ∧ x.sid = 1 ∧ x.open_ = true) ∧
      ∃ x ∈ s.sec.sessions, (x.doe == decide (SpdmPath.mctp = .doe)) = true ∧ x.sid = 2 ∧ x.open_ = false) := by decide +kernel

/-! ### Ill-formed commands are refused by the check -/

theorem test_wf_access : Instr.wf (.registerWrite (.bar0 4 8) 0 false) = false ∧ Instr.wf (.registerWrite (.bar0 8 4) 0 false) = false ∧
    Instr.wf (.mrd (.bar0 0x4000000 8)) = false ∧ Instr.wf (.counterClear (.bar0 0x4000000 8) 0) = false ∧ Instr.wf (.registerWrite (.bar0 0x3FFFFF8 8) 0 false) = true := by decide
theorem test_wf_packets : Instr.wf (.rd { dflits := 1 }) = false ∧ Instr.wf (.crd { dflits := 1 }) = false ∧ Instr.wf (.brd { dflits := 1 } true) = false ∧
    Instr.wf (.wr { dflits := 9 } []) = false ∧ Instr.wf (.cwr { dflits := 1, poison := 2 } [1]) = false ∧ Instr.wf (.bwr { dflits := 1, oparg := [1] } [1] true) = false ∧
    Instr.wf (.rsp {} [1]) = false ∧ Instr.wf (.wr { dflits := 1 } [1]) = true := by decide
theorem test_wf_frames : Instr.wf (.dataFrame 0 {}) = false ∧ Instr.wf (.emptyFrame 0 { slots := [⟨1, .body []⟩] }) = false ∧
    Instr.wf (.closeFrame 0 { credit := [1] }) = false ∧ Instr.wf (.dataFrame 0 { slots := [⟨1, .body [1]⟩] }) = false ∧
    Instr.wf (.dataFrame 0 { slots := [⟨2, .head {}⟩] }) = false ∧ Instr.wf (.dataFrame 0 { slots := List.replicate 9 ⟨1, .head {}⟩ }) = false ∧
    Instr.wf (.trainFrame 0 [] true) = false ∧ Instr.wf (.dataFrame 0 { slots := List.replicate 8 ⟨1, .head {}⟩ }) = true := by decide
theorem test_wf_records : Instr.wf (.member 0 wMap2) = false ∧ Instr.wf (.rankMap (wMap2.drop 1)) = false ∧ Instr.wf (.mapAck wMap2) = false ∧
    Instr.wf (.capSet wMap2) = false ∧ Instr.wf (.sleepPrepare wMap2) = false ∧ Instr.wf (.sleepVote wMap2) = false ∧ Instr.wf (.sleepCommit wMap2) = false ∧
    Instr.wf (.sleepAbort wMap2) = false ∧ Instr.wf (.timeReq wMap2) = false ∧ Instr.wf (.timeRsp []) = false ∧ Instr.wf (.rankMap wMap2) = true := by decide
theorem test_wf_collectives : Instr.wf (.cdata 0 { sender := 4096 }) = false ∧ Instr.wf (.cctlDone 0 { index := 4096 } 0) = false ∧ Instr.wf (.abort 0 { index := 4096 } 0 0) = false ∧
    Instr.wf (.cctlDone 0 { index := 4095 } 0) = true := by decide
theorem test_wf_power : Instr.wf (.controlPeriod [⟨0, 0, []⟩] 0) = false ∧ Instr.wf (.avsSample ⟨[], none⟩) = false ∧ Instr.wf (.thermalRead ⟨[], [1, 2, 3, 4]⟩) = false ∧
    Instr.wf (.bootStepDone { solder := [(64, 0)] }) = false ∧ Instr.wf (.bootStepDone { chanFail := [(12, 1)] }) = false := by decide
theorem test_wf_host : Instr.wf (.bar2Read 0 ⟨0, {}, false⟩) = false ∧ Instr.wf (.bar2Write 0xFFFFFFFFF [1, 2] ⟨false, {}⟩) = false ∧
    Instr.wf (.bar2Read 0 ⟨1, { hdr := .ue 0 }, false⟩) = false ∧ Instr.wf (.bar2Read 0xFFFFFFFFF ⟨1, {}, true⟩) = true := by decide
theorem test_wf_management : Instr.wf (.reset 2) = false ∧ Instr.wf (.fabricKey true 0 []) = false ∧ Instr.wf (.keyInstall true 65 (List.replicate 64 0)) = false ∧
    Instr.wf (.keyInstall true 64 []) = false ∧ Instr.wf (.ownerFuse true 8 (List.replicate 32 0)) = false ∧ Instr.wf (.svnAdvance true 2) = false ∧
    Instr.wf (.requestFirmwareData 1 []) = false ∧ Instr.wf (.challenge .mctp 0 []) = false ∧ Instr.wf (.getMeasurements .doe 1 [1]) = false := by decide

/-! ### One command on a small state: the values are the spec's, or worked out from it by hand -/

/-- The state that a command leaves. -/
def after (i : Instr) (s : State) : State := match exec i s with | .next t => t | .fault _ => State.reset | .refused _ => State.reset
/-- The state that an instruction of tile 0 leaves where its word stands at the program counter. -/
def ran (i : Instr) (s : State) : State := after i (wAt i s)
/-- G1 after a scalar instruction. -/
def g1 (i : Instr) (g : List (Nat × Word)) : Word := getG (ran i (wCore { g := g })) 0 1

/-- R220: arithmetic wraps; a shift takes B[5:0]. -/
theorem test_alu : g1 (.add 0 1 2 3) [(2, BitVec.allOnes 64), (3, 2)] = 1 ∧ g1 (.sub 0 1 2 3) [(3, 1)] = BitVec.allOnes 64 ∧ g1 (.sll 0 1 2 3) [(2, 1), (3, 65)] = 2 ∧
    g1 (.sra 0 1 2 3) [(2, 0x8000000000000000), (3, 63)] = BitVec.allOnes 64 ∧ g1 (.srl 0 1 2 3) [(2, 0x8000000000000000), (3, 63)] = 1 := by decide +kernel
/-- R220: signed and unsigned comparisons differ at the sign bit. -/
theorem test_compare : g1 (.slt 0 1 2 3) [(2, 0x8000000000000000), (3, 1)] = 1 ∧ g1 (.sltu 0 1 2 3) [(2, 0x8000000000000000), (3, 1)] = 0 ∧
    g1 (.min 0 1 2 3) [(2, 0x8000000000000000), (3, 1)] = 0x8000000000000000 ∧ g1 (.minu 0 1 2 3) [(2, 0x8000000000000000), (3, 1)] = 1 := by decide +kernel
/-- R220: (-1) * (-1) = 1, (2^64 - 1)^2 has the high half 2^64 - 2, and (-1) * (2^64 - 1) has the high half -1. -/
theorem test_multiply_high : g1 (.mulhi 0 1 2 2) [(2, BitVec.allOnes 64)] = 0 ∧ g1 (.mulhiu 0 1 2 2) [(2, BitVec.allOnes 64)] = 0xFFFFFFFFFFFFFFFE ∧
    g1 (.mulhim 0 1 2 2) [(2, BitVec.allOnes 64)] = BitVec.allOnes 64 := by decide +kernel
/-- R220: division by zero, the one overflow, and the sign of a remainder. -/
theorem test_divide : g1 (.div 0 1 2 3) [(2, 7)] = 0 ∧ g1 (.rem 0 1 2 3) [(2, 7)] = 7 ∧ g1 (.div 0 1 2 3) [(2, 0x8000000000000000), (3, BitVec.allOnes 64)] = 0x8000000000000000 ∧
    g1 (.rem 0 1 2 3) [(2, 0x8000000000000000), (3, BitVec.allOnes 64)] = 0 ∧ g1 (.rem 0 1 2 3) [(2, 0xFFFFFFFFFFFFFFF9), (3, 2)] = BitVec.allOnes 64 ∧
    g1 (.div 0 1 2 3) [(2, 0xFFFFFFFFFFFFFFF9), (3, 2)] = 0xFFFFFFFFFFFFFFFD := by decide +kernel
/-- R219: immediates are sign-extended, and the upper immediate too. -/
theorem test_immediates : g1 (.addi 0 1 2 0xFFFF) [(2, 0)] = BitVec.allOnes 64 ∧ g1 (.upperImmediate 0 1 1) [] = 0x80000000000 ∧
    g1 (.upperImmediate 0 1 0x100000) [] = 0x8000000000000000 ∧ g1 (.sltiu 0 1 2 0xFFFF) [(2, 5)] = 1 ∧ g1 (.sext8 0 1 2) [(2, 0x180)] = 0xFFFFFFFFFFFFFF80 := by decide +kernel
/-- G0 reads as zero and discards writes (R218). -/
theorem test_g0 : getG (ran (.addi 0 0 2 5) (wCore {})) 0 0 = 0 ∧ getPc (ran (.addi 0 0 2 5) (wCore {})) 0 = 4 := by decide +kernel
/-- R219, R292: memory is little-endian, and a narrow load zero-extends. -/
theorem test_memory : memBytes (ran (.store32 0 1 2 4) (wCore { g := [(1, 0x1122334455667788), (2, 0x100)] })) 0x103 6 = [0, 0x88, 0x77, 0x66, 0x55, 0] ∧
    getG (ran (.load16 0 1 2 0) { wCore { g := [(2, 0x100)] } with mem := [(0x100, 0x80), (0x101, 0xFF)] }) 0 1 = 0xFF80 := by decide +kernel
/-- R219, R235: an access that is misaligned and out of range raises RANGE (2); one inside that is misaligned raises MISALIGN (3). -/
theorem test_access_faults : accessFault wS 0 8 0x1FFFFFC = some 2 ∧ accessFault wS 0 8 4 = some 3 ∧ accessFault wS 0 8 0x1FFFFF8 = none := by decide +kernel
/-- R219, R221: offsets count instructions, and a JR to an address that is no multiple of 4 enters the handler. -/
theorem test_branches : getPc (ran (.beq 0 1 2 0xFF) (wCore { pc := 0x20 })) 0 = 0x1C ∧ getPc (ran (.bne 0 1 2 0xFF) (wCore { pc := 0x20 })) 0 = 0x24 ∧
    getPc (ran (.jal 0 1 2) (wCore { pc := 0x20 })) 0 = 0x28 ∧
    getG (ran (.jr 0 1 2 2) (wCore { pc := 0x20, g := [(1, 5)] })) 0 1 = 5 := by decide +kernel
/-- R236: the handler's entry saves the PC, records the code and sets EXL; RETX goes back and clears EXL (R238). -/
theorem test_handler : (let u := enterHandler 0 6 true 0x20 0 { wCore { pc := 0x20 } with regs := [(aTileEvec 0, 0x400)] }
      reg u (aTileEpc 0) = 0x20 ∧ reg u (aTileEcause 0) = 0x106 ∧ getB u (aTileCoreStatus 0) 0 = true ∧ getPc u 0 = 0x400 ∧
        getPc (ran (.retx 0) u) 0 = 0x20 ∧ getB (ran (.retx 0) u) (aTileCoreStatus 0) 0 = false) := by decide +kernel
/-- V1 after a vector instruction. -/
def v1 (i : Instr) (v : List (Nat × BitVec 512)) : BitVec 512 := getV (ran i (wCore { v := v, g := [(2, 3)] })) 0 1
/-- R232: vector arithmetic wraps within an element. -/
theorem test_vector_wrap : v1 (.vadd 0 1 2 3 0 .s8) [(2, 0xFFFF), (3, 0x0102)] = 0x0001 ∧ v1 (.vmul 0 1 2 3 0 .s16) [(2, 0x00020100), (3, 0x00030100)] = 0x00060000 ∧
    v1 (.vsra 0 1 2 3 0 .s8) [(2, 0x80), (3, 1)] = 0xC0 := by decide +kernel
/-- R231: an inactive element is left as it was. -/
theorem test_vector_mask : getV (ran (.vadd 0 1 2 3 1 .s8) (wCore { v := [(1, 0x0909), (2, 0x0101), (3, 0x0202)], vm := [(1, 1)] })) 0 1 = 0x0903 := by decide +kernel
/-- R232: a dot product of bytes is clamped to 32 bits and sets ISAT. -/
theorem test_dot_clamps : v1 (.vdotInt8 0 1 2 3 0 .s8 true true) [(1, 0x7FFFFFFF), (2, 0x01), (3, 0x01)] = 0x7FFFFFFF ∧
    getB (ran (.vdotInt8 0 1 2 3 0 .s8 true true) (wCore { v := [(1, 0x7FFFFFFF), (2, 1), (3, 1)] })) (aVxStatus 0) 0 = true := by decide +kernel
/-- IEEE 754: 1.5 * 2 = 3 in binary64, 1 + 2^-24 rounds to 1 and 1 + 3 * 2^-24 to 1 + 2^-22 in binary32, infinity - infinity is the canonical NaN of R83. -/
theorem test_vector_float : elemOf 64 (v1 (.vfmul 0 1 2 3 0 .s64) [(2, 0x3FF8000000000000), (3, 0x4000000000000000)]) 0 = 0x4008000000000000 ∧
    elemOf 32 (v1 (.vfadd 0 1 2 3 0 .s32) [(2, 0x3F800000), (3, 0x33800000)]) 0 = 0x3F800000 ∧
    elemOf 32 (v1 (.vfadd 0 1 2 3 0 .s32) [(2, 0x3F800000), (3, 0x34400000)]) 0 = 0x3F800002 ∧
    elemOf 32 (v1 (.vfsub 0 1 2 3 0 .s32) [(2, 0x7F800000), (3, 0x7F800000)]) 0 = 0x7FC00000 := by decide +kernel
/-- R233: reductions of no active element. -/
theorem test_empty_reductions : (let r (i : Instr) : Nat := elemOf 8 (getV (ran i (wCore { v := [(2, 0x55)] })) 0 1) 0
      r (.vredRmax 0 1 2 1 .s8) = 0x80 ∧ r (.vredRmin 0 1 2 1 .s8) = 0x7F ∧ r (.vredRsum 0 1 2 1 .s8) = 0) := by decide +kernel
/-- R232: a widening multiply of bytes: 255 * 255 = 65025 unsigned, (-1) * (-1) = 1 signed. -/
theorem test_widening : elemOf 16 (getV (ran (.vwideMul 0 4 2 3 0 .s8 false false) (wCore { v := [(2, 0xFF), (3, 0xFF)] })) 0 4) 0 = 65025 ∧
    elemOf 16 (getV (ran (.vwideMul 0 4 2 3 0 .s8 true true) (wCore { v := [(2, 0xFF), (3, 0xFF)] })) 0 4) 0 = 1 := by decide +kernel
/-- FIPS 202: SHA3-256 of the empty string. -/
theorem test_sha3_empty : sha3 [] = [0xA7, 0xFF, 0xC6, 0xF8, 0xBF, 0x1E, 0xD7, 0x66, 0x51, 0xC1, 0x47, 0x56, 0xA0, 0x61, 0xD6, 0x62,
    0xF5, 0x80, 0xFF, 0x4D, 0xE4, 0x3B, 0x49, 0xFA, 0x82, 0xD8, 0x0A, 0x4B, 0x80, 0xF8, 0x43, 0x4A] := by decide +kernel
/-- R11, R605: an access below the register map's limit that names no register changes nothing. -/
theorem test_no_register : after (.registerWrite (.bar0 0x8 8) 5 false) wS = wS := by decide +kernel
/-- R520, R514: the cap stays from 1,500 W to 5,600 W. -/
theorem test_cap_bounds : getF (after (.pwrCapWrite 0) wS) aPwrCap 0 13 = 1500 ∧ getF (after (.pwrCapWrite 0x1FFF) wS) aPwrCap 0 13 = 5600 := by decide +kernel
/-- R478: the step view counts. -/
theorem test_step_view : (tile (after (.stepAdv 0) (wTile { step := 41 })) 0).step = 42 := by decide +kernel
/-- R498, its own example: with D = 12 the pattern is one edge withheld and then three enabled. -/
theorem test_duty : ((List.range 8).map fun n => ((List.range n).foldl (fun x _ => edgeAt 1800 1800 12 x) ({} : TileSt)).dutyAcc) = [0, 12, 8, 4, 0, 12, 8, 4] := by decide +kernel
/-- R496: a partition at 1,200 MHz under a PLL of 1,800 MHz takes two edges of three; a tick of the PLL at 1,800 MHz holds one edge or two. -/
theorem test_phase : ((List.range 4).map fun n => ((List.range n).foldl (fun x _ => edgeAt 1200 1800 16 x) ({} : TileSt)).phaseAcc) = [0, 1200, 600, 0] ∧
    (let s := { wS with plls := [(0, { mhz := 1800, past := 100 })], pwr := { parts := [(0, { op := 15 })] } }; pllOf (pllTick 0 s) 0 = { mhz := 1800, past := 900 } ∧
      pllOf (pllTick 0 (pllTick 0 s)) 0 = { mhz := 1800, past := 700 }) := by decide +kernel
/-- The block takes its first command, and idles by one tick on an empty queue (log entry 7). -/
theorem test_step : step { wS with pending := [.stepAdv 0, .stepAdv 1] } = .next (after (.stepAdv 0) { wS with pending := [.stepAdv 1] }) ∧
    step wS = .next (idleTick wS) ∧ (idleTick wS).tick = 1 := by refine ⟨rfl, rfl, by decide +kernel⟩

/-! ### Words written out by R218 to R221 and R230, one of each family, and a header flit by R331 -/

theorem test_words_scalar :
    decodeCore 5 (1#6 ++ 31#5 ++ 30#5 ++ 29#5 ++ 0x001#11) = some (.sub 5 31 30 29) ∧ decodeCore 5 (1#6 ++ 1#5 ++ 2#5 ++ 0#5 ++ 0x021#11) = some (.sext16 5 1 2) ∧
    decodeCore 5 (2#6 ++ 1#5 ++ 2#5 ++ 0x8001#16) = some (.addi 5 1 2 0x8001) ∧ decodeCore 5 (3#6 ++ 1#5 ++ 0x100001#21) = some (.upperImmediate 5 1 0x100001) ∧
    decodeCore 5 (5#6 ++ 1#5 ++ 2#5 ++ 0xFFFC#16) = some (.load32 5 1 2 0xFFFC) ∧ decodeCore 5 (0xA#6 ++ 1#5 ++ 2#5 ++ 2#16) = some (.store16 5 1 2 2) ∧
    decodeCore 5 (0xC#6 ++ 0#5 ++ 1#5 ++ 2#5 ++ 5#3 ++ 0x80#8) = some (.bgeu 5 1 2 0x80) ∧ decodeCore 5 (0xD#6 ++ 1#5 ++ 0x1FFFFF#21) = some (.jal 5 1 0x1FFFFF) ∧
    decodeCore 5 (0x1D#6 ++ 1#5 ++ 2#5 ++ 0#8 ++ 2#2 ++ 63#6) = some (.srai 5 1 2 63) := by decide +kernel
theorem test_words_system_and_issue :
    decodeCore 5 (0x10#6 ++ 0#5 ++ 1#5 ++ 2#5 ++ 0x001#11) = some (.sysw 5 1 2) ∧ decodeCore 5 (0x10#6 ++ 0#15 ++ 0x002#11) = some (.retx 5) ∧
    decodeCore 5 (0x10#6 ++ 1#5 ++ 2#5 ++ 0#5 ++ 0x012#11) = some (.waits 5 1 2) ∧ decodeCore 5 (0x11#6 ++ 1#5 ++ 2#5 ++ 3#5 ++ 0#11) = some (.mxi 5 1 2 3) ∧
    decodeCore 5 (0x12#6 ++ 1#5 ++ 4#5 ++ 0#5 ++ 0#11) = some (.sti 5 1 4) := by decide +kernel
theorem test_words_vector :
    decodeCore 5 (0x20#6 ++ 1#5 ++ 2#5 ++ 3#5 ++ 7#3 ++ 1#2 ++ 0x07#6) = some (.vmaxu 5 1 2 3 7 .s16) ∧
    decodeCore 5 (0x21#6 ++ 7#5 ++ 2#5 ++ 3#5 ++ 1#3 ++ 3#2 ++ 0x11#6) = some (.vfcmplt 5 7 2 3 1 .s64) ∧
    decodeCore 5 (0x22#6 ++ 30#5 ++ 2#5 ++ 3#5 ++ 0#3 ++ 2#2 ++ 0b000110#6) = some (.vwideMuladd 5 30 2 3 0 .s32 false true) ∧
    decodeCore 5 (0x23#6 ++ 1#5 ++ 2#5 ++ 3#5 ++ 0#3 ++ 1#2 ++ 0x05#6) = some (.vdotFp16 5 1 2 3 0 .s16) ∧
    decodeCore 5 (0x24#6 ++ 1#5 ++ 2#5 ++ 3#5 ++ 0#3 ++ 0#2 ++ 0x0A#6) = some (.vstx 5 1 2 3 0 .s8) ∧
    decodeCore 5 (0x25#6 ++ 1#5 ++ 2#5 ++ 3#5 ++ 4#3 ++ 2#2 ++ 0x02#6) = some (.vext 5 1 2 3 4 .s32) ∧
    decodeCore 5 (0x26#6 ++ 1#5 ++ 2#5 ++ 0#5 ++ 3#3 ++ 2#2 ++ 0x01#6) = some (.vredRsumf 5 1 2 3 .s32) := by decide +kernel
/-- The all-zero word, a reserved opcode, a reserved FUNC, comparison and shift, a field that must be 0, a reserved VFUNC, and a compare into V8. -/
theorem test_words_illegal : ([0x00000000, 0x4C000000, 0x0400000E, 0x30000600, 0x740000C0, 0x04221820, 0x40200002, 0x80000003, 0x81000010].all fun w => (decodeCore 5 (BitVec.ofNat 32 w)).isNone) = true := by decide +kernel
/-- R331: every field at its largest value stands at its bits, and comes back. -/
theorem test_header :
    (let p : Packet := {
        vc := 3, opcode := 0x30, dflits := 8, tag := 0x7F, retrySafe := true, hint := 3, reqEpoch := 0xFF, rspEpoch := 0xFE, code := 0xFD,
        txid := 0xFFFE, srcStn := 0x7FF, dstStn := 0x7FE, dstUnit := 0xFFFFFFFE, addr := 0xFFFFFFFFFFFFFFFE, bytesM1 := 0x1FE, poison := 0xFD, retryAfter := 0xFFFFFFFB,
        oparg := (List.range 32).map (BitVec.ofNat 8 ·) };
      (encodeHeader p).take 5 = [0xFFFEFDFEFF3FF8C3, 0xFFFFFFFE07FE07FF, 0xFFFFFFFFFFFFFFFE, 0xFFFFFFFB00FD01FE, 0x0706050403020100] ∧ decodeHeader (encodeHeader p) = some p) ∧
    decodeHeader [0x400000, 0, 0, 0, 0, 0, 0, 0] = none := by decide +kernel

end Slice0Tests
end

section
/-!
SUPPORT. Accesses of registers over BAR0 and by system register number (R11, R12, R16, R212, R563, R564): where the map places its registers, what a refused access and
one that waits leave behind, and the statement about them.
-/
namespace Sys2Proof.Machine

/-! ### Where registers lie (R11, R614) -/

/-- A register map keeps to 8-byte places below the end of BAR0. -/
def RegSpec.Placed (r : RegSpec) : Prop :=
  8 ∣ r.base ∧ 8 ∣ r.instStride ∧ 8 ∣ r.stride ∧ r.base + r.insts * r.instStride + r.count * r.stride < 0x4000000

theorem regSpecs_placed : ∀ r ∈ regSpecs, r.Placed := by
  unfold RegSpec.Placed
  decide +kernel

/-- A place at one of the registers that stand `stride` apart, or at the only one, is a multiple of 8. -/
theorem dvd_of_stride {j stride count : Nat} (hs : 8 ∣ stride)
    (h : if stride = 0 then j = 0 else j % stride = 0 ∧ j / stride < count) : 8 ∣ j := by
  split at h
  · exact h ▸ Nat.dvd_zero 8
  · exact Nat.dvd_trans hs (Nat.dvd_of_mod_eq_zero h.1)

/-- What an offset on a register of the map says of its distance from the map's base. -/
theorem RegSpec.hits_iff (r : RegSpec) (off : Nat) :
    r.hits off = true ↔ r.base ≤ off ∧
      let d := off - r.base
      let j := if r.instStride = 0 then d else d % r.instStride
      (if r.instStride = 0 then 0 < r.insts else d / r.instStride < r.insts) ∧
        if r.stride = 0 then j = 0 else j % r.stride = 0 ∧ j / r.stride < r.count := by
  unfold RegSpec.hits
  by_cases hi : r.instStride = 0 <;> by_cases hs : r.stride = 0 <;> simp [hi, hs]

theorem RegSpec.Placed.of_hits {r : RegSpec} {off : Nat} (hr : r.Placed) (h : r.hits off = true) : off % 8 = 0 ∧ off < 0x4000000 := by
  obtain ⟨hbase, hinst, hstride, hend⟩ := hr
  obtain ⟨hle, hi, hj⟩ := (r.hits_iff off).1 h
  have hj8 := dvd_of_stride hstride hj
  suffices hd : 8 ∣ off - r.base ∧ off - r.base ≤ r.insts * r.instStride + r.count * r.stride by omega
  by_cases hz : r.instStride = 0
  · rw [if_pos hz] at hj8 hj
    refine ⟨hj8, ?_⟩
    split at hj
    · omega
    · exact Nat.le_trans (Nat.le_of_lt ((Nat.div_lt_iff_lt_mul (by omega)).1 hj.2)) (Nat.le_add_left _ _)
  · rw [if_neg hz] at hj8 hi
    exact ⟨(Nat.dvd_mod_iff hinst).1 hj8, Nat.le_trans (Nat.le_of_lt ((Nat.div_lt_iff_lt_mul (by omega)).1 hi)) (Nat.le_add_right _ _)⟩

theorem regSpecAt_placed {off : Nat} {r : RegSpec} (h : regSpecAt off = some r) : off % 8 = 0 ∧ off < 0x4000000 := by
  unfold regSpecAt at h
  split at h
  · cases h
  · exact (regSpecs_placed r (List.mem_of_find?_eq_some h)).of_hits (List.find?_some (p := (RegSpec.hits · off)) h)

/-- An offset without a register reads 0 and discards what is written (R16). -/
theorem readReg_of_none {off : Nat} (h : regSpecAt off = none) (s : State) : readReg s off = 0 := by
  unfold readReg; rw [h]
theorem writeReg_of_none {off : Nat} (h : regSpecAt off = none) (v : Word) (s : State) : writeReg off v s = s := by
  unfold writeReg; rw [h]; rfl

/-! ### Fields of a register word after a field is set (R10) -/

theorem testBit_wfld (x : Word) (lo w i : Nat) : (wfld x lo w).testBit i = (decide (i < w) && x.getLsbD (lo + i)) := by
  unfold wfld fieldOf
  rw [Nat.testBit_mod_two_pow, Nat.testBit_div_two_pow, Nat.add_comm]; rfl

theorem getLsbD_wput (x : Word) (lo w v i : Nat) :
    (wput x lo w v).getLsbD i = if lo ≤ i ∧ i < lo + w ∧ i < 64 then v.testBit (i - lo) else x.getLsbD i := by
  unfold wput
  have hx : 64 ≤ i → x.getLsbD i = false := fun h => BitVec.getLsbD_of_ge x i h
  simp only [BitVec.getLsbD_or, BitVec.getLsbD_and, BitVec.getLsbD_not, BitVec.getLsbD_ofNat, Nat.testBit_mul_two_pow, Nat.testBit_two_pow_sub_one,
    Nat.testBit_mod_two_pow]
  grind

theorem wfld_wput_self (x : Word) {lo w v : Nat} (hw : lo + w ≤ 64) (hv : v < 2 ^ w) : wfld (wput x lo w v) lo w = v := by
  refine Nat.eq_of_testBit_eq fun i => ?_
  rw [testBit_wfld, getLsbD_wput]
  by_cases hi : i < w
  · rw [if_pos ⟨Nat.le_add_right _ _, by omega, by omega⟩, Nat.add_sub_cancel_left, decide_eq_true hi, Bool.true_and]
  · rw [decide_eq_false hi, Bool.false_and, Nat.testBit_lt_two_pow (Nat.lt_of_lt_of_le hv (Nat.pow_le_pow_right (by decide) (by omega)))]

theorem wfld_wput_disjoint (x : Word) {lo w v lo' w' : Nat} (h : lo' + w' ≤ lo ∨ lo + w ≤ lo') : wfld (wput x lo w v) lo' w' = wfld x lo' w' := by
  refine Nat.eq_of_testBit_eq fun i => ?_
  rw [testBit_wfld, testBit_wfld, getLsbD_wput]
  by_cases hi : i < w'
  · rw [if_neg (by omega)]
  · rw [decide_eq_false hi, Bool.false_and, Bool.false_and]

theorem getF_putF_self (off : Nat) {lo w v : Nat} (hw : lo + w ≤ 64) (hv : v < 2 ^ w) (s : State) : getF (putF off lo w v s) off lo w = v := by
  simp only [getF, putF, reg_setReg, if_true, wfld_wput_self _ hw hv]

theorem getF_putF_disjoint (off : Nat) {lo w v lo' w' : Nat} (h : lo' + w' ≤ lo ∨ lo + w ≤ lo') (s : State) :
    getF (putF off lo w v s) off lo' w' = getF s off lo' w' := by
  simp only [getF, putF, reg_setReg, if_true, wfld_wput_disjoint _ h]

theorem reg_putF_other {o off : Nat} (h : o ≠ off) (lo w v : Nat) (s : State) : reg (putF off lo w v s) o = reg s o := by
  rw [putF, reg_setReg, if_neg h]

/-! ### What a status bit, a counter and the log leave as they were -/

@[simp] theorem memByte_raiseVec (v a : Nat) (s : State) : memByte (raiseVec v s) a = memByte s a := (noted_raiseVec v s).memByte a

@[simp] theorem memByte_stick (off bit a : Nat) (s : State) : memByte (stick off bit s) a = memByte s a := by
  unfold stick raisePkg
  split
  · rfl
  · dsimp only; split
    · exact memByte_raiseVec _ _ _
    · rfl

@[simp] theorem memByte_bump (off n ovf bit a : Nat) (s : State) : memByte (bump off n ovf bit s) a = memByte s a := by
  unfold bump
  dsimp only; split
  · rfl
  · split
    · rfl
    · exact memByte_stick _ _ _ _

theorem memByte_logEvent {r : LogRec} (hr : r.sev < 4) (a : Nat) (s : State) : memByte (logEvent r s) a = memByte s a := (noted_logEvent hr s).memByte a

/-- Messages are only added: an event can send one of its own. -/
theorem sent_suffix_raiseVec (v : Nat) (s : State) : s.sent <:+ (raiseVec v s).sent := by
  unfold raiseVec sendVec
  split
  · exact List.suffix_rfl
  · split
    · exact List.suffix_cons _ _
    · exact List.suffix_rfl

theorem sent_suffix_stick (off bit : Nat) (s : State) : s.sent <:+ (stick off bit s).sent := by
  unfold stick raisePkg
  split
  · exact List.suffix_rfl
  · dsimp only; split
    · exact sent_suffix_raiseVec _ (putB off bit true s)
    · exact List.suffix_rfl

theorem sent_suffix_bump (off n ovf bit : Nat) (s : State) : s.sent <:+ (bump off n ovf bit s).sent := by
  unfold bump
  dsimp only; split
  · exact List.suffix_rfl
  · split
    · exact List.suffix_rfl
    · exact sent_suffix_stick ovf bit (putF off 0 48 countMax s)

theorem sent_suffix_logEvent (r : LogRec) (s : State) : s.sent <:+ (logEvent r s).sent := by
  have h := (sent_suffix_bump (aErrCount r.sev) 1 aErrStatus 5 s).trans (sent_suffix_stick aErrStatus r.sev _)
  unfold logEvent
  dsimp only
  generalize stick aErrStatus r.sev (bump (aErrCount r.sev) 1 aErrStatus 5 s) = t at h ⊢
  by_cases h0 : r.sev = 0
  · rw [if_pos h0]; exact h
  · rw [if_neg h0]
    by_cases hfull : (if r.sev = 1 then 248 else 256) ≤ t.err.log.length
    · rw [if_pos hfull]; exact (h.trans (sent_suffix_bump aErrLost 1 aErrStatus 5 t)).trans (sent_suffix_stick aErrStatus 4 _)
    · rw [if_neg hfull]; exact h

/-! ### A refused access (R564) -/

/-- The host port's status bits are no sources of the package vector (R572). -/
theorem pkgSource_hostStatus (s : State) (bit : Nat) : pkgSource s aGlbHostStatus bit = false := by
  simp [pkgSource, aGlbHostStatus, aImgStatus, aGlbCellStatus, aPwrStatus, aCollStatus, aClkWdog, aErrStatus, aLnkStatus]

theorem getB_stick_self (off : Nat) {bit : Nat} (hb : bit < 64) (s : State) (hs : pkgSource s off bit = false) : getB (stick off bit s) off bit = true := by
  unfold stick
  by_cases h : getB s off bit = true
  · rw [if_pos h]; exact h
  · rw [if_neg h, hs]
    exact decide_eq_true (getF_putF_self off (by omega) (by decide) s)

theorem reg_stick_other {o off bit : Nat} (h : o ≠ off) (s : State) (hs : pkgSource s off bit = false) : reg (stick off bit s) o = reg s o := by
  unfold stick
  rw [hs]
  split
  · rfl
  · exact reg_putF_other h _ _ _ s

/-- A refused access leaves its bit and its code in GLB_HOST_STATUS; beside it only the registers of notes change, and no memory. -/
theorem bar0Refuse_spec (off : Nat) (code : Byte) (s : State) :
    getB (bar0Refuse off code s) aGlbHostStatus 16 = true ∧ getF (bar0Refuse off code s) aGlbHostStatus 24 8 = code.toNat ∧
      (∀ o, o ≠ aGlbHostStatus → noteReg o = false → reg (bar0Refuse off code s) o = reg s o) ∧
      ∀ a, memByte (bar0Refuse off code s) a = memByte s a := by
  have hn := noted_logEvent (r := { event := 0x0E, sev := 1, code := code.toNat, station := 1133, addr := off }) (show 1 < 4 by decide)
    (putF aGlbHostStatus 24 8 code.toNat (stick aGlbHostStatus 16 s))
  have hstatus := hn.regs aGlbHostStatus (by decide)
  refine ⟨?_, ?_, fun o ho hnote => ?_, fun a => ?_⟩
  · have hbit := (congrArg (wfld · 16 1) hstatus).trans (getF_putF_disjoint aGlbHostStatus (by omega) (stick aGlbHostStatus 16 s))
    exact (congrArg (fun n : Nat => decide (n = 1)) hbit).trans (getB_stick_self _ (by omega) s (pkgSource_hostStatus s 16))
  · exact (congrArg (wfld · 24 8) hstatus).trans (getF_putF_self _ (by omega) code.isLt _)
  · exact (hn.regs o hnote).trans ((reg_putF_other ho _ _ _ _).trans (reg_stick_other ho s (pkgSource_hostStatus s 16)))
  · exact (hn.memByte a).trans (memByte_stick _ _ _ s)

theorem sent_suffix_bar0Refuse (off : Nat) (code : Byte) (s : State) : s.sent <:+ (bar0Refuse off code s).sent :=
  (sent_suffix_stick aGlbHostStatus 16 s).trans
    (sent_suffix_logEvent _ (putF aGlbHostStatus 24 8 code.toNat (stick aGlbHostStatus 16 s)))

/-! ### An access that has not completed (R340, R351, R563) -/

@[simp] theorem entryOf_putEntry_self (n x : Nat) (e : NiEntry) (s : State) : entryOf (putEntry n x e s) n x = some e := by
  simp only [entryOf, putEntry, niOf_modNi, if_true, tabFind_put_self]

/-- The access is held under an entry of the host port, and nothing but the host port and its entries changes. -/
theorem hostHold_spec (deferred : Bool) (a : HostAcc) (s : State) :
    ∃ x, tabFind x (hostHold deferred a s).host.accs = some a ∧
      (∃ e, entryOf (hostHold deferred a s) 1133 x = some e ∧ e.use = .host ∧ e.deferred = deferred) ∧
      ({ hostHold deferred a s with host := s.host, ni := s.ni } : State) = s :=
  ⟨freeTxid s 1133, tabFind_put_self _ a s.host.accs, ⟨_, entryOf_putEntry_self .., rfl, rfl⟩, rfl⟩

theorem memByte_hostHold (deferred : Bool) (x : HostAcc) (a : Nat) (s : State) : memByte (hostHold deferred x s) a = memByte s a := rfl

theorem memByte_nocEvent (b src dst op txid a : Nat) (s : State) : memByte (nocEvent b src dst op txid s) a = memByte s a := by
  unfold nocEvent
  dsimp only
  rw [memByte_stick]
  split <;> simp only [memByte_frame]

theorem memByte_dropHeader (q : Packet) (a : Nat) (s : State) : memByte (dropHeader q s) a = memByte s a :=
  (memByte_logEvent (by decide : 1 < 4) a _).trans (memByte_nocEvent ..)

theorem memByte_countCorrected (w : Transit) (a : Nat) (s : State) : memByte (countCorrected w s) a = memByte s a := by
  unfold countCorrected
  split
  · rfl
  · exact (memByte_logEvent (by decide : 0 < 4) a _).trans (memByte_bump ..)

/-- An access whose header is damaged on the way waits for its limit (R351). -/
theorem bar0Send_damaged {way : Transit} (h : way.hdr ≠ .ok) (a : HostAcc) (f : State → State) (s : State) :
    ∃ x, tabFind x (bar0Send way a f s).host.accs = some a ∧
      (∃ e, entryOf (bar0Send way a f s) 1133 x = some e ∧ e.use = .host ∧ e.deferred = false) ∧
      ∀ b, memByte (bar0Send way a f s) b = memByte s b := by
  unfold bar0Send
  rw [if_pos h]
  obtain ⟨x, hacc, hentry, -⟩ := hostHold_spec false a (dropHeader { hostReq (countCorrected way s) (freeTxid (countCorrected way s) 1133) a with way := way }
    (countCorrected way s))
  exact ⟨x, hacc, hentry, fun b => (memByte_hostHold ..).trans ((memByte_dropHeader ..).trans (memByte_countCorrected way b s))⟩

/-! ### The two commands -/

theorem exec_registerWrite (acc : RegAccess) (v : Word) (ep : Bool) (s : State) : exec (.registerWrite acc v ep) s = execRegisterWrite acc v ep s := rfl
theorem exec_mrd (acc : RegAccess) (s : State) : exec (.mrd acc) s = execMrd acc s := rfl

/-! ### Accesses over BAR0 (R11, R16, R563, R564) -/

section
variable {off size : Nat} {s : State} (hlive : hostLive s = true)
include hlive

theorem exec_registerWrite_unsupported (hbad : bar0Ok off size = false) (v : Word) (ep : Bool) :
    exec (.registerWrite (.bar0 off size) v ep) s = .next { s with sent := .regUr off :: s.sent } := by
  simp [exec_registerWrite, execRegisterWrite, hlive, hbad]

theorem exec_mrd_unsupported (hbad : bar0Ok off size = false) : exec (.mrd (.bar0 off size)) s = .next { s with sent := .regUr off :: s.sent } := by
  simp [exec_mrd, execMrd, hlive, hbad]

variable (hok : bar0Ok off 8 = true)
include hok

theorem exec_registerWrite_poisoned (v : Word) : exec (.registerWrite (.bar0 off 8) v true) s = .next (bar0Refuse off cPoison s) := by
  simp [exec_registerWrite, execRegisterWrite, hlive, hok]

/-- A write that meets nothing on its way reaches the register's gate. -/
theorem exec_registerWrite_arrives (v : Word) : exec (.registerWrite (.bar0 off 8) v false) s = .next (bar0Write off v s) := by
  simp [exec_registerWrite, execRegisterWrite, hlive, hok, bar0Send, countCorrected]

theorem exec_mrd_sent (way : Transit) :
    exec (.mrd (.bar0 off 8 way)) s = .next (bar0Send way { off := off, epoch := linkEpoch s } (bar0Read off) s) := by
  simp [exec_mrd, execMrd, hlive, hok]

theorem exec_mrd_arrives : exec (.mrd (.bar0 off 8)) s = .next (bar0Read off s) := exec_mrd_sent hlive hok {}

end

/-- An access of other than 8 aligned bytes of BAR0. -/
theorem bar0Ok_eq_false_iff (off size : Nat) : bar0Ok off size = false ↔ size ≠ 8 ∨ off % 8 ≠ 0 ∨ 0x4000000 ≤ off := by
  unfold bar0Ok
  rw [decide_eq_false_iff_not]
  omega

theorem bar0Write_of_gate_none {s : State} {off : Nat} (h : bar0Gate s off = none) (v : Word) : bar0Write off v s = writeReg off v s := by
  unfold bar0Write; rw [h]

theorem bar0Write_of_gate_defer {s : State} {off : Nat} (h : bar0Gate s off = some cDefer) (v : Word) :
    bar0Write off v s = hostHold true { write := true, off := off, data := leBytes 8 v.toNat, epoch := linkEpoch s } s := by
  unfold bar0Write; rw [h]; rfl

theorem bar0Write_of_gate_refuse {s : State} {off : Nat} {c : Byte} (h : bar0Gate s off = some c) (hc : c ≠ cDefer) (v : Word) :
    bar0Write off v s = bar0Refuse off c s := by
  unfold bar0Write; rw [h]; exact if_neg hc

theorem bar0Read_of_gate_none {s : State} {off : Nat} (h : bar0Gate s off = none) :
    bar0Read off s = { s with sent := .reg off (readReg s off) :: s.sent } := by
  unfold bar0Read; rw [h]

theorem bar0Read_of_gate_defer {s : State} {off : Nat} (h : bar0Gate s off = some cDefer) :
    bar0Read off s = hostHold true { off := off, epoch := linkEpoch s } s := by
  unfold bar0Read; rw [h]; rfl

theorem bar0Read_of_gate_refuse {s : State} {off : Nat} {c : Byte} (h : bar0Gate s off = some c) (hc : c ≠ cDefer) :
    bar0Read off s = bar0Refuse off c { s with sent := .reg off (BitVec.allOnes 64) :: s.sent } := by
  unfold bar0Read; rw [h]; exact if_neg hc

/-! ### Accesses by system register number (R212) -/

theorem exec_registerWrite_sys {s : State} (hp : s.pins.powered = true) {t : Tile} {k : Fin 2048} (h : sysWritable t k.val = true) (v : Word) :
    exec (.registerWrite (.sys t k) v false) s = .next (sysWrite t k.val v s) := by
  simp [exec_registerWrite, execRegisterWrite, hp, h]

theorem exec_mrd_sys {s : State} (hp : s.pins.powered = true) {t : Tile} {k : Fin 2048} (h : sysExists t k.val = true) :
    exec (.mrd (.sys t k)) s = .next { s with sent := .reg (sysOff t k.val) (readTileReg s t (8 * k.val)) :: s.sent } := by
  simp [exec_mrd, execMrd, hp, h]

/-- Settles O38, by the answer that the gate of the named register gives and by what the packet met on its way. -/
theorem registerAccess : Obligations.RegisterAccess := by
  unfold Obligations.RegisterAccess
  intro off size way v t k s
  refine ⟨fun r h => regSpecAt_placed h, fun hlive hbad => ?_, fun hlive halign hin => ?_, fun hp => ?_⟩
  · have hbad := (bar0Ok_eq_false_iff off size).2 hbad
    exact ⟨exec_registerWrite_unsupported hlive hbad v, exec_mrd_unsupported hlive hbad⟩
  · have hok : bar0Ok off 8 = true := decide_eq_true ⟨rfl, halign, hin⟩
    have hwrite := exec_registerWrite_arrives hlive hok v
    have hread := exec_mrd_arrives hlive hok
    refine ⟨?poisoned, fun hgate => ?served, fun hgate => ?deferred, fun hway => ?damaged, fun c hc hgate => ?refused⟩
    case poisoned => exact ⟨_, exec_registerWrite_poisoned hlive hok v, bar0Refuse_spec off cPoison s⟩
    case served =>
      rw [bar0Write_of_gate_none hgate] at hwrite
      rw [bar0Read_of_gate_none hgate] at hread
      exact ⟨hwrite, hread, fun hno => ⟨readReg_of_none hno s, writeReg_of_none hno v s⟩⟩
    case deferred =>
      rw [bar0Write_of_gate_defer hgate] at hwrite
      rw [bar0Read_of_gate_defer hgate] at hread
      obtain ⟨x, hx⟩ := hostHold_spec true { write := true, off := off, data := leBytes 8 v.toNat, epoch := linkEpoch s } s
      obtain ⟨y, hy⟩ := hostHold_spec true { off := off, epoch := linkEpoch s } s
      exact ⟨⟨_, x, hwrite, hx⟩, ⟨_, y, hread, hy⟩⟩
    case damaged =>
      obtain ⟨x, hx⟩ := bar0Send_damaged hway { off := off, epoch := linkEpoch s } (bar0Read off) s
      exact ⟨_, x, exec_mrd_sent hlive hok way, hx⟩
    case refused =>
      rw [bar0Write_of_gate_refuse hgate hc] at hwrite
      rw [bar0Read_of_gate_refuse hgate hc] at hread
      exact ⟨⟨_, hwrite, bar0Refuse_spec off c s⟩, ⟨_, hread, bar0Refuse_spec off c _, (sent_suffix_bar0Refuse off c _).subset (List.mem_cons_self ..)⟩⟩
  · exact ⟨fun h => exec_registerWrite_sys hp h v, exec_mrd_sys hp⟩

end Sys2Proof.Machine
end

section
/-!
SUPPORT. The apply pass of a load over a quadrant whose domain has failed since the verify pass (R62, R64, R533): a partition placed on such a quadrant ends FAULTED, not
STOPPED, and the statement about loads, which promises STOPPED without that exception, is refuted by it.
-/
namespace Sys2Proof.Machine

/-! ### What the events of a load leave as it was -/

@[simp] theorem part_setPState (p q : Nat) (x : PState) (s : State) :
    part (setPState p x s) q = if q = p then { part s p with st := x } else part s q := by
  cases x <;> simp [setPState, raisePart, (noted_raiseVec _ _).part]

@[simp] theorem part_stick (off bit q : Nat) (s : State) : part (stick off bit s) q = part s q := by
  unfold stick raisePkg
  split
  · rfl
  · dsimp only; split
    · exact (noted_raiseVec _ (putB off bit true s)).part q
    · rfl

theorem part_finishLoad (b : List Byte) (q : Nat) (s : State) : part (finishLoad b s) q = part s q := by
  simp only [finishLoad, part_stick, part_frame]; rfl

@[simp] theorem domSt_setBytes (a : Nat) (l : List Byte) (q : Nat) (s : State) : domSt (setBytes a l s) q = domSt s q := by
  induction l generalizing a s with
  | nil => rfl
  | cons x l ih => rw [setBytes, ih]; simp

/-! ### A partition placed on a failed quadrant (R533) -/

/-- The check of `definePart` reads the domains as they stood: placing the code of a program on its tiles changes no domain. -/
theorem domSt_placeTiles (f : Nat → TileSt → TileSt) (a : Nat → Nat) (code : List Byte) (tiles : List Nat) (q : Nat) (s : State) :
    domSt (tiles.foldl (fun s t => modTile t (f t) (setBytes (a t) code s)) s) q = domSt s q :=
  foldl_keeps (fun u => domSt u q = domSt s q) (fun u t hu => by simpa using hu) tiles rfl

theorem st_definePart_of_failed {r : PartRec} {t : Nat} (ht : t ∈ r.tiles) {s : State} (hd : domSt s (quadOf t) = .failed) (b : List Byte) (p : Nat) :
    (part (definePart b p r s) p).st = .faulted := by
  unfold definePart
  dsimp only
  rw [if_pos]
  · simp
  · refine List.any_eq_true.2 ⟨t, ht, decide_eq_true ?_⟩
    rw [domSt_placeTiles]
    simpa using hd

/-- The state in which a partial load begins to define its partitions (R64). -/
def clearedForPartial (b : List Byte) (s : State) : State :=
  let named := imgNamed s b
  let done := named.flatMap fun p => (part s p).prec.tiles
  let u := modBst (fun x => { x with regions := x.regions ++ (imgRegions s b).getD [] }) (named.foldl (fun u p => partReset p u) s)
  (imgNew b).foldl (fun u e =>
    let size := recWork u.bst.units e.2 + e.2.collUnits * 0x40000
    e.2.tiles.foldl (fun u t => zeroRange (pkgAddr t 0) (pkgAddr t size) (if done.contains t then u else tileReset t u)) u) u

theorem applyPartial_eq (b : List Byte) (s : State) :
    applyPartial b s = finishLoad b ((imgNew b).foldl (fun u e => definePart b e.1 e.2 u) (clearedForPartial b s)) := rfl

/-! ### The counterexample -/

/-- The apply pass reads the bytes of the verify pass again where the host has not changed them: the header and table kept, and what follows them. -/
theorem slice_zero_append_drop {l : List Byte} {n : Nat} (h : n ≤ l.length) : slice l 0 n ++ l.drop n = l := by
  simp [slice, h]

/-- The record of partition 0, up to its first tile byte: ACTION 1 and tile 0 alone (R52). -/
def oneTileRecord : List Byte := [1] ++ List.replicate 127 0 ++ [1]

/-- A partial image of 257 bytes whose one section, PARTITIONS, defines partition 0 (R44, R45): the header, the table entry with its digest, and the section. -/
def oneTileImage : List Byte :=
  leBytes 4 0x4E564C45 ++ leBytes 2 1 ++ leBytes 2 0 ++ [0x2A, 4, 0, 1] ++ leBytes 4 1 ++ leBytes 8 257 ++ leBytes 8 2 ++ leBytes 8 1 ++ List.replicate 24 0 ++
    leBytes 8 1 ++ leBytes 8 128 ++ leBytes 8 129 ++ leBytes 8 0 ++ sha3 oneTileRecord ++ oneTileRecord

/-- The apply pass of that image, in which partition 0 is LOADING and the domain of quadrant 0, which holds tile 0, has failed. -/
def quadrantLost : State :=
  { doms := [(0, { st := .failed })]
    parts := [(0, { st := .loading, prec := { tiles := [0] } })]
    img := { phase := .apply, img := oneTileImage, len := 257 } }

theorem digestFails_oneTileImage : digestFails oneTileImage = none := by decide +kernel

theorem imgNew_oneTileImage : imgNew oneTileImage = [(0, recordAt oneTileRecord 0)] := by decide +kernel

theorem domSt_cleared_quadrantLost : domSt (clearedForPartial oneTileImage quadrantLost) (quadOf 0) = .failed := by decide +kernel

theorem loadWait_quadrantLost : loadWait oneTileImage quadrantLost = none := by decide +kernel

theorem reread_oneTileImage :
    slice oneTileImage 0 (64 + 64 * imgCount oneTileImage) ++ oneTileImage.drop (64 + 64 * imgCount oneTileImage) = oneTileImage :=
  slice_zero_append_drop (by decide +kernel)

theorem exec_applyEnd (img : List Byte) (srcErr : Bool) (s : State) : exec (.applyEnd img srcErr) s = .next (applyEndOp img srcErr s) := rfl

theorem applyEndOp_quadrantLost : applyEndOp oneTileImage false quadrantLost = applyPartial oneTileImage quadrantLost := by
  have himg : quadrantLost.img.img = oneTileImage := rfl
  have hphase : quadrantLost.img.phase = .apply := rfl
  have hkind : imgKind oneTileImage = 1 := by decide +kernel
  simp [applyEndOp, himg, hphase, loadWait_quadrantLost, reread_oneTileImage, digestFails_oneTileImage, hkind]

theorem st_applyPartial_quadrantLost : (part (applyPartial oneTileImage quadrantLost) 0).st = .faulted := by
  rw [applyPartial_eq, part_finishLoad, imgNew_oneTileImage, List.foldl_cons, List.foldl_nil]
  exact st_definePart_of_failed (t := 0) (by decide +kernel) domSt_cleared_quadrantLost oneTileImage 0

/-- Refutes O35: a partition that the load places on a quadrant whose domain has failed since the verify pass ends FAULTED (R533), not STOPPED. -/
theorem not_imageLoad : ¬ Obligations.ImageLoad := by
  unfold Obligations.ImageLoad
  intro h
  obtain ⟨-, -, -, -, -, -, happly⟩ := h oneTileImage false quadrantLost
  obtain ⟨-, -, -, hdone⟩ := happly rfl
  have hb := reread_oneTileImage
  obtain ⟨u, hexec, -, -, -, -, hnew⟩ := hdone loadWait_quadrantLost rfl (hb.symm ▸ digestFails_oneTileImage)
  obtain rfl : applyPartial oneTileImage quadrantLost = u := by
    rw [exec_applyEnd, applyEndOp_quadrantLost] at hexec; injection hexec
  have hmem : (0, recordAt oneTileRecord 0) ∈ imgNew oneTileImage := by simp [imgNew_oneTileImage]
  obtain ⟨hstopped, -⟩ := hnew _ (hb.symm ▸ hmem)
  rw [st_applyPartial_quadrantLost] at hstopped
  cases hstopped

end Sys2Proof.Machine
end

section
/-!
SUPPORT. Accesses of system registers by the control core (R212): when the fetched word makes an instruction issue, which numbers name a register and which of
those a write reaches, and what each such write does.
-/
namespace Sys2Proof.Machine

/-! ### The issue of the instruction that the word spells (R217, R219) -/

theorem fetchFaults_of_fetchOk {s : State} {t : Nat} (h : FetchOk s t) : fetchFaults s t = false := by
  have hinside : ¬ tileW s t < (getPc s t).toNat + 4 := Nat.not_lt.2 h.inside
  unfold fetchFaults
  rcases h.line with hcached | hclean
  · simp [hinside, Option.isNone_eq_false_iff.2 hcached]
  · simp [hinside, show anyBad s (pkgAddr t (64 * ((getPc s t).toNat / 64))) 64 = false from hclean]

/-- The instruction that the word at the program counter spells has its effect, on the state that its fetch leaves. -/
theorem onWord_issue_of_spells {s : State} {t : Tile} {i : Instr} (hf : FetchOk s t) (hi : Spells s t i) (f : State → State) :
    onWord i t (issue t f) s = f (fetched t s) := by
  unfold onWord
  rw [fetchFaults_of_fetchOk hf, show decodeCore t (wordNext s t) = some i from hi]
  simp only [Bool.false_eq_true, if_false, if_true]
  exact issue_of_fetchOk hf f

theorem exec_sysr (t : Tile) (d a : GReg) (s : State) : exec (.sysr t d a) s = execSysr t d a s := rfl
theorem exec_sysw (t : Tile) (a b : GReg) (s : State) : exec (.sysw t a b) s = execSysw t a b s := rfl

theorem wfld_zero (x : Word) (w : Nat) : wfld x 0 w = (x.extractLsb' 0 w).toNat := by
  simp [wfld, fieldOf]

section
variable {s : State} {t : Tile} (hf : FetchOk s t)
include hf

theorem exec_sysr_of_spells {d a : GReg} (hi : Spells s t (.sysr t d a)) :
    let k := ((getG s t a).extractLsb' 0 11).toNat
    let n := fetched t s
    exec (.sysr t d a) s = .next (if sysExists t k then nextPc t (setG t d (readTileReg n t (8 * k)) n) else raiseExc t exSysreg 0 n) := by
  rw [exec_sysr, execSysr, onWord_issue_of_spells hf hi]
  simp only [(fetched_spec hf).getG, wfld_zero]

theorem exec_sysw_of_spells {a b : GReg} (hi : Spells s t (.sysw t a b)) :
    let k := ((getG s t a).extractLsb' 0 11).toNat
    let n := fetched t s
    exec (.sysw t a b) s = .next (if sysWritable t k then sysWrite t k (getG s t b) (nextPc t n) else raiseExc t exSysreg 0 n) := by
  rw [exec_sysw, execSysw, onWord_issue_of_spells hf hi]
  simp only [(fetched_spec hf).getG, wfld_zero]

end

/-! ### The numbers that a write reaches (R212) -/

/-- A number can be written where a register lies of which some field is RW, W1C or WO. -/
theorem sysWritable_iff (t k : Nat) :
    sysWritable t k = true ↔ ∃ r, regSpecAt (sysOff t k) = some r ∧ (r.rw ≠ 0 ∨ r.w1c ≠ 0 ∨ r.wo ≠ 0) := by
  unfold sysWritable
  cases regSpecAt (sysOff t k) with
  | none => simp
  | some r => simp [or_assoc]

/-- The numbers whose write performs an action: ACC_FREE, the posts, STEP_ADVANCE and HOST_IRQ. -/
def actionNumbers : List Nat := [0x62, 0x140, 0x141, 0x142, 0x144, 0x145, 0x146]

/-- A write of any other number is one of stored fields. -/
theorem sysWrite_of_not_action {k : Nat} (hk : k ∉ actionNumbers) (t : Nat) (v : Word) (z : State) :
    sysWrite t k v z = writeStored (sysOff t k) v z := by
  have hplace : ∀ n ∈ actionNumbers, 8 * k ≠ 8 * n := fun n hn he => hk (Nat.eq_of_mul_eq_mul_left (by decide) he ▸ hn)
  simp only [actionNumbers, List.forall_mem_cons] at hplace
  obtain ⟨hfree, hsolv, hcoll, hwork, hstep, hdig, hirq, -⟩ := hplace
  unfold sysWrite
  rw [if_neg hfree, if_neg hsolv, if_neg hcoll, if_neg hwork, if_neg hstep, if_neg hdig, if_neg hirq]

/-- Settles O15: the fetched word makes the access issue, and the number in A decides, by the map, between the access and SYSREG. -/
theorem systemRegisterAccess : Obligations.SystemRegisterAccess := by
  unfold Obligations.SystemRegisterAccess
  intro t d a b s hf
  refine ⟨fun hk hi => ?read, fun hk hi => ?readNone, fun hk hi => ?write, fun hk hi => ?writeNone, rfl, sysWritable_iff t _,
    fun v z => ⟨fun hk => sysWrite_of_not_action hk t v z, rfl, rfl, rfl, rfl, rfl, rfl, rfl⟩⟩
  case read => exact (exec_sysr_of_spells hf hi).trans (congrArg _ (if_pos hk))
  case readNone => exact (exec_sysr_of_spells hf hi).trans (congrArg _ (if_neg (Bool.eq_false_iff.1 hk)))
  case write => exact (exec_sysw_of_spells hf hi).trans (congrArg _ (if_pos hk))
  case writeNone => exact (exec_sysw_of_spells hf hi).trans (congrArg _ (if_neg (Bool.eq_false_iff.1 hk)))

end Sys2Proof.Machine
end

section
/-!
SUPPORT. Writes of scratchpad bytes (R302): what the write of one word does, what a write made of two pieces does when the first ends at a word's end, the whole write
by these two, and a store of the control core that meets a merge which is not made.
-/
namespace Sys2Proof.Machine

/-! ### Bytes and check states after stores -/

theorem memByte_setBytes (a x : Nat) (bs : List Byte) (s : State) :
    memByte (setBytes a bs s) x = if a ≤ x ∧ x < a + bs.length then bs.getD (x - a) 0 else memByte s x := by
  induction bs generalizing a s with
  | nil => rw [if_neg (by simp only [List.length_nil]; omega)]; rfl
  | cons b bs ih =>
    rw [setBytes, ih, memByte_setByte, List.length_cons]
    by_cases hx : x = a
    · subst hx
      rw [if_neg (by omega), if_pos rfl, if_pos (by omega), Nat.sub_self, List.getD_cons_zero]
    · by_cases hin : a + 1 ≤ x ∧ x < a + 1 + bs.length
      · rw [if_pos hin, if_pos (by omega), show x - a = x - (a + 1) + 1 by omega, List.getD_cons_succ]
      · rw [if_neg hin, if_neg hx, if_neg (by omega)]

@[simp] theorem eccOf_setBytes (a w : Nat) (bs : List Byte) (s : State) : eccOf (setBytes a bs s) w = eccOf s w := by
  induction bs generalizing a s with
  | nil => rfl
  | cons b bs ih => rw [setBytes, ih]; rfl

@[simp] theorem reg_setBytes (a o : Nat) (bs : List Byte) (s : State) : reg (setBytes a bs s) o = reg s o := by
  induction bs generalizing a s with
  | nil => rfl
  | cons b bs ih => rw [setBytes, ih]; rfl

theorem eccOf_cleanWord (w v : Nat) (s : State) : eccOf (cleanWord w s) v = if v = w then none else eccOf s v := by
  split
  · next h => subst h; exact tabFind_del_self v s.ecc
  · next h => exact tabFind_del_other h s.ecc

/-- A word without an error, with fresh check bits or one bit wrong, is not uncorrectable. -/
theorem badWord_eq_false_iff (s : State) (w : Nat) : badWord s w = false ↔ eccOf s w = none ∨ eccOf s w = some .single := by
  unfold badWord
  rcases eccOf s w with _ | _ | _ | _ <;> simp

/-! ### UE stays set while events are noted (R13, R301) -/

theorem getB_eq_getLsbD (s : State) (off i : Nat) : getB s off i = (reg s off).getLsbD i := by
  simp only [getB, getF, wfld, fieldOf, BitVec.getLsbD, Nat.testBit_eq_decide_div_mod_eq, Nat.pow_one]

theorem reg_raiseVec (v o : Nat) (s : State) : reg (raiseVec v s) o = reg s o := by
  unfold raiseVec sendVec
  split
  · rfl
  · split <;> rfl

/-- A bit of a register stays set when a status bit is set. -/
theorem getB_stick_of_getB {s : State} {o i : Nat} (h : getB s o i = true) (off b : Nat) : getB (stick off b s) o i = true := by
  have hput : getB (putB off b true s) o i = true := by
    rw [getB_eq_getLsbD] at h ⊢
    rw [putB, putF, reg_setReg]
    split
    · next ho =>
      subst ho
      rw [getLsbD_wput]
      split
      · next hi => rw [show i - b = 0 by omega]; rfl
      · exact h
    · exact h
  unfold stick raisePkg
  split
  · exact h
  · dsimp only; split
    · rw [getB_eq_getLsbD, reg_raiseVec, ← getB_eq_getLsbD]; exact hput
    · exact hput

/-- TILE_SP_STATUS.UE, once set, is set still. -/
def UeStays (s u : State) : Prop := ∀ t, getB s (aTileSpStatus t) 1 = true → getB u (aTileSpStatus t) 1 = true

theorem UeStays.refl (s : State) : UeStays s s := fun _ h => h
theorem UeStays.trans {s t u : State} (h : UeStays s t) (k : UeStays t u) : UeStays s u := fun x hx => k x (h x hx)

theorem UeStays.of_reg {s u : State} (h : ∀ t, reg u (aTileSpStatus t) = reg s (aTileSpStatus t)) : UeStays s u := fun t ht => by
  rw [getB_eq_getLsbD] at ht ⊢; rw [h]; exact ht

theorem ueStays_stick (off b : Nat) (s : State) : UeStays s (stick off b s) := fun _ h => getB_stick_of_getB h off b

theorem ueStays_putF {off : Nat} (h : ∀ t, aTileSpStatus t ≠ off) (lo w v : Nat) (s : State) : UeStays s (putF off lo w v s) :=
  .of_reg fun t => reg_putF_other (h t) lo w v s

theorem ueStays_bump {off : Nat} (h : ∀ t, aTileSpStatus t ≠ off) (n ovf b : Nat) (s : State) : UeStays s (bump off n ovf b s) := by
  unfold bump
  dsimp only; split
  · exact .refl s
  · split
    · exact ueStays_putF h _ _ _ s
    · exact (ueStays_putF h _ _ _ s).trans (ueStays_stick _ _ _)

theorem ueStays_logEvent {r : LogRec} (hr : r.sev < 4) (s : State) : UeStays s (logEvent r s) := by
  have hcount : ∀ t, aTileSpStatus t ≠ aErrCount r.sev := fun t => by unfold aTileSpStatus aErrCount; omega
  have hlost : ∀ t, aTileSpStatus t ≠ aErrLost := fun t => by unfold aTileSpStatus aErrLost; omega
  have h := (ueStays_bump hcount 1 aErrStatus 5 s).trans (ueStays_stick aErrStatus r.sev _)
  unfold logEvent
  dsimp only
  generalize stick aErrStatus r.sev (bump (aErrCount r.sev) 1 aErrStatus 5 s) = m at h ⊢
  by_cases hcorrected : r.sev = 0
  · rw [if_pos hcorrected]; exact h
  · rw [if_neg hcorrected]
    by_cases hfull : (if r.sev = 1 then 248 else 256) ≤ m.err.log.length
    · rw [if_pos hfull]; exact (h.trans (ueStays_bump hlost 1 aErrStatus 5 m)).trans (ueStays_stick aErrStatus 4 _)
    · rw [if_neg hfull]; exact h.trans (.of_reg fun _ => rfl)

theorem ueStays_recordRow (t row : Nat) (s : State) : UeStays s (recordRow t row s) := by
  unfold recordRow
  dsimp only; split
  · exact .refl s
  · split
    · exact ueStays_stick _ _ s
    · exact .of_reg fun _ => rfl

theorem ueStays_noteCorrected (w : Nat) (s : State) : UeStays s (noteCorrected w s) := by
  unfold noteCorrected; extract_lets t row stuck bumped logged n counted
  have hcount : ∀ u, aTileSpStatus u ≠ aTileSpCeCount t := fun u => by unfold aTileSpStatus aTileSpCeCount; omega
  have h : UeStays s counted := (((ueStays_stick _ _ s).trans (ueStays_bump hcount _ _ _ _)).trans
    (ueStays_logEvent (r := tileRec bumped t 0x06 0 0 0 0) (Nat.zero_lt_succ 3) _)).trans (.of_reg fun _ => rfl)
  split
  · exact h.trans (ueStays_recordRow _ _ _)
  · exact h

/-- The status registers of the scratchpads lie beyond every source of the package vector (R572, R614). -/
theorem pkgSource_spStatus (s : State) (t bit : Nat) : pkgSource s (aTileSpStatus t) bit = false := by
  have hbeyond : 0x2000c00 ≤ aTileSpStatus t := Nat.le_add_right _ _
  have hlinks : aLnkStatus 28 < 0x2000c00 := by decide
  have hother : ∀ o < 0x2000c00, aTileSpStatus t ≠ o := fun o ho => by omega
  unfold pkgSource
  rw [if_neg (hother aImgStatus (by decide)), if_neg (hother aGlbCellStatus (by decide)), if_neg (hother aPwrStatus (by decide)),
    if_neg (hother aCollStatus (by decide)), if_neg (hother aClkWdog (by decide)), if_neg (hother aErrStatus (by decide)),
    if_neg fun h => ?_]
  have hinside : aTileSpStatus t < aLnkStatus 28 := of_decide_eq_true (Bool.and_eq_true_iff.1 (Bool.and_eq_true_iff.1 h).1).2
  omega

/-- The events of an uncorrectable word: UE of its tile is set, and those that were set stay. -/
theorem noteBad_sets_ue (src w : Nat) (s : State) :
    UeStays s (noteBad src w s) ∧ getB (noteBad src w s) (aTileSpStatus (8 * w / 0x2000000)) 1 = true := by
  unfold noteBad; extract_lets t o first addressed stuck
  have haddr : ∀ u, aTileSpStatus u ≠ aTileSpUeAddr t := fun u => by unfold aTileSpStatus aTileSpUeAddr; omega
  have hfirst : UeStays s addressed := by
    show UeStays s (if first then _ else _)
    split
    · exact (ueStays_putF haddr _ _ _ s).trans (ueStays_putF haddr _ _ _ _)
    · exact .refl s
  have hset : getB stuck (aTileSpStatus t) 1 = true := getB_stick_self _ (by decide) addressed (pkgSource_spStatus addressed t 1)
  have hstays : UeStays s stuck := hfirst.trans (ueStays_stick _ _ _)
  split
  · exact ⟨hstays, hset⟩
  · have hlog := (ueStays_logEvent (r := tileRec addressed t 0x05 1 cPoison src (8 * w)) (show 1 < 4 by decide) stuck).trans
      (ueStays_recordRow t (rowOf o) _)
    exact ⟨hstays.trans hlog, hlog t hset⟩

/-! ### What a write of bytes does (R302) -/

theorem mem_wordsOf {a n w : Nat} : w ∈ wordsOf a n ↔ 0 < n ∧ 8 * w < a + n ∧ a < 8 * w + 8 := by
  unfold wordsOf
  split
  · next h => simp [h]
  · simp only [List.mem_map, List.mem_range]
    constructor
    · rintro ⟨i, hi, rfl⟩; omega
    · rintro ⟨-, hlo, hhi⟩; exact ⟨w - a / 8, by omega, by omega⟩

/-- A merge into word `w` by a write of `n` bytes at `a` is not made: the word is uncorrectable and covered in part. -/
def unmade (s : State) (a n w : Nat) : Bool := badWord s w && !(decide (a ≤ 8 * w) && decide (8 * w + 8 ≤ a + n))

theorem writePoisons_iff (s : State) (a n : Nat) : writePoisons s a n = true ↔ ∃ w ∈ wordsOf a n, unmade s a n w = true := List.any_eq_true

/-- From `s` to `u` the bytes `bs` were written at `a`, word by word, but for merges that are not made. -/
structure Written (a : Nat) (bs : List Byte) (s u : State) : Prop where
  byte : ∀ x, memByte u x = if (a ≤ x ∧ x < a + bs.length) ∧ unmade s a bs.length (x / 8) = false then bs.getD (x - a) 0 else memByte s x
  check : ∀ w, eccOf u w = if w ∈ wordsOf a bs.length ∧ unmade s a bs.length w = false then none else eccOf s w
  ue : ∀ w ∈ wordsOf a bs.length, unmade s a bs.length w = true → getB u (aTileSpStatus (8 * w / 0x2000000)) 1 = true
  stays : UeStays s u

theorem Written.nil (a : Nat) (s : State) : Written a [] s s where
  byte x := by rw [if_neg (by simp only [List.length_nil]; omega)]
  check w := by rw [if_neg (by simp [wordsOf])]
  ue w hw := by simp [wordsOf] at hw
  stays := .refl s

/-- The write of one word that is made: after the events `m` of its merge, its bytes are stored with fresh check bits. -/
theorem Written.of_stored {a : Nat} {bs : List Byte} {s m u : State} (hin : a % 8 + bs.length ≤ 8) (hne : 0 < bs.length)
    (hmade : unmade s a bs.length (a / 8) = false) (hm : Noted s m) (hstays : UeStays s u)
    (hmem : ∀ x, memByte u x = memByte (setBytes a bs m) x) (hecc : ∀ w, eccOf u w = if w = a / 8 then none else eccOf s w) : Written a bs s u where
  byte x := by
    rw [hmem, memByte_setBytes, hm.memByte]
    by_cases hx : a ≤ x ∧ x < a + bs.length
    · rw [if_pos hx, if_pos ⟨hx, (show x / 8 = a / 8 by omega) ▸ hmade⟩]
    · rw [if_neg hx, if_neg fun h => hx h.1]
  check w := by
    rw [hecc]
    by_cases hw : w = a / 8
    · subst hw; rw [if_pos rfl, if_pos ⟨mem_wordsOf.2 (by omega), hmade⟩]
    · rw [if_neg hw, if_neg fun h => hw (by have := mem_wordsOf.1 h.1; omega)]
  ue w hw hun := by
    rw [show w = a / 8 by have := mem_wordsOf.1 hw; omega, hmade] at hun
    cases hun
  stays := hstays

/-- The write of one word whose merge is not made. -/
theorem Written.of_unmade {a : Nat} {bs : List Byte} {s u : State} (hin : a % 8 + bs.length ≤ 8)
    (hun : unmade s a bs.length (a / 8) = true) (hu : Noted s u) (hstays : UeStays s u)
    (hue : getB u (aTileSpStatus (8 * (a / 8) / 0x2000000)) 1 = true) : Written a bs s u where
  byte x := by
    rw [hu.memByte, if_neg]
    rintro ⟨hx, hmade⟩
    rw [show x / 8 = a / 8 by omega, hun] at hmade
    cases hmade
  check w := by
    rw [hu.eccOf, if_neg]
    rintro ⟨hw, hmade⟩
    rw [show w = a / 8 by have := mem_wordsOf.1 hw; omega, hun] at hmade
    cases hmade
  ue w hw _ := by rw [show w = a / 8 by have := mem_wordsOf.1 hw; omega]; exact hue
  stays := hstays

/-- The bytes of one word: a whole word and a merge into a word that is not uncorrectable are stored, another merge is not made. -/
theorem written_writeWord (src : Nat) {a : Nat} {bs : List Byte} (hin : a % 8 + bs.length ≤ 8) (hne : 0 < bs.length) (s : State) :
    Written a bs s (writeWord src a bs s) := by
  have hcover : unmade s a bs.length (a / 8) = (badWord s (a / 8) && !decide (bs.length = 8)) := by
    unfold unmade; rw [← Bool.decide_and]; congr 2; exact decide_eq_decide.2 (by omega)
  unfold writeWord
  dsimp only
  split
  · next hwhole =>
    refine .of_stored hin hne (by rw [hcover, hwhole]; simp) (.refl s) (.of_reg fun _ => reg_setBytes _ _ _ s) (fun x => rfl) fun w => ?_
    rw [eccOf_cleanWord, eccOf_setBytes]
  · next hpart =>
    rw [decide_eq_false hpart, Bool.not_false, Bool.and_true] at hcover
    split
    · next hfresh =>
      refine .of_stored hin hne (hcover.trans ((badWord_eq_false_iff s _).2 (.inl hfresh))) (.refl s) (.of_reg fun _ => reg_setBytes _ _ _ s)
        (fun x => rfl) fun w => ?_
      rw [eccOf_setBytes]
      split
      · next hw => rw [hw, hfresh]
      · rfl
    · next hsingle =>
      refine .of_stored hin hne (hcover.trans ((badWord_eq_false_iff s _).2 (.inr hsingle))) (noted_noteCorrected (a / 8) s)
        ((ueStays_noteCorrected _ s).trans (.of_reg fun _ => reg_setBytes _ _ _ _)) (fun x => rfl) fun w => ?_
      rw [eccOf_cleanWord, eccOf_setBytes, (noted_noteCorrected (a / 8) s).eccOf]
    · next e hnot hbad =>
      have hun : badWord s (a / 8) = true := by
        refine Bool.of_not_eq_false fun h => ?_
        rcases (badWord_eq_false_iff s _).1 h with h | h <;> rw [hbad] at h
        · cases h
        · exact hnot (Option.some.inj h)
      exact .of_unmade hin (hcover.trans hun) (noted_noteBad src _ s) (noteBad_sets_ue src _ s).1 (noteBad_sets_ue src _ s).2

section
variable {a : Nat} {p q : List Byte} {s m u : State}

theorem mem_wordsOf_append_left (hend : 8 ∣ a + p.length) {w : Nat} (hw : 8 * w < a + p.length) :
    w ∈ wordsOf a (p ++ q).length ↔ w ∈ wordsOf a p.length := by
  rw [mem_wordsOf, mem_wordsOf, List.length_append]; omega

theorem mem_wordsOf_append_right {w : Nat} (hw : a + p.length ≤ 8 * w) :
    w ∈ wordsOf a (p ++ q).length ↔ w ∈ wordsOf (a + p.length) q.length := by
  rw [mem_wordsOf, mem_wordsOf, List.length_append]; omega

/-- Of a write that goes on past a word's end, the words before that end are covered as by its first piece. -/
theorem unmade_append_left (hend : 8 ∣ a + p.length) {w : Nat} (hw : 8 * w < a + p.length) :
    unmade s a (p ++ q).length w = unmade s a p.length w := by
  unfold unmade
  rw [List.length_append, ← Bool.decide_and, ← Bool.decide_and]
  congr 2; exact decide_eq_decide.2 (by omega)

/-- The words from that end on are covered as by its second piece, and the first has left their check states. -/
theorem unmade_append_right (hend : 8 ∣ a + p.length) (hp : Written a p s m) {w : Nat} (hw : a + p.length ≤ 8 * w) :
    unmade s a (p ++ q).length w = unmade m (a + p.length) q.length w := by
  have hecc : eccOf m w = eccOf s w := by
    rw [hp.check, if_neg fun h => ?_]
    have := mem_wordsOf.1 h.1; omega
  unfold unmade badWord
  rw [hecc, List.length_append, ← Bool.decide_and, ← Bool.decide_and]
  congr 2; exact decide_eq_decide.2 (by omega)

/-- Two writes, the second from where the first ends, are one write when that is a word's end. -/
theorem Written.append (hend : 8 ∣ a + p.length) (hp : Written a p s m) (hq : Written (a + p.length) q m u) : Written a (p ++ q) s u where
  byte x := by
    rw [hq.byte, hp.byte]
    by_cases hx : x < a + p.length
    · rw [if_neg (by omega), unmade_append_left hend (by omega)]
      by_cases ha : a ≤ x
      · simp only [ha, hx, List.length_append, show x < a + (p.length + q.length) by omega, true_and]
        rw [List.getD_eq_getElem?_getD, List.getD_eq_getElem?_getD, List.getElem?_append_left (by omega)]
      · rw [if_neg fun h => ha h.1.1, if_neg fun h => ha h.1.1]
    · rw [if_neg (c := _ ∧ unmade s a p.length _ = false) fun h => hx h.1.2, unmade_append_right hend hp (by omega)]
      simp only [show a ≤ x by omega, show a + p.length ≤ x by omega, List.length_append, true_and, Nat.add_assoc]
      rw [List.getD_eq_getElem?_getD, List.getD_eq_getElem?_getD, List.getElem?_append_right (by omega), Nat.sub_sub]
  check w := by
    rw [hq.check, hp.check]
    by_cases hw : 8 * w < a + p.length
    · rw [if_neg fun h => ?_]
      · simp only [mem_wordsOf_append_left hend hw, unmade_append_left hend hw]
      · have := mem_wordsOf.1 h.1; omega
    · rw [if_neg (c := w ∈ wordsOf a p.length ∧ _) fun h => hw (mem_wordsOf.1 h.1).2.1]
      simp only [mem_wordsOf_append_right (Nat.le_of_not_lt hw), unmade_append_right hend hp (Nat.le_of_not_lt hw)]
  ue w hw hun := by
    by_cases hlt : 8 * w < a + p.length
    · rw [mem_wordsOf_append_left hend hlt] at hw
      rw [unmade_append_left hend hlt] at hun
      exact hq.stays _ (hp.ue w hw hun)
    · rw [mem_wordsOf_append_right (by omega)] at hw
      rw [unmade_append_right hend hp (by omega)] at hun
      exact hq.ue w hw hun
  stays := hp.stays.trans hq.stays

end

theorem spWriteFuel_nil (fuel src a : Nat) (s : State) : spWriteFuel fuel src a [] s = s := by
  cases fuel <;> rfl

theorem written_spWriteFuel (src : Nat) {fuel a : Nat} {bs : List Byte} (hfuel : bs.length < fuel) (s : State) :
    Written a bs s (spWriteFuel fuel src a bs s) := by
  induction fuel generalizing a bs s with
  | zero => omega
  | succ fuel ih =>
    unfold spWriteFuel
    dsimp only
    split
    · next hnil => rw [List.isEmpty_iff.1 hnil]; exact .nil a s
    · next hcons =>
      have hne : 0 < bs.length := List.length_pos_iff.2 fun h => hcons (List.isEmpty_iff.2 h)
      generalize hk : 8 - a % 8 = k
      by_cases hlast : bs.length ≤ k
      · rw [List.drop_of_length_le hlast, List.take_of_length_le hlast, spWriteFuel_nil]
        exact written_writeWord src (by omega) hne s
      · have hlen : (bs.take k).length = k := List.length_take_of_le (by omega)
        have hfirst : Written a (bs.take k) s (writeWord src a (bs.take k) s) := written_writeWord src (by omega) (by omega) s
        have hrest := ih (a := a + k) (bs := bs.drop k) (by rw [List.length_drop]; omega) (writeWord src a (bs.take k) s)
        have hall := hfirst.append (q := bs.drop k) (by omega) (by rw [hlen]; exact hrest)
        rwa [List.take_append_drop] at hall

theorem written_spWrite (src a : Nat) (bs : List Byte) (s : State) : Written a bs s (spWrite src a bs s) :=
  written_spWriteFuel src (Nat.lt_succ_self _) s

/-- A write within one word whose merge is not made leaves every byte as it was. -/
theorem Written.memByte_of_poisons {a : Nat} {bs : List Byte} {s u : State} (h : Written a bs s u) (hin : a % 8 + bs.length ≤ 8)
    (hp : writePoisons s a bs.length = true) (x : Nat) : memByte u x = memByte s x := by
  obtain ⟨w, hw, hun⟩ := (writePoisons_iff s a _).1 hp
  have hword := mem_wordsOf.1 hw
  rw [h.byte, if_neg]
  rintro ⟨hx, hmade⟩
  rw [show x / 8 = w by omega, hun] at hmade
  cases hmade

/-! ### A store of the control core that meets a merge which is not made (R219, R235, R302) -/

theorem length_leBytes (n x : Nat) : (leBytes n x).length = n := by
  induction n generalizing x with
  | zero => rfl
  | succ n ih => rw [leBytes, List.length_cons, ih]

theorem accessFault_eq_none {s : State} {t n x : Nat} (hin : x + n ≤ tileW s t) (hal : x % n = 0) : accessFault s t n x = none := by
  unfold accessFault
  rw [if_neg (Nat.not_lt.2 hin), if_neg (not_not_intro hal)]

/-- An aligned store of less than a word that meets an uncorrectable word raises POISON and leaves every byte as it was. -/
theorem exec_store_of_poisons {s : State} {t : Tile} {i : Instr} {d r : GReg} {imm : BitVec 16} {k : Nat}
    (he : exec i s = .next (onWord i t (storeOp k t d r imm) s)) (hk : k ∣ 8) (hf : FetchOk s t) (hi : Spells s t i)
    (hin : loadAddr s t r imm + k ≤ tileW s t) (hal : loadAddr s t r imm % k = 0)
    (hp : writePoisons s (pkgAddr t (loadAddr s t r imm)) k = true) :
    ∃ v, exec i s = .next (raiseExc t exPoison (loadAddr s t r imm) v) ∧ ∀ z, memByte v z = memByte s z := by
  have hn := fetched_spec hf
  have haddr : loadAddr (fetched t s) t r imm = loadAddr s t r imm := by unfold loadAddr; rw [hn.getG]
  have hfault : accessFault (fetched t s) t k (loadAddr s t r imm) = none := accessFault_eq_none (by rw [hn.tileW]; exact hin) hal
  refine ⟨spWrite 0 (pkgAddr t (loadAddr s t r imm)) (leBytes k (getG s t d).toNat) (fetched t s), ?_, fun z => ?_⟩
  · unfold storeOp at he
    rw [he, onWord_issue_of_spells hf hi]
    simp only [haddr, hfault, hn.getG, hn.writePoisons, hp, if_true]
  · have hdvd : k ∣ pkgAddr t (loadAddr s t r imm) :=
      Nat.dvd_add (Nat.dvd_mul_left_of_dvd (Nat.dvd_trans hk (by decide)) _) (Nat.dvd_of_mod_eq_zero hal)
    have hroom : k ≤ 8 - pkgAddr t (loadAddr s t r imm) % 8 := Nat.le_of_dvd (by omega) (Nat.dvd_sub hk ((Nat.dvd_mod_iff hk).2 hdvd))
    have hword : pkgAddr t (loadAddr s t r imm) % 8 + k ≤ 8 := by omega
    exact ((written_spWrite 0 _ _ _).memByte_of_poisons (by rw [length_leBytes]; exact hword) (by rw [length_leBytes, hn.writePoisons]; exact hp) z).trans
      (hn.memByte z)

/-- Settles O5: the write of a scratchpad range is that of its words, one after the other, each of which is stored or, as a merge that is not made, noted. -/
theorem scratchpadWrites : Obligations.ScratchpadWrites := by
  unfold Obligations.ScratchpadWrites
  intro src a bs s n u un
  have h : Written a bs s u := written_spWrite src a bs s
  refine ⟨fun i hi => ?inside, fun x hx => ?outside, h.check, h.ue, writePoisons_iff s a n, fun t d r imm hf => ⟨?store32, ?store16, ?store8⟩⟩
  case inside =>
    rw [h.byte, Nat.add_sub_cancel_left]
    show _ = if unmade s a bs.length ((a + i) / 8) = true then _ else _
    by_cases hun : unmade s a bs.length ((a + i) / 8) = true
    · rw [if_pos hun, if_neg fun hmade => Bool.eq_false_iff.1 hmade.2 hun]
    · rw [if_neg hun, if_pos ⟨by omega, Bool.eq_false_iff.2 hun⟩]
  case outside => rw [h.byte, if_neg (by omega)]
  case store32 => exact fun hi hin hal hp => exec_store_of_poisons rfl (by decide) hf hi hin hal hp
  case store16 => exact fun hi hin hal hp => exec_store_of_poisons rfl (by decide) hf hi hin hal hp
  case store8 => exact fun hi hin hal hp => exec_store_of_poisons rfl (by decide) hf hi hin hal hp

end Sys2Proof.Machine
end
